-- ==== Sys2Proof/Word.lean ====
section
/-! DEFINITION. The word types of the part: bytes, the 32-bit register word (R39), halves and doubles. -/

namespace Sys2Proof

/-- One byte. -/
abbrev Byte := BitVec 8
/-- A 16-bit quantity. -/
abbrev Half := BitVec 16
/-- A register or table word: register and table accesses are 32 bits wide (R39). -/
abbrev Word := BitVec 32
/-- A 64-bit pair (R47), a port stamp, a general register of an engine (R442). -/
abbrev DWord := BitVec 64

end Sys2Proof
end

