-- ==== Sys2Proof/Syntax.lean ====
section
/-! DEFINITION. The commands of the block: one constructor for each row of the table of operations and events, with
the operands that the rules give it. Every operand is plain data; what the block reads from its own state is no
operand. Idrik rows stand for one engine carrying out one decoded instruction (R442). -/

namespace Sys2Proof

/-- The two agents that reach the registers: the PCIe side and the side-band port. -/
inductive Agent where
  | host | side
deriving DecidableEq, Repr

/-- Widths of an access (R39): one word, two, or fewer bytes than a word. -/
inductive AccSize where
  | word | double | narrow (bytes : Fin 4)
deriving DecidableEq, Repr

/-- What a read reaches, and how wide it is (R39, R42): a register or table address of BAR0, or a place in a BAR2 window,
with the words of the access whose memory meets an uncorrectable error (R262): bit 0 the lower, bit 1 the upper. -/
inductive ReadAt where
  | bar0 (addr : BitVec 24) (size : AccSize)
  | bar2 (ofs : BitVec 26) (size : AccSize) (ue : BitVec 2)
deriving DecidableEq, Repr

/-- Shared engines with slices that can be late (R25). -/
inductive SliceUnit where
  | estimator | oscillation | islanding
deriving DecidableEq, Repr

/-- What starts a block reset (R507). -/
inductive BlockResetSrc where
  | brst (ag : Agent) (page : BitVec 8)
  | vaa
deriving DecidableEq, Repr

/-- The fields of a side-band command header after OP (R59). -/
structure SbHeader where
  page : Byte
  ofs : BitVec 24
  len : Half
  tag : Byte
deriving DecidableEq, Repr

/-- What starts a cold reset (R507): power-on, POR_N low for a time, an always-on supervisor. -/
inductive ColdSrc where
  | powerOn | porN (lowNs : Nat) | supervisor
deriving DecidableEq, Repr

/-- What starts a link reset (R75, R507). -/
inductive LinkSrc where
  | perstLow | hotReset | flr
deriving DecidableEq, Repr

/-- One read of the PUF array: whether it reproduces V, and its bit-error rate in 0.01 % (R556). -/
structure PufRead where
  ok : Bool
  ber : Nat
deriving DecidableEq, Repr

/-- What a PMBus read returns after its retries (R94, R95): a value, no acknowledge, a bad check. -/
inductive PmbusReply where
  | value (v : Nat) | noAck | badPec
deriving DecidableEq, Repr

/-- Why an adaptive-voltage step fails (R95, R111). -/
inductive AvsFail where
  | noAck | badPec | notSettled
deriving DecidableEq, Repr

/-- The part's own PTP messages sent at intervals (R130). -/
inductive PtpTx where
  | sync | announce | pdelayReq
deriving DecidableEq, Repr

/-- An IRIG-B frame as decoded (R136): whether markers and parity are good, and what it says. -/
structure IrigFrame where
  good : Bool
  /-- the counter at the on-time point, in 2^-16 ns -/
  edge : Nat
  /-- UTC seconds of the day, day of the year from 1, and the year when coded -/
  secOfDay : Nat
  day : Nat
  year : Option Nat
  /-- IEEE 1344 control bits: leap pending, deletion, local offset in half hours, time quality -/
  leapPending : Bool
  leapDelete : Bool
  localHalfHours : Int
  quality : Nat
deriving DecidableEq, Repr

/-- Where a large-send descriptor comes from (R172): the ring of a port with what its reads return (as many payload bytes
as were read before a completion error, and the template), or a queue with the payload bytes that read without error. -/
inductive LsoFetch where
  | ring (port : Fin 4) (desc : List Byte) (payload : List Byte) (template : Option (List Byte))
  | queue (port : Fin 4) (readable : Nat)
deriving DecidableEq, Repr

/-- What a HELLO carries (R471, R484). -/
structure PlHello where
  identity : DWord
  straps : BitVec 4
  govern : Bool
  leaseMs : Nat
  rejoin : Bool
  digest : List Byte
  image : List Byte
deriving DecidableEq, Repr

/-- What a HEARTBEAT carries (R484). -/
structure PlBeat where
  stamp : Nat
  holding : Bool
  inStep : Bool
  converging : Bool
  health : Nat
  govern : Bool
  ready : Bool
  lagMs : Nat
deriving DecidableEq, Repr

/-- The frames of the pair link (R484). -/
inductive PlMsg where
  | hello (h : PlHello)
  | heartbeat (h : PlBeat)
  | nak (missing : Nat)
  | ack
  | mirror (rec : List Byte)
  /-- a W-path sample of R20: signal, index at 64 kS/s, value, whether it is good -/
  | wpath (sig : Nat) (g : Nat) (v : Int) (good : Bool)
  | wmark (t : Nat)
  | commit (addr : Nat) (t : Nat) (words : List Word)
  | mode (govern : Bool) (t : Nat)
  | replay (rate cause idx : Nat)
  | settings (ofs : Nat) (bytes : List Byte)
  | baleDig (rate flags idx : Nat) (digest : Nat)
  | commitDig (task d flags seq t : Nat) (digest : Nat)
  | arb (rate verdict idx : Nat) (digest : Nat)
  | release (t : Nat) (lastSeq : Nat)
  | trigger (defn : Nat) (t : Nat)
  | hostmsg (bytes : List Byte)
  | clsMirror (silo : Nat) (item : List Byte)
  | health (report : List Byte)
  /-- an update state message (R595) -/
  | update (state : Nat) (data : List Byte)
deriving DecidableEq, Repr

/-- What a pair-link frame carries beside its type (R483): SEQ, ACK, retransmission, and whether its CRC is good. -/
structure PlHead where
  seq : Nat
  ack : Nat
  again : Bool
  good : Bool
deriving DecidableEq, Repr

/-- What the ECC of a scrubbed word says (R521). -/
inductive EccResult where
  | clean | corrected | uncorrectable
deriving DecidableEq, Repr

/-- Where an access meets the ECC of its word: an SRAM array's row and word; an LPDDR5X address, which may be the last of a scrub
pass; a transfer over the LPDDR5X's link; an MRAM address (R521, R538, R539). -/
inductive EccPlace where
  | sram (array : Half) (row : BitVec 32) (word : Half)
  | ddr (addr : BitVec 34) (last : Bool)
  | ddrLink
  | mram (addr : BitVec 26)
deriving DecidableEq, Repr

/-- What the comparison of two lanes finds: the results agree, or differ; the lane that is in every pair that differs, where
one is (R530). -/
inductive LaneResult where
  | agree
  | mismatch (lane : Option (Fin 4))
deriving DecidableEq, Repr


/-! Idrik instructions as decoded (R444–R465). -/

/-- Three-register operations of major opcode 0x00 that write rd, in the order of func but cmp (R447). -/
inductive AluOp where
  | add | sub | and | or | xor | sll | srl | sra | mul | mulh | mulhu | div | divu | rem | remu
deriving DecidableEq, Repr

/-- Operations with a 16-bit immediate (R447). -/
inductive ImmOp where
  | addi | andi | ori | xori
deriving DecidableEq, Repr

/-- Shifts by an immediate (R447). -/
inductive ShiftOp where
  | slli | srli | srai
deriving DecidableEq, Repr

/-- Constant loads (R447). -/
inductive SetOp where
  | setw | shin | setu
deriving DecidableEq, Repr

/-- Local-store loads (R451). -/
inductive LoadOp where
  | ld | lw | lwu | lh | lhu | lb | lbu
deriving DecidableEq, Repr

/-- Local-store stores (R451). -/
inductive StoreOp where
  | st | sw | sh | sb
deriving DecidableEq, Repr

/-- Complex operations of two operands without a shift, with one, and of one operand (R452). -/
inductive CxOp where
  | cadd | csub | crot
deriving DecidableEq, Repr
/-- Complex operations with a shift (R452). -/
inductive CxShOp where
  | cmul | cmulc | cmac | cmacc
deriving DecidableEq, Repr
/-- Complex operations of one operand (R452). -/
inductive CxUnOp where
  | cmag | cang | csum
deriving DecidableEq, Repr

/-- Granary loads (R455). -/
inductive GranOp where
  | gld | glw | glwu | glh
deriving DecidableEq, Repr

/-- An instruction of an engine, with the fields it uses (R444, R445). -/
inductive Idrik where
  | alu (op : AluOp) (rd ra rb : BitVec 5)
  | cmp (ra rb : BitVec 5)
  | imm (op : ImmOp) (rd ra : BitVec 5) (imm : BitVec 16)
  | cmpi (ra : BitVec 5) (imm : BitVec 16)
  | shift (op : ShiftOp) (rd ra : BitVec 5) (sh : BitVec 6)
  | set (op : SetOp) (rd : BitVec 5) (imm : BitVec 16)
  | br (cond : BitVec 4) (off : BitVec 22)
  | call (cond : BitVec 4) (off : BitVec 22)
  | load (op : LoadOp) (rd ra : BitVec 5) (imm : BitVec 16)
  | store (op : StoreOp) (rs ra : BitVec 5) (imm : BitVec 16)
  | cx (op : CxOp) (cd ca cb : BitVec 4)
  | cxSh (op : CxShOp) (cd ca cb : BitVec 4) (sh : BitVec 6)
  | cxUn (op : CxUnOp) (cd ca : BitVec 4)
  | cld (cd : BitVec 4) (wa : BitVec 5) (imm : BitVec 17)
  | cst (cd : BitVec 4) (wa : BitVec 5) (imm : BitVec 17)
  | gldc (cd : BitVec 4) (wa : BitVec 5) (imm : BitVec 17)
  | cget (w : BitVec 5) (c : BitVec 4) (lane : BitVec 2)
  | cput (w : BitVec 5) (c : BitVec 4) (lane : BitVec 2)
  | cspl (w : BitVec 5) (c : BitVec 4)
  | gload (op : GranOp) (rd ra : BitVec 5) (imm : BitVec 16)
  | gbale (rd ra : BitVec 5)
  | gcpy (rd ra rb : BitVec 5)
  | hld (rd ra : BitVec 5) (imm : BitVec 16)
  | hst (rd ra : BitVec 5) (imm : BitVec 16)
  | hrd (rd ra rb : BitVec 5)
  | hwr (rd ra rb : BitVec 5)
  | nop
  | done
  | jr (ra : BitVec 5)
  | time (rd rb : BitVec 5)
  | budl (rd : BitVec 5)
  | spush (rd ra rb : BitVec 5)
  | spop (rd ra rb : BitVec 5)
  | raise (ra : BitVec 5)
  | aset (ra rb : BitVec 5)
  | erec (rd ra rb : BitVec 5)
  | lsend (ra : BitVec 5)
deriving DecidableEq, Repr

/-- The commands. -/
inductive Instr where
  /-- R28: a write of MODE_CTL -/
  | modeRequest (ag : Agent) (v : Word)
  /-- R29: T_eff is reached -/
  | modeChange
  /-- R25: which shared engine is late -/
  | sliceOverrun (unit : SliceUnit)
  /-- R39: address, width and value of the access -/
  | regWrite (ag : Agent) (addr : BitVec 24) (size : AccSize) (v : DWord)
  /-- R48: address of a lower half -/
  | writeLoStage (ag : Agent) (addr : BitVec 24) (v : Word)
  /-- R48: address of an upper half -/
  | writeHiCommit (ag : Agent) (addr : BitVec 24) (v : Word)
  /-- R39, R42, R47: what the read reaches and how wide it is -/
  | readLo (ag : Agent) (rd : ReadAt)
  /-- R11: address of a clear-on-read register -/
  | clearOnRead (ag : Agent) (addr : BitVec 24)
  /-- R46 -/
  | pgErrRead (ag : Agent) (page : BitVec 8)
  /-- R42 -/
  | bar2Write (ofs : BitVec 26) (v : Word)
  /-- R49: the RELEASE bit of the same write -/
  | pgSnapTake (ag : Agent) (page : BitVec 8) (release : Bool)
  /-- R49 -/
  | pgSnapRelease (ag : Agent) (page : BitVec 8)
  /-- R45 -/
  | freezeSet (ag : Agent) (page : BitVec 8)
  /-- R45 -/
  | freezeRelease (ag : Agent) (page : BitVec 8)
  /-- R51 -/
  | lockClose (ag : Agent) (page : BitVec 8)
  /-- R51 -/
  | lockOpen (ag : Agent) (page : BitVec 8)
  /-- R57: the bits written -/
  | irqClear (ag : Agent) (page : BitVec 8) (v : Word)
  /-- R57 -/
  | msixUnmask (vec : Fin 64)
  /-- R507: a write of BRST, or the VAA supervisor -/
  | blockReset (src : BlockResetSrc)
  /-- R507, R97: the supplies above their warning level plus 20 mV -/
  | blockResetEnd (page : BitVec 8) (up : BitVec 5)
  /-- R61: header and CRC trailer as clocked in -/
  | sbRead (h : SbHeader) (crc : Half)
  /-- R53, R61 -/
  | sbWrite (h : SbHeader) (data : List Byte) (crc : Half)
  /-- R60 -/
  | sbFetch (h : SbHeader) (crc : Half)
  /-- R61 -/
  | sbForceKeep (h : SbHeader) (crc : Half)
  /-- R61 -/
  | sbWarmReset (h : SbHeader) (crc : Half)
  /-- R61, R197 -/
  | sbMboxPop (h : SbHeader) (crc : Half)
  /-- R61: an operation code of no command -/
  | sbUnknownOp (op : Byte) (h : SbHeader) (crc : Half)
  /-- R61 -/
  | sbCutTransaction
  /-- R60 -/
  | sbResponseReady
  /-- R63 -/
  | hostWdogKick (v : Word)
  /-- R63 -/
  | hostWdogExpire
  /-- R63 -/
  | pcieLinkSilent
  /-- R74 -/
  | coldReset (src : ColdSrc)
  /-- R77, R74, R97: the level of RST_N, and the supplies above their warning level plus 20 mV -/
  | coldResetEnd (rstN : Bool) (up : BitVec 5)
  /-- R74: how long RST_N has been low -/
  | warmReset (lowNs : Nat)
  /-- R509, R74, R97: the level of RST_N, and the supplies above their warning level plus 20 mV -/
  | warmResetEnd (rstN : Bool) (up : BitVec 5)
  /-- R507 -/
  | watchdogExpire
  /-- R75 -/
  | linkReset (src : LinkSrc)
  /-- R507 -/
  | linkResetEnd
  /-- R80: PAIR, SENIOR, WITNESS, XO from bit 0 -/
  | strapChange (levels : BitVec 4)
  /-- R556, R566: what the reads give, and the slots whose journal fails its check -/
  | pufRegenerate (reads : List PufRead) (bad : BitVec 256)
  /-- R586: verification fails in slot A, in slot B -/
  | imageVerify (badA : Bool) (badB : Bool)
  /-- R514, R94: the slots whose CRC is found bad, and the answer to VOUT_MODE -/
  | settingsRestore (bad : BitVec 2) (vout : PmbusReply)
  /-- R518, R84: both LPDDR5X channels trained; SDS_REFCLK and SDS_RCAL present -/
  | startComplete (trained serdes : Bool)
  /-- R98: the supply's voltage in mV -/
  | supplyWarning (supply : Fin 5) (mv : Nat)
  /-- R99: of each dip, lowest voltage in mV and µs since the supply rose again -/
  | braceExit (lows : List (Nat × Nat))
  /-- R100: the supply's voltage in mV -/
  | supplyResetLevel (supply : Fin 5) (mv : Nat)
  /-- R93: S in 2^-10 G instructions/s -/
  | avsEvaluate (speed : BitVec 16)
  /-- R94 -/
  | avsReadVout (reply : PmbusReply)
  /-- R95 -/
  | avsSettleTimeout (why : AvsFail)
  /-- R95: the answer to VOUT_MODE, where that is still to be read -/
  | avsRetry (vout : PmbusReply)
  /-- R94: the answer to STATUS_WORD; how CLEAR_FAULTS ends, its value of no meaning -/
  | avsAlert (status : PmbusReply) (clear : PmbusReply)
  /-- R117 -/
  | xoLoss
  /-- R117 -/
  | xoResume
  /-- R123: PTP, PPS + ToD or IRIG-B; counter minus source in 2^-16 ns -/
  | timeOffsetReading (src : Fin 3) (ofs : Int)
  /-- R120 -/
  | sourceLossTimeout (src : Fin 3)
  /-- R124 -/
  | stepThresholdTimeout (src : Fin 3)
  /-- R124 -/
  | timeStep
  /-- R122: the TAI second that begins at the source's boundary -/
  | timeSetBySource (sec : DWord)
  /-- R123 -/
  | slewEnd
  /-- R125 -/
  | timeSetCmd (ag : Agent) (v : Word)
  /-- R129: the message that has reached the timebase first -/
  | ptpMessageRx
  /-- R130, R133: PTP port 0 or 1, or the transparent clock's C or D -/
  | ptpIntervalTx (port : Fin 4) (kind : PtpTx)
  /-- R133: the peer-delay message that has reached the transparent clock first -/
  | pdelayReqRx
  /-- R134: tenths of a nanosecond from the last tick to the edge -/
  | ppsInEdge (tenths : Fin 8)
  /-- R134: the message or sentence on TOD_RX -/
  | todMessageRx (bytes : List Byte)
  /-- R134 -/
  | todTimeout
  /-- R136 -/
  | irigFrameRx (frame : IrigFrame)
  /-- R137: the frequency measured over the window -/
  | refInMeasure (millihertz : Nat)
  /-- R135 -/
  | ppsOutEdge
  /-- R139 -/
  | leapApply
  /-- R144, R270: the sixteen differential inputs in nV -/
  | syncInEdge (nv : List Int)
  /-- R144 -/
  | syncInMissing
  /-- R143 -/
  | spgSettingApply
  /-- R143, R270: the sixteen differential inputs in nV -/
  | conversion (nv : List Int)
  /-- R272: the word written -/
  | chCtlWrite (ag : Agent) (ch : Fin 16) (v : Word)
  /-- R318: the channel -/
  | crossingOverflow (ch : Fin 16)
  /-- R282: each channel's sum of samples -/
  | hkScan (sums : Vector (BitVec 20) 24)
  /-- R104 -/
  | thermalResume
  /-- R301: the word written -/
  | wSwapCmd (ag : Agent) (v : Word)
  /-- R301: the word written -/
  | rsSwapCmd (ag : Agent) (v : Word)
  /-- R302 -/
  | coeffSwap
  /-- R306 -/
  | resamplerOutput
  /-- R306 -/
  | resamplerOverrun
  /-- R317 -/
  | estimatorSlice
  /-- R319: the word written to PE_CH_CTL -/
  | peChCommit (ag : Agent) (v : Word)
  /-- R151 -/
  | linkChange (port : Fin 4) (blockLock hiBer localFault remoteFault : Bool)
  /-- R151: ENABLE as written -/
  | portEnableChange (ag : Agent) (port : Fin 4) (en : Bool)
  /-- R152, R118, R178: destination to FCS; 2^-16 ns since the delimiter ended; FEC blocks corrected and not -/
  | frameReceive (port : Fin 4) (bytes : List Byte) (errorBlock : Bool) (ago fecCorr fecUncorr : Nat)
  /-- R156 -/
  | pauseEnd (port : Fin 4)
  /-- R158 -/
  | pauseTxRepeat (port : Fin 4)
  /-- R152 -/
  | ingressDequeue (port : Fin 4)
  /-- R160 -/
  | prpEntryForget
  /-- R161 -/
  | prpLanTimeout (lan : Fin 2)
  /-- R162 -/
  | prpSupTx
  /-- R183: PRP_EN as written -/
  | prpEnChange (ag : Agent) (en : Bool)
  /-- R170 -/
  | txFrameEnd (port : Fin 4)
  /-- R168: the word of bytes 0–3 -/
  | clsEntryCommit (ag : Agent) (port : Fin 4) (entry : Fin 64) (v : Word)
  /-- R177 -/
  | lsoProdWrite (ag : Agent) (port : Fin 4) (v : Word)
  /-- R172 -/
  | lsoDescriptor (src : LsoFetch)
  /-- R176: of the host's class or of the other -/
  | lsoDescriptorDone (port : Fin 4) (host : Bool)
  /-- R191: a producer's item, whole entries -/
  | siloPush (silo : Fin 64) (item : List Byte)
  /-- R196 -/
  | siloPopHost (silo : Fin 64)
  /-- R198: the word written to word 0 -/
  | siloPushHost (silo : Fin 64) (v : Word)
  /-- R187: the word written to SQ_CTL -/
  | siloEnable (ag : Agent) (silo : Fin 64) (v : Word)
  /-- R214 -/
  | gleanFrame
  /-- R19 -/
  | gleanLocalEntry
  /-- R213: the word of bytes 0–3 -/
  | streamEntryCommit (ag : Agent) (slot : Fin 8192) (v : Word)
  /-- R221: the word written to CAL_IDX -/
  | calIdxLoad (ag : Agent) (v : Word)
  /-- R221: the word written to CAL_ANG -/
  | calCommit (ag : Agent) (v : Word)
  /-- R225: word of the entry, and its value -/
  | svSourceWrite (ag : Agent) (src : Fin 64) (w : Fin 4) (v : Word)
  /-- R247 -/
  | baleOpen
  /-- R248 -/
  | baleCompleteClose
  /-- R249 -/
  | deadlineClose
  /-- R256, R262: slots whose sections had an uncorrectable error -/
  | amendmentExport (bad : List Nat)
  /-- R229: slots whose sections had an uncorrectable error -/
  | exportBale (bad : List Nat)
  /-- R252: the word written to BR_CTL -/
  | rateEnable (ag : Agent) (rate : Fin 4) (v : Word)
  /-- R252: the word written to BR_CTL -/
  | rateDisable (ag : Agent) (rate : Fin 4) (v : Word)
  /-- R246: the word written -/
  | rangeCommit (ag : Agent) (v : Word)
  /-- R263: the word written to GR_REPLAY_CMD -/
  | replayCmd (ag : Agent) (v : Word)
  /-- R263 -/
  | replaySlice
  /-- R263 -/
  | replayDone
  /-- R342: rates and slots whose section met an uncorrectable error (R262) -/
  | oscSlice (bad : List (Nat × Nat))
  /-- R331: the signal and the word written to bytes 0–3 -/
  | oscSignalCommit (ag : Agent) (sig : Fin 512) (v : Word)
  /-- R351: the tracker and the word written to bytes 0–3 -/
  | oscTrackerCommit (ag : Agent) (trk : Fin 4096) (v : Word)
  /-- R362: slots whose section met an uncorrectable error (R262) -/
  | islSlice (bad : List Nat)
  /-- R382: the group and the word written to bytes 0–3 -/
  | islGroupCommit (ag : Agent) (grp : Fin 64) (v : Word)
  /-- R381: the word written -/
  | islCtlWrite (ag : Agent) (v : Word)
  /-- R366: slots whose section met an uncorrectable error (R262) -/
  | composerEvaluate (bad : List Nat)
  /-- R367 -/
  | composerDecision
  /-- R369: the ball -/
  | minPwExpire (ball : Fin 16)
  /-- R368: the word written -/
  | almAck (ag : Agent) (v : Word)
  /-- R384: the word written -/
  | almTestWrite (ag : Agent) (v : Word)
  /-- R372: the dataset -/
  | gooseRetransmit (dataset : Fin 64)
  /-- R365: the source and the word written to bytes 0–3 -/
  | almSourceCommit (ag : Agent) (src : Fin 256) (v : Word)
  /-- R385: the ball and the word written to bytes 0–3 -/
  | almBallCommit (ag : Agent) (ball : Fin 16) (v : Word)
  /-- R373: the dataset and the word written to bytes 0–3 -/
  | gooseDatasetCommit (ag : Agent) (dataset : Fin 64) (v : Word)
  /-- R374: the next closed bale of OUT_RATE -/
  | coCompute
  /-- R376: the next publication time has come -/
  | coPublish
  /-- R388: the output and the word written to bytes 0–3 -/
  | coEntryCommit (ag : Agent) (out : Fin 16) (v : Word)
  /-- R379: GAP_HOLD has passed since the outputs were held -/
  | gapHoldExpire
  /-- R392: the definition whose next input sample is taken, and the bytes that the staging buffer has drained since the sample before (R401) -/
  | captureSample (defn : Fin 32) (drained : Nat)
  /-- R397: the next change or closed bale that may trigger -/
  | captureTrigger
  /-- R399: WIDTH_US has passed -/
  | trigOutEnd
  /-- R394: an edge of TRIG_IN and how long the new level lasts at least -/
  | trigInEdge (rise : Bool) (widthNs : Nat)
  /-- R394: the word written to CAP_TRIG -/
  | capHostTrigger (ag : Agent) (v : Word)
  /-- R400: the word written to CAP_ARM -/
  | capArm (ag : Agent) (v : Word)
  /-- R413: the word written to CAP_STOP -/
  | capStop (ag : Agent) (v : Word)
  /-- R400: a hold-off has ended -/
  | captureRearm
  /-- R396: a waiting definition finds space -/
  | captureArm
  /-- R404 -/
  | capAreaTailWrite (ag : Agent) (area : Fin 4) (v : Word)
  /-- R412: the definition and the word written to bytes 0–3 -/
  | capDefCommit (ag : Agent) (defn : Fin 32) (v : Word)
  /-- R408: the export engine's next step -/
  | stookExport
  /-- R419: the oldest event that was raised reaches the Thresher -/
  | thresherEvent
  /-- R421 -/
  | orderRelease
  /-- R429 -/
  | noticeAccept
  /-- R424 -/
  | itemDispatch
  /-- R422 -/
  | orderedCommit
  /-- R430: the physical engine whose item runs too long -/
  | itemOvertime (eng : Fin 26)
  /-- R437: the timer whose next instant has come -/
  | thrTimer (timer : Fin 32)
  /-- R417: the task and the word written to bytes 0–3 -/
  | taskCommit (ag : Agent) (task : Fin 1024) (v : Word)
  /-- R440: the engine's page and the word written to ENG_CTL -/
  | engOutWrite (ag : Agent) (eng : Fin 26) (v : Word)
  /-- R447: the engine and the instruction's fields -/
  | iAdd (eng : Fin 26) (rd ra rb : BitVec 5)
  /-- R447: the engine and the instruction's fields -/
  | iSub (eng : Fin 26) (rd ra rb : BitVec 5)
  /-- R447 -/
  | iCmp (eng : Fin 26) (ra rb : BitVec 5)
  /-- R447: the engine and the instruction's fields -/
  | iAnd (eng : Fin 26) (rd ra rb : BitVec 5)
  /-- R447: the engine and the instruction's fields -/
  | iOr (eng : Fin 26) (rd ra rb : BitVec 5)
  /-- R447: the engine and the instruction's fields -/
  | iXor (eng : Fin 26) (rd ra rb : BitVec 5)
  /-- R447: the engine and the instruction's fields -/
  | iSll (eng : Fin 26) (rd ra rb : BitVec 5)
  /-- R447: the engine and the instruction's fields -/
  | iSrl (eng : Fin 26) (rd ra rb : BitVec 5)
  /-- R447: the engine and the instruction's fields -/
  | iSra (eng : Fin 26) (rd ra rb : BitVec 5)
  /-- R447: the engine and the instruction's fields -/
  | iMul (eng : Fin 26) (rd ra rb : BitVec 5)
  /-- R447: the engine and the instruction's fields -/
  | iMulh (eng : Fin 26) (rd ra rb : BitVec 5)
  /-- R447: the engine and the instruction's fields -/
  | iMulhu (eng : Fin 26) (rd ra rb : BitVec 5)
  /-- R447: the engine and the instruction's fields -/
  | iDiv (eng : Fin 26) (rd ra rb : BitVec 5)
  /-- R447: the engine and the instruction's fields -/
  | iDivu (eng : Fin 26) (rd ra rb : BitVec 5)
  /-- R447: the engine and the instruction's fields -/
  | iRem (eng : Fin 26) (rd ra rb : BitVec 5)
  /-- R447: the engine and the instruction's fields -/
  | iRemu (eng : Fin 26) (rd ra rb : BitVec 5)
  /-- R447 -/
  | iAddi (eng : Fin 26) (rd ra : BitVec 5) (imm : BitVec 16)
  /-- R447 -/
  | iCmpi (eng : Fin 26) (ra : BitVec 5) (imm : BitVec 16)
  /-- R447 -/
  | iAndi (eng : Fin 26) (rd ra : BitVec 5) (imm : BitVec 16)
  /-- R447 -/
  | iOri (eng : Fin 26) (rd ra : BitVec 5) (imm : BitVec 16)
  /-- R447 -/
  | iXori (eng : Fin 26) (rd ra : BitVec 5) (imm : BitVec 16)
  /-- R447 -/
  | iSlli (eng : Fin 26) (rd ra : BitVec 5) (sh : BitVec 6)
  /-- R447 -/
  | iSrli (eng : Fin 26) (rd ra : BitVec 5) (sh : BitVec 6)
  /-- R447 -/
  | iSrai (eng : Fin 26) (rd ra : BitVec 5) (sh : BitVec 6)
  /-- R447 -/
  | iSetw (eng : Fin 26) (rd : BitVec 5) (imm : BitVec 16)
  /-- R447 -/
  | iShin (eng : Fin 26) (rd : BitVec 5) (imm : BitVec 16)
  /-- R447 -/
  | iSetu (eng : Fin 26) (rd : BitVec 5) (imm : BitVec 16)
  /-- R449 -/
  | iBr (eng : Fin 26) (cond : BitVec 4) (off : BitVec 22)
  /-- R449 -/
  | iCall (eng : Fin 26) (cond : BitVec 4) (off : BitVec 22)
  /-- R451: and whether the read meets an uncorrectable error -/
  | iLd (eng : Fin 26) (rd ra : BitVec 5) (imm : BitVec 16) (ue : Bool)
  /-- R451: and whether the read meets an uncorrectable error -/
  | iLw (eng : Fin 26) (rd ra : BitVec 5) (imm : BitVec 16) (ue : Bool)
  /-- R451: and whether the read meets an uncorrectable error -/
  | iLwu (eng : Fin 26) (rd ra : BitVec 5) (imm : BitVec 16) (ue : Bool)
  /-- R451: and whether the read meets an uncorrectable error -/
  | iLh (eng : Fin 26) (rd ra : BitVec 5) (imm : BitVec 16) (ue : Bool)
  /-- R451: and whether the read meets an uncorrectable error -/
  | iLhu (eng : Fin 26) (rd ra : BitVec 5) (imm : BitVec 16) (ue : Bool)
  /-- R451: and whether the read meets an uncorrectable error -/
  | iLb (eng : Fin 26) (rd ra : BitVec 5) (imm : BitVec 16) (ue : Bool)
  /-- R451: and whether the read meets an uncorrectable error -/
  | iLbu (eng : Fin 26) (rd ra : BitVec 5) (imm : BitVec 16) (ue : Bool)
  /-- R451 -/
  | iSt (eng : Fin 26) (rs ra : BitVec 5) (imm : BitVec 16)
  /-- R451 -/
  | iSw (eng : Fin 26) (rs ra : BitVec 5) (imm : BitVec 16)
  /-- R451 -/
  | iSh (eng : Fin 26) (rs ra : BitVec 5) (imm : BitVec 16)
  /-- R451 -/
  | iSb (eng : Fin 26) (rs ra : BitVec 5) (imm : BitVec 16)
  /-- R452 -/
  | iCadd (eng : Fin 26) (cd ca cb : BitVec 4)
  /-- R452 -/
  | iCsub (eng : Fin 26) (cd ca cb : BitVec 4)
  /-- R452 -/
  | iCmul (eng : Fin 26) (cd ca cb : BitVec 4) (sh : BitVec 6)
  /-- R452 -/
  | iCmulc (eng : Fin 26) (cd ca cb : BitVec 4) (sh : BitVec 6)
  /-- R452 -/
  | iCmac (eng : Fin 26) (cd ca cb : BitVec 4) (sh : BitVec 6)
  /-- R452 -/
  | iCmacc (eng : Fin 26) (cd ca cb : BitVec 4) (sh : BitVec 6)
  /-- R452 -/
  | iCmag (eng : Fin 26) (cd ca : BitVec 4)
  /-- R452 -/
  | iCang (eng : Fin 26) (cd ca : BitVec 4)
  /-- R452 -/
  | iCrot (eng : Fin 26) (cd ca cb : BitVec 4)
  /-- R452 -/
  | iCsum (eng : Fin 26) (cd ca : BitVec 4)
  /-- R453: and whether the read meets an uncorrectable error -/
  | iCld (eng : Fin 26) (cd : BitVec 4) (wa : BitVec 5) (imm : BitVec 17) (ue : Bool)
  /-- R453 -/
  | iCst (eng : Fin 26) (cd : BitVec 4) (wa : BitVec 5) (imm : BitVec 17)
  /-- R453 -/
  | iCget (eng : Fin 26) (w : BitVec 5) (c : BitVec 4) (k : BitVec 2)
  /-- R453 -/
  | iCput (eng : Fin 26) (w : BitVec 5) (c : BitVec 4) (k : BitVec 2)
  /-- R453 -/
  | iCspl (eng : Fin 26) (w : BitVec 5) (c : BitVec 4)
  /-- R453: and whether the read meets an uncorrectable error -/
  | iGldc (eng : Fin 26) (cd : BitVec 4) (wa : BitVec 5) (imm : BitVec 17) (ue : Bool)
  /-- R454 -/
  | iNop (eng : Fin 26)
  /-- R466: and whether the log meets an uncorrectable error -/
  | iDone (eng : Fin 26) (logUe : Bool)
  /-- R454 -/
  | iJr (eng : Fin 26) (ra : BitVec 5)
  /-- R454 -/
  | iTime (eng : Fin 26) (rd rb : BitVec 5)
  /-- R454 -/
  | iBudl (eng : Fin 26) (rd : BitVec 5)
  /-- R460: and whether the read meets an uncorrectable error -/
  | iSpush (eng : Fin 26) (rd ra rb : BitVec 5) (ue : Bool)
  /-- R461 -/
  | iSpop (eng : Fin 26) (rd ra rb : BitVec 5)
  /-- R462 -/
  | iRaise (eng : Fin 26) (ra : BitVec 5)
  /-- R463 -/
  | iAset (eng : Fin 26) (ra rb : BitVec 5)
  /-- R464 -/
  | iErec (eng : Fin 26) (rd ra rb : BitVec 5)
  /-- R465: and whether the read meets an uncorrectable error -/
  | iLsend (eng : Fin 26) (ra : BitVec 5) (ue : Bool)
  /-- R455: and whether the read meets an uncorrectable error -/
  | iGld (eng : Fin 26) (rd ra : BitVec 5) (imm : BitVec 16) (ue : Bool)
  /-- R455: and whether the read meets an uncorrectable error -/
  | iGlw (eng : Fin 26) (rd ra : BitVec 5) (imm : BitVec 16) (ue : Bool)
  /-- R455: and whether the read meets an uncorrectable error -/
  | iGlwu (eng : Fin 26) (rd ra : BitVec 5) (imm : BitVec 16) (ue : Bool)
  /-- R455: and whether the read meets an uncorrectable error -/
  | iGlh (eng : Fin 26) (rd ra : BitVec 5) (imm : BitVec 16) (ue : Bool)
  /-- R455 -/
  | iGbale (eng : Fin 26) (rd ra : BitVec 5)
  /-- R455: and whether the read meets an uncorrectable error -/
  | iGcpy (eng : Fin 26) (rd ra rb : BitVec 5) (ue : Bool)
  /-- R456 -/
  | iHld (eng : Fin 26) (rd ra : BitVec 5) (imm : BitVec 16)
  /-- R456 -/
  | iHst (eng : Fin 26) (rs ra : BitVec 5) (imm : BitVec 16)
  /-- R456 -/
  | iHrd (eng : Fin 26) (rd ra rb : BitVec 5)
  /-- R456: and whether the read meets an uncorrectable error -/
  | iHwr (eng : Fin 26) (rd ra rb : BitVec 5) (ue : Bool)
  /-- R471 -/
  | helloTx
  /-- R472 -/
  | plHelloRx (hd : PlHead) (h : PlHello)
  /-- R485, R482: the lane it goes on where that lane is up -/
  | heartbeatTx (lane : Fin 2)
  /-- R485, R118: the lane, and 2^-16 ns since the delimiter ended -/
  | plHeartbeatRx (hd : PlHead) (h : PlBeat) (lane : Fin 2) (ago : Nat)
  /-- R485 -/
  | pairLinkTimeout
  /-- R482 -/
  | ackTx
  /-- R482 -/
  | plAckRx (hd : PlHead)
  /-- R482 -/
  | plNakRx (hd : PlHead) (missing : BitVec 32)
  /-- R482 -/
  | plRetxTimeout
  /-- R475: the journal record, unpadded, or the W-path sample of R20 -/
  | plMirrorRx (hd : PlHead) (record : PlMsg)
  /-- R475: the watermark in full form, 2^-16 ns -/
  | plWmarkRx (hd : PlHead) (t : Nat)
  /-- R475 -/
  | plCommitRx (hd : PlHead) (addr : BitVec 32) (t : Nat) (ws : List Word)
  /-- R30 -/
  | plModeRx (hd : PlHead) (govern : Bool) (t : Nat)
  /-- R475 -/
  | plReplayRx (hd : PlHead) (rate : Fin 4) (cause : Byte) (idx : BitVec 32)
  /-- R473 -/
  | plSettingsRx (hd : PlHead) (ofs : BitVec 32) (bytes : List Byte)
  /-- R479 -/
  | plBaleDigRx (hd : PlHead) (rate : Fin 4) (flags : Byte) (idx : BitVec 32) (digest : DWord)
  /-- R479 -/
  | plCommitDigRx (hd : PlHead) (task d flags : Nat) (seq : BitVec 32) (t : Nat) (digest : DWord)
  /-- R480 -/
  | plArbRx (hd : PlHead) (rate : Fin 4) (verdict : Byte) (idx : BitVec 32) (digest : DWord)
  /-- R487 -/
  | plReleaseRx (hd : PlHead) (t : Nat) (lastSeq : Nat)
  /-- R394 -/
  | plTriggerRx (hd : PlHead) (defn : Byte) (t : Nat)
  /-- R484 -/
  | plHostmsgRx (hd : PlHead) (bytes : List Byte)
  /-- R167 -/
  | plClsMirrorRx (hd : PlHead) (silo : Fin 64) (item : List Byte)
  /-- R484 -/
  | plHealthRx (hd : PlHead) (report : List Byte)
  /-- R595: PHASE, then FLAGS, SEQ and versions -/
  | plUpdStateRx (hd : PlHead) (state : Byte) (data : List Byte)
  /-- R497: the word written to word 0 -/
  | pairMboxSend (ag : Agent) (v : Word)
  /-- R487: the word written to PAIR_REQ -/
  | pairReqRelease (ag : Agent) (v : Word)
  /-- R481: the word written to PAIR_REQ -/
  | pairReqRejoin (ag : Agent) (v : Word)
  /-- R481 -/
  | rejoinEpoch
  /-- R490: LEASE_OUT read back high during the previous pulse -/
  | leaseRenewal (readHigh : Bool)
  /-- R486: the pulse's width -/
  | leasePulseRx (widthNs : Nat)
  /-- R487 -/
  | leaseExpire
  /-- R488 -/
  | claimDelayExpire
  /-- R489 -/
  | leaseClaim
  /-- R489 -/
  | claimGuardEnd
  /-- R489 -/
  | claimBackoffExpire
  /-- R492: the filtered level of WIT_N -/
  | witnessEdge (high : Bool)
  /-- R492: both members' WIT_N have been low for more than 10 ms -/
  | witnessFaultTimeout
  /-- R505: bits [31:16] of the word written -/
  | stateReqRun (ag : Agent) (guard : Half)
  /-- R504: bits [31:16] of the word written -/
  | stateReqIdle (ag : Agent) (guard : Half)
  /-- R505: bits [31:16] of the word written -/
  | stateReqKeep (ag : Agent) (guard : Half)
  /-- R507: bits [31:16] of the word written -/
  | rstReqWarm (ag : Agent) (guard : Half)
  /-- R505 -/
  | powerRemoved
  /-- R512: bits [31:16] of the word written -/
  | settingsCommit (ag : Agent) (guard : Half)
  /-- R512 -/
  | settingsCommitDone
  /-- R521: the word read and what its ECC says -/
  | scrubRead (place : EccPlace) (res : EccResult)
  /-- R526 -/
  | rotationStepStart
  /-- R527: the check that fails, none where all three pass -/
  | engineTestDone (fail : Option (Fin 3))
  /-- R536: the word written to BIST_REQ -/
  | bistReqTest (ag : Agent) (v : Word)
  /-- R529: the stage that had no acknowledge -/
  | handshakeTimeout (page : BitVec 8) (stage : Nat) (lane : Option (Fin 4))
  /-- R530: unit code, and what the comparison of two lanes finds -/
  | laneCheck (unit : Fin 4) (bad : LaneResult)
  /-- R531 -/
  | ageingCheck
  /-- R534 -/
  | healthReport
  /-- R532 -/
  | healthCauseExpire
  /-- R544: the recorder's grant point decides -/
  | evrOccurrence
  /-- R542 -/
  | evrCommit
  /-- R546 -/
  | evrBucketRefill
  /-- R546 -/
  | evrSecondTick
  /-- R543 -/
  | evrRingSearch
  /-- R549 -/
  | evrWinRead (ag : Agent)
  /-- R550 -/
  | evrAdv (ag : Agent) (v : Word)
  /-- R565: bits [31:16] of the word written -/
  | ksCmdWrite (ag : Agent) (guard : Half)
  /-- R563: bits [31:16] of the word written -/
  | ksCmdRevoke (ag : Agent) (guard : Half)
  /-- R563: bits [31:16] of the word written -/
  | ksCmdErase (ag : Agent) (guard : Half)
  /-- R567 -/
  | ownChalRead (ag : Agent)
  /-- R567: bits [31:16] of the word written -/
  | ownCmdOpen (ag : Agent) (guard : Half)
  /-- R569: bits [31:16] of the word written -/
  | ownCmdClose (ag : Agent) (guard : Half)
  /-- R568: bits [31:16] of the word written -/
  | ownCmdReanchor (ag : Agent) (guard : Half)
  /-- R569 -/
  | ownSessionTimeout
  /-- R570: bits [31:16] of the word written -/
  | attReqSign (ag : Agent) (guard : Half)
  /-- R571 -/
  | attStatementReady
  /-- R573 -/
  | tamperAssert (source : Fin 6)
  /-- R575 -/
  | tamperEraseDone
  /-- R576: the guard written, and the sources asserted then -/
  | tampClear (ag : Agent) (guard : Half) (live : BitVec 6)
  /-- R591: the word written to UPD_CMD -/
  | updLoad (ag : Agent) (v : Word)
  /-- R591: what the reads returned, and whether without a completion error -/
  | updLoadDone (bytes : List Byte) (ok : Bool)
  /-- R591: the word written to UPD_DATA_CMD -/
  | updAppend (ag : Agent) (v : Word)
  /-- R592: the word written to UPD_CMD -/
  | updStage (ag : Agent) (v : Word)
  /-- R592: a kind whose block read back wrong from MRAM -/
  | updStageDone (badKind : Option Nat)
  /-- R593: the word written to UPD_CMD, and the levels of BACKUP_N and UPD_INHIBIT_N from bit 0 -/
  | updActivate (ag : Agent) (v : Word) (pins : BitVec 2)
  /-- R599: the word written to UPD_CMD -/
  | updAbort (ag : Agent) (v : Word)
  /-- R597: the migrated settings, and whether the self-checks passed -/
  | updShadowDone (mig : Option (List (Nat × Word))) (pass : Bool)
  /-- R596 -/
  | updShadowTimeout
  /-- R597 -/
  | updHandover
  /-- R599 -/
  | updProbationPass
  /-- R599 -/
  | updHandback
  /-- R128 -/
  | lockedReadingTimeout
  /-- R135 -/
  | ppsOutPulseEnd
  /-- R482 -/
  | pairLinkLaneChange (lane : Fin 2) (lock : Bool)
  /-- R492 -/
  | witnessGrantGuardEnd
  /-- R565 -/
  | keySlotWriteDone
  /-- R567 -/
  | ownerSessionVerifyDone
  /-- R576 -/
  | rootEnrolmentDone (reads : List PufRead)
  /-- R599 -/
  | firmwareWatchdogTrip
  /-- R445, R468: nothing can be fetched or decoded at the pc; whether the fetch met an uncorrectable error -/
  | illegalInstruction (eng : Fin 26) (ecc : Bool)
deriving DecidableEq, Repr

end Sys2Proof
end

