-- ==== Sys2Proof/Decode.lean ====
section
/-! DEFINITION. The words of the engines' instructions (R444, R445): decoding, total on any word, and the encoder written
from the same tables. The table of commands gives no row any bits, so no word spells a command. -/

namespace Sys2Proof

/-- The command that a word spells by the table's bits: no row has bits (DESIGN CHOICE 1). -/
def decodeTableWord (_nbits _w : Nat) : Option Instr := none

/-! Fields (R444). -/

/-- Bits [31:26], the major opcode. -/
def majorOf (w : Word) : BitVec 6 := w.extractLsb' 26 6
/-- rd of formats R and I, w of format L. -/
def rdOf (w : Word) : BitVec 5 := w.extractLsb' 21 5
/-- ra. -/
def raOf (w : Word) : BitVec 5 := w.extractLsb' 16 5
/-- rb. -/
def rbOf (w : Word) : BitVec 5 := w.extractLsb' 11 5
/-- func of format R. -/
def funcOf (w : Word) : BitVec 11 := w.extractLsb' 0 11
/-- imm16. -/
def immOf (w : Word) : BitVec 16 := w.extractLsb' 0 16
/-- cond of format B; cd of formats C and V. -/
def condOf (w : Word) : BitVec 4 := w.extractLsb' 22 4
/-- off22. -/
def offOf (w : Word) : BitVec 22 := w.extractLsb' 0 22
/-- ca. -/
def caOf (w : Word) : BitVec 4 := w.extractLsb' 18 4
/-- cb. -/
def cbOf (w : Word) : BitVec 4 := w.extractLsb' 14 4
/-- sh of format C. -/
def shOf (w : Word) : BitVec 6 := w.extractLsb' 8 6
/-- func of format C. -/
def cfuncOf (w : Word) : BitVec 8 := w.extractLsb' 0 8
/-- wa of format V. -/
def waOf (w : Word) : BitVec 5 := w.extractLsb' 17 5
/-- imm17. -/
def imm17Of (w : Word) : BitVec 17 := w.extractLsb' 0 17
/-- c of format L. -/
def lcOf (w : Word) : BitVec 4 := w.extractLsb' 17 4
/-- lane. -/
def laneOf (w : Word) : BitVec 2 := w.extractLsb' 15 2
/-- The zero field of format L. -/
def lzeroOf (w : Word) : BitVec 15 := w.extractLsb' 0 15

/-! Decoding, by major opcode. -/

/-- An instruction where its unused fields are 0, else none: illegal (R445). -/
def legalIf (p : Bool) (i : Idrik) : Option Idrik := if p then some i else none
/-- Major opcode 0x00 (R447). -/
def decodeAlu (w : Word) : Option Idrik :=
  let op := fun o => some (Idrik.alu o (rdOf w) (raOf w) (rbOf w))
  match (funcOf w).toNat with
  | 0x000 => op .add
  | 0x001 => op .sub
  | 0x002 => legalIf (rdOf w == 0) (.cmp (raOf w) (rbOf w))
  | 0x003 => op .and
  | 0x004 => op .or
  | 0x005 => op .xor
  | 0x006 => op .sll
  | 0x007 => op .srl
  | 0x008 => op .sra
  | 0x009 => op .mul
  | 0x00A => op .mulh
  | 0x00B => op .mulhu
  | 0x00C => op .div
  | 0x00D => op .divu
  | 0x00E => op .rem
  | 0x00F => op .remu
  | _ => none
/-- A shift by an immediate: imm16[15:6] is 0 (R447). -/
def decodeShift (op : ShiftOp) (w : Word) : Option Idrik :=
  legalIf ((immOf w).extractLsb' 6 10 == 0) (.shift op (rdOf w) (raOf w) ((immOf w).extractLsb' 0 6))
/-- A constant load: ra is 0 (R447). -/
def decodeSet (op : SetOp) (w : Word) : Option Idrik := legalIf (raOf w == 0) (.set op (rdOf w) (immOf w))
/-- Major opcode 0x20 (R452). -/
def decodeCx (w : Word) : Option Idrik :=
  let two := fun o => legalIf (shOf w == 0) (.cx o (condOf w) (caOf w) (cbOf w))
  let sh := fun o => some (Idrik.cxSh o (condOf w) (caOf w) (cbOf w) (shOf w))
  let one := fun o => legalIf (shOf w == 0 && cbOf w == 0) (.cxUn o (condOf w) (caOf w))
  match (cfuncOf w).toNat with
  | 0x00 => two .cadd
  | 0x01 => two .csub
  | 0x02 => sh .cmul
  | 0x03 => sh .cmulc
  | 0x04 => sh .cmac
  | 0x05 => sh .cmacc
  | 0x06 => one .cmag
  | 0x07 => one .cang
  | 0x08 => two .crot
  | 0x09 => one .csum
  | _ => none
/-- Major opcode 0x38 (R454). -/
def decodeSys (w : Word) : Option Idrik :=
  let d := rdOf w
  let a := raOf w
  let b := rbOf w
  match (funcOf w).toNat with
  | 0x000 => legalIf (d == 0 && a == 0 && b == 0) .nop
  | 0x001 => legalIf (d == 0 && a == 0 && b == 0) .done
  | 0x002 => legalIf (d == 0 && b == 0) (.jr a)
  | 0x003 => legalIf (a == 0 && d != b) (.time d b)
  | 0x004 => legalIf (a == 0 && b == 0) (.budl d)
  | 0x010 => some (.spush d a b)
  | 0x011 => some (.spop d a b)
  | 0x012 => legalIf (d == 0 && b == 0) (.raise a)
  | 0x013 => legalIf (d == 0) (.aset a b)
  | 0x014 => some (.erec d a b)
  | 0x015 => legalIf (d == 0 && b == 0) (.lsend a)
  | _ => none
/-- The instruction of a word; none where it is illegal (R445). -/
def decode (w : Word) : Option Idrik :=
  let d := rdOf w
  let a := raOf w
  let i := immOf w
  let f0 := funcOf w == 0
  match (majorOf w).toNat with
  | 0x00 => decodeAlu w
  | 0x01 => some (.imm .addi d a i)
  | 0x02 => legalIf (d == 0) (.cmpi a i)
  | 0x03 => some (.imm .andi d a i)
  | 0x04 => some (.imm .ori d a i)
  | 0x05 => some (.imm .xori d a i)
  | 0x06 => decodeShift .slli w
  | 0x07 => decodeShift .srli w
  | 0x08 => decodeShift .srai w
  | 0x09 => decodeSet .setw w
  | 0x0A => decodeSet .shin w
  | 0x0B => decodeSet .setu w
  | 0x10 => some (.load .ld d a i)
  | 0x11 => some (.load .lw d a i)
  | 0x12 => some (.load .lwu d a i)
  | 0x13 => some (.load .lh d a i)
  | 0x14 => some (.load .lhu d a i)
  | 0x15 => some (.load .lb d a i)
  | 0x16 => some (.load .lbu d a i)
  | 0x18 => some (.store .st d a i)
  | 0x19 => some (.store .sw d a i)
  | 0x1A => some (.store .sh d a i)
  | 0x1B => some (.store .sb d a i)
  | 0x1C => legalIf (condOf w != 15) (.br (condOf w) (offOf w))
  | 0x1D => legalIf (condOf w != 15) (.call (condOf w) (offOf w))
  | 0x20 => decodeCx w
  | 0x21 => some (.cld (condOf w) (waOf w) (imm17Of w))
  | 0x22 => some (.cst (condOf w) (waOf w) (imm17Of w))
  | 0x23 => legalIf (lzeroOf w == 0) (.cget d (lcOf w) (laneOf w))
  | 0x24 => legalIf (lzeroOf w == 0) (.cput d (lcOf w) (laneOf w))
  | 0x25 => legalIf (lzeroOf w == 0 && laneOf w == 0) (.cspl d (lcOf w))
  | 0x28 => some (.gload .gld d a i)
  | 0x29 => some (.gload .glw d a i)
  | 0x2A => some (.gload .glwu d a i)
  | 0x2B => some (.gload .glh d a i)
  | 0x2D => some (.gldc (condOf w) (waOf w) (imm17Of w))
  | 0x2E => legalIf (f0 && rbOf w == 0) (.gbale d a)
  | 0x2F => legalIf f0 (.gcpy d a (rbOf w))
  | 0x30 => some (.hld d a i)
  | 0x31 => some (.hst d a i)
  | 0x32 => legalIf f0 (.hrd d a (rbOf w))
  | 0x33 => legalIf f0 (.hwr d a (rbOf w))
  | 0x38 => decodeSys w
  | _ => none

/-! Encoding. -/

/-- Format R. -/
def encR (op : BitVec 6) (rd ra rb : BitVec 5) (func : BitVec 11) : Word := op ++ rd ++ ra ++ rb ++ func
/-- Format I. -/
def encI (op : BitVec 6) (rd ra : BitVec 5) (imm : BitVec 16) : Word := op ++ rd ++ ra ++ imm
/-- Format B. -/
def encB (op : BitVec 6) (cond : BitVec 4) (off : BitVec 22) : Word := op ++ cond ++ off
/-- Format C. -/
def encC (cd ca cb : BitVec 4) (sh : BitVec 6) (func : BitVec 8) : Word := (0x20#6) ++ cd ++ ca ++ cb ++ sh ++ func
/-- Format V. -/
def encV (op : BitVec 6) (cd : BitVec 4) (wa : BitVec 5) (imm : BitVec 17) : Word := op ++ cd ++ wa ++ imm
/-- Format L. -/
def encL (op : BitVec 6) (w : BitVec 5) (c : BitVec 4) (lane : BitVec 2) : Word := op ++ w ++ c ++ lane ++ (0#15)
/-- func of an operation of major opcode 0x00. -/
def aluFunc : AluOp → BitVec 11
  | .add => 0x000
  | .sub => 0x001
  | .and => 0x003
  | .or => 0x004
  | .xor => 0x005
  | .sll => 0x006
  | .srl => 0x007
  | .sra => 0x008
  | .mul => 0x009
  | .mulh => 0x00A
  | .mulhu => 0x00B
  | .div => 0x00C
  | .divu => 0x00D
  | .rem => 0x00E
  | .remu => 0x00F
/-- The word of an instruction (R444–R456). -/
def encode : Idrik → Word
  | .alu op d a b => encR 0x00 d a b (aluFunc op)
  | .cmp a b => encR 0x00 0 a b 0x002
  | .imm op d a i => encI (match op with | .addi => 0x01 | .andi => 0x03 | .ori => 0x04 | .xori => 0x05) d a i
  | .cmpi a i => encI 0x02 0 a i
  | .shift op d a sh => encI (match op with | .slli => 0x06 | .srli => 0x07 | .srai => 0x08) d a ((0#10) ++ sh)
  | .set op d i => encI (match op with | .setw => 0x09 | .shin => 0x0A | .setu => 0x0B) d 0 i
  | .br c o => encB 0x1C c o
  | .call c o => encB 0x1D c o
  | .load op d a i => encI (match op with
      | .ld => 0x10 | .lw => 0x11 | .lwu => 0x12 | .lh => 0x13 | .lhu => 0x14 | .lb => 0x15 | .lbu => 0x16) d a i
  | .store op d a i => encI (match op with | .st => 0x18 | .sw => 0x19 | .sh => 0x1A | .sb => 0x1B) d a i
  | .cx op d a b => encC d a b 0 (match op with | .cadd => 0x00 | .csub => 0x01 | .crot => 0x08)
  | .cxSh op d a b sh => encC d a b sh (match op with | .cmul => 0x02 | .cmulc => 0x03 | .cmac => 0x04 | .cmacc => 0x05)
  | .cxUn op d a => encC d a 0 0 (match op with | .cmag => 0x06 | .cang => 0x07 | .csum => 0x09)
  | .cld d a i => encV 0x21 d a i
  | .cst d a i => encV 0x22 d a i
  | .gldc d a i => encV 0x2D d a i
  | .cget w c l => encL 0x23 w c l
  | .cput w c l => encL 0x24 w c l
  | .cspl w c => encL 0x25 w c 0
  | .gload op d a i => encI (match op with | .gld => 0x28 | .glw => 0x29 | .glwu => 0x2A | .glh => 0x2B) d a i
  | .gbale d a => encR 0x2E d a 0 0
  | .gcpy d a b => encR 0x2F d a b 0
  | .hld d a i => encI 0x30 d a i
  | .hst d a i => encI 0x31 d a i
  | .hrd d a b => encR 0x32 d a b 0
  | .hwr d a b => encR 0x33 d a b 0
  | .nop => encR 0x38 0 0 0 0x000
  | .done => encR 0x38 0 0 0 0x001
  | .jr a => encR 0x38 0 a 0 0x002
  | .time d b => encR 0x38 d 0 b 0x003
  | .budl d => encR 0x38 d 0 0 0x004
  | .spush d a b => encR 0x38 d a b 0x010
  | .spop d a b => encR 0x38 d a b 0x011
  | .raise a => encR 0x38 0 a 0 0x012
  | .aset a b => encR 0x38 0 a b 0x013
  | .erec d a b => encR 0x38 d a b 0x014
  | .lsend a => encR 0x38 0 a 0 0x015

end Sys2Proof
end

