-- ==== Sys2Proof/Config.lean ====
section
/-! DEFINITION. What one part fixes and the manual leaves open: the free values, which no proof can see, the facts
fused into a part, and the cryptographic functions that the manual names by their standards. -/

namespace Sys2Proof.Config

/-! Free values: applied to a counter that the step advances. -/

/-- A byte the manual gives no value. -/
opaque freeByte : Nat → Byte
/-- A number the manual gives no value. -/
opaque freeNat : Nat → Nat
/-- An integer the manual gives no value. -/
opaque freeInt : Nat → Int
/-- A choice the manual leaves open. -/
opaque freeBool : Nat → Bool

/-- What a memory holds after its contents were lost, where the manual leaves it undefined. -/
opaque lostBytes : Nat → List Byte
/-- The binary64 pattern of an argument of 0 + j0, in degrees or not, by the operands' patterns. -/
opaque argOfZero : Bool → BitVec 64 → BitVec 64 → BitVec 64

/-! Facts of one part. -/

/-- The layout version of PG_ID (R44), by page. -/
opaque layoutVersion : Nat → Byte
/-- The screening grade fused at test is the extended one, 0x2, not the standard one, 0x1 (R7). -/
opaque extendedGrade : Bool
/-- DEVICE_ID (R558). -/
opaque deviceId : DWord
/-- Spare rows of an SRAM array, by its identifier (R521). -/
opaque spareRows : Nat → Nat
/-- S of the part when new at given mV and temperature code, in 2^-10 G instructions/s (R531). -/
opaque speedNew : Nat → Nat → Nat
/-- The fuse map: the factory's repairs of one part (R525, R571). -/
opaque fuseMap : List Byte
/-- The share of a whole grid second that the Gleaner spent in slices, in 0.1 % (R234), by the second: a time that the
manual does not give. -/
opaque gleanShare : Nat → BitVec 16
/-- Versions of the parts of the factory's image, by kind (R585). -/
opaque factoryVersion : Nat → Nat
/-- Coefficient defaults of the factory filters (R299, R306), by word address. -/
opaque factoryCoeff : Nat → Word

/-- The 16-bit word of a voltage in mV in the format that a VOUT_MODE byte states (R94): the format is PMBus's own. -/
opaque voutWord : Nat → Nat → Nat

/-! Cryptographic functions, named by their standards (R556–R571). -/

/-- SHA-384. -/
opaque sha384 : List Byte → List Byte
/-- HMAC-SHA-384 of a key and a message. -/
opaque hmac384 : List Byte → List Byte → List Byte
/-- HMAC-SHA256-128 of a key and a message. -/
opaque hmac256 : List Byte → List Byte → List Byte
/-- AES-GMAC of a key, an initialisation vector and a message. -/
opaque gmac : List Byte → List Byte → List Byte → List Byte
/-- AES-KW unwrapping: the key, or none where the integrity check fails. -/
opaque kwUnwrap : List Byte → List Byte → Option (List Byte)
/-- ECDSA P-384: whether a signature r ‖ s over a digest verifies under a public point. -/
opaque ecdsaVerify : List Byte → List Byte → List Byte → Bool
/-- ECDSA P-384 with the nonce of RFC 6979: signature r ‖ s of a digest under a private key. -/
opaque ecdsaSign : List Byte → List Byte → List Byte
/-- The public point of a P-384 private key, 97 bytes. -/
opaque publicPoint : List Byte → List Byte
/-- Whether a 97-byte uncompressed point lies on P-384. -/
opaque onCurve : List Byte → Bool
/-- The private scalar from 448 bits, (c mod (n − 1)) + 1 (R558). -/
opaque scalarOf : List Byte → List Byte
/-- The root secret of an enrolment (R556). -/
opaque rootSecret : Nat → List Byte
/-- The n-th output of the DRBG (R567). -/
opaque drbg : Nat → List Byte

end Sys2Proof.Config
end

