-- ==== Sys2Proof/Machine/Bits.lean ====
section
/-! DEFINITION. Plain helpers over numbers and bytes: bit fields, byte order, signed readings, saturation,
rounding half to even (the rounding the spec names throughout), the cyclic redundancy checks it names, and the
sparse map in one canonical form that holds registers and memories. -/

namespace Sys2Proof.Machine
open Sys2Proof

/-! Bit fields, written [hi:lo] as the spec writes them. -/

/-- Bits [hi:lo] of a number. -/
def bits (n hi lo : Nat) : Nat := n / 2 ^ lo % 2 ^ (hi + 1 - lo)
/-- Bits [hi:lo] of a word. -/
def fld (w : Word) (hi lo : Nat) : Nat := bits w.toNat hi lo
/-- Bit i of a word. -/
def bitAt (w : Word) (i : Nat) : Bool := w.toNat.testBit i
/-- A number with bits [hi:lo] replaced. -/
def putBits (n hi lo v : Nat) : Nat := n - bits n hi lo * 2 ^ lo + (v % 2 ^ (hi + 1 - lo)) * 2 ^ lo
/-- A word with bits [hi:lo] replaced. -/
def putFld (w : Word) (hi lo v : Nat) : Word := BitVec.ofNat 32 (putBits w.toNat hi lo v)
/-- A word from a number, modulo 2^32. -/
def w32 (n : Nat) : Word := BitVec.ofNat 32 n
/-- One bit as a number. -/
def b01 (p : Bool) : Nat := if p then 1 else 0
/-- A word with bit i set or cleared. -/
def putBit (w : Word) (i : Nat) (p : Bool) : Word := putFld w i i (b01 p)

/-! Signed readings. -/

/-- The signed value of the low w bits of n, two's complement. -/
def sgn (w n : Nat) : Int :=
  let m := n % 2 ^ w
  if m < 2 ^ (w - 1) then (m : Int) else (m : Int) - (2 ^ w : Nat)
/-- The w-bit two's complement pattern of an integer. -/
def pat (w : Nat) (i : Int) : Nat := (i % ((2 ^ w : Nat) : Int)).toNat
/-- An integer clamped to lo .. hi. -/
def clampI (lo hi i : Int) : Int := if i < lo then lo else if hi < i then hi else i
/-- An integer saturated to w signed bits. -/
def satS (w : Nat) (i : Int) : Int := clampI (-((2 ^ (w - 1) : Nat) : Int)) (((2 ^ (w - 1) : Nat) : Int) - 1) i
/-- A number saturated to w unsigned bits. -/
def satU (w n : Nat) : Nat := if n < 2 ^ w then n else 2 ^ w - 1
/-- Saturating increment of a word (the spec's saturating counts). -/
def satInc (w : Word) : Word := if w = w32 0xFFFFFFFF then w else w + 1

/-! Rounding half to even of num / den, den positive. -/

/-- The natural quotient rounded half to even. -/
def rndNat (num den : Nat) : Nat :=
  let q := num / den
  let r := num % den
  if 2 * r < den then q else if den < 2 * r then q + 1 else q + q % 2
/-- The integer quotient rounded half to even. -/
def rndHE (num : Int) (den : Nat) : Int :=
  if num < 0 then -((rndNat (-num).toNat den : Nat) : Int) else ((rndNat num.toNat den : Nat) : Int)
/-- Rounding up: a part of a unit counts as a whole unit (R606). -/
def ceilDiv (n d : Nat) : Nat := (n + d - 1) / d

/-- Floor of log2, 0 for 0. -/
def lg (n : Nat) : Nat := Nat.log2 n

/-- Integer square root, one bit at a time from bit k down. -/
def isqrtFrom (n : Nat) : Nat → Nat → Nat
  | 0, r => r
  | k + 1, r =>
    let t := r + 2 ^ k
    isqrtFrom n k (if t * t ≤ n then t else r)
/-- The whole part of the square root. -/
def isqrt (n : Nat) : Nat := isqrtFrom n (lg n / 2 + 1) 0

/-! Byte order. -/

/-- n bytes of a number, least significant first. -/
def leBytes : Nat → Nat → List Byte
  | 0, _ => []
  | n + 1, k => BitVec.ofNat 8 k :: leBytes n (k / 256)
/-- n bytes of a number, most significant first. -/
def beBytes (n k : Nat) : List Byte := (leBytes n k).reverse
/-- The number little-endian bytes spell. -/
def ofLe (l : List Byte) : Nat := l.foldr (fun b a => b.toNat + 256 * a) 0
/-- The number big-endian bytes spell. -/
def ofBe (l : List Byte) : Nat := l.foldl (fun a b => 256 * a + b.toNat) 0
/-- n bytes from offset off, padded with zero bytes where the list ends. -/
def slice (l : List Byte) (off n : Nat) : List Byte :=
  let t := (l.drop off).take n
  t ++ List.replicate (n - t.length) 0
/-- The little-endian number of n bytes at an offset. -/
def leAt (l : List Byte) (off n : Nat) : Nat := ofLe (slice l off n)
/-- The big-endian number of n bytes at an offset. -/
def beAt (l : List Byte) (off n : Nat) : Nat := ofBe (slice l off n)
/-- A list of bytes with the bytes d put at an offset. -/
def splice (l : List Byte) (off : Nat) (d : List Byte) : List Byte :=
  l.take off ++ d ++ l.drop (off + d.length)
/-- Bytes cut or padded with zeros to n. -/
def padTo (n : Nat) (l : List Byte) : List Byte := slice l 0 n
/-- n zero bytes. -/
def zeros (n : Nat) : List Byte := List.replicate n 0
/-- The 4-byte little-endian words of a byte list. -/
def wordsOf (n : Nat) (l : List Byte) : List Word := (List.range n).map fun i => w32 (leAt l (4 * i) 4)
/-- The bytes of words, each little-endian. -/
def bytesOfWords (l : List Word) : List Byte := l.flatMap fun w => leBytes 4 w.toNat

/-! List helpers. -/

/-- The element at i, or a default. -/
def nth {α : Type} (l : List α) (i : Nat) (d : α) : α := (l[i]?).getD d
/-- A list with element i changed by f. -/
def modAt {α : Type} (l : List α) (i : Nat) (f : α → α) : List α := l.modify i f
/-- The numbers below n for which p holds. -/
def those (n : Nat) (p : Nat → Bool) : List Nat := (List.range n).filter p
/-- A mask with bit i set where p i. -/
def maskOf (n : Nat) (p : Nat → Bool) : Nat := ((those n p).map (2 ^ ·)).foldl (· + ·) 0
/-- Sum of numbers. -/
def sumN (l : List Nat) : Nat := l.foldl (· + ·) 0
/-- Sum of integers. -/
def sumI (l : List Int) : Int := l.foldl (· + ·) 0
/-- The last n elements. -/
def lastN {α : Type} (n : Nat) (l : List α) : List α := l.drop (l.length - n)

/-! Checks. A bitwise register of w bits, most significant bit first (crcMsb) or reflected (crcLsb). -/

/-- One bit of a most-significant-first CRC. -/
def crcMsbBit (w poly : Nat) (c : Nat) (bit : Bool) : Nat :=
  let top := c.testBit (w - 1)
  let s := c * 2 % 2 ^ w
  if top != bit then s ^^^ poly else s
/-- A most-significant-first CRC over bytes. -/
def crcMsb (w poly init : Nat) (l : List Byte) : Nat :=
  l.foldl (fun c b => [7, 6, 5, 4, 3, 2, 1, 0].foldl (fun c i => crcMsbBit w poly c (b.toNat.testBit i)) c) init
/-- One bit of a reflected CRC. -/
def crcLsbBit (poly : Nat) (c : Nat) (bit : Bool) : Nat :=
  let low := c.testBit 0
  let s := c / 2
  if low != bit then s ^^^ poly else s
/-- A reflected CRC over bytes. -/
def crcLsb (poly init : Nat) (l : List Byte) : Nat :=
  l.foldl (fun c b => [0, 1, 2, 3, 4, 5, 6, 7].foldl (fun c i => crcLsbBit poly c (b.toNat.testBit i)) c) init
/-- CRC-16/CCITT: polynomial 0x1021, initial 0xFFFF, no reflection, no final XOR (R59). -/
def crc16 (l : List Byte) : Nat := crcMsb 16 0x1021 0xFFFF l
/-- CRC-32C (Castagnoli), reflected, initial and final 0xFFFF_FFFF (R547, R516). -/
def crc32c (l : List Byte) : Nat := crcLsb 0x82F63B78 0xFFFFFFFF l ^^^ 0xFFFFFFFF
/-- The Ethernet FCS: CRC-32, reflected, initial and final 0xFFFF_FFFF. -/
def crc32 (l : List Byte) : Nat := crcLsb 0xEDB88320 0xFFFFFFFF l ^^^ 0xFFFFFFFF
/-- CRC-64/XZ (R258): reflected, initial and final all ones. -/
def crc64 (l : List Byte) : Nat := crcLsb 0xC96C5795D7870F42 0xFFFFFFFFFFFFFFFF l ^^^ 0xFFFFFFFFFFFFFFFF

/-! The sparse map: keys strictly rising, no entry equal to the default. -/

/-- The value at a key; d where none is listed. -/
def mget {α : Type} (d : α) : List (Nat × α) → Nat → α
  | [], _ => d
  | (k, v) :: m, a => if a = k then v else mget d m a
/-- Drops the entries of a key. -/
def mdel {α : Type} : List (Nat × α) → Nat → List (Nat × α)
  | [], _ => []
  | (k, v) :: m, a => if a = k then mdel m a else (k, v) :: mdel m a
/-- Lists a value at its place, replacing the key's entry. -/
def mins {α : Type} : List (Nat × α) → Nat → α → List (Nat × α)
  | [], a, x => [(a, x)]
  | (k, v) :: m, a, x =>
    if a < k then (a, x) :: (k, v) :: m else if a = k then (a, x) :: m else (k, v) :: mins m a x
/-- Writes a value: the default's entry is dropped, so that equal maps are equal lists. -/
def mput {α : Type} [DecidableEq α] (d : α) (m : List (Nat × α)) (a : Nat) (x : α) : List (Nat × α) :=
  if x = d then mdel m a else mins m a x
/-- The canonical form: keys strictly rising and no entry equal to its key's default. -/
def mwf {α : Type} [DecidableEq α] (d : Nat → α) (m : List (Nat × α)) : Bool :=
  decide ((m.map Prod.fst).Pairwise (· < ·)) && m.all fun e => e.2 != d e.1

/-- A byte memory: what no write has listed reads as 0 (DESIGN CHOICE, log entry 2). -/
abbrev ByteMap := List (Nat × Byte)
/-- A byte memory is in its canonical form. -/
def Memory.wf (m : ByteMap) : Bool := mwf (fun _ => 0) m
/-- A word map. -/
abbrev WMap := List (Nat × Word)

/-- One byte of a memory. -/
def byteAt (m : ByteMap) (a : Nat) : Byte := mget 0 m a
/-- n bytes of a memory from an address. -/
def readBytes (m : ByteMap) (a n : Nat) : List Byte := (List.range n).map fun i => byteAt m (a + i)
/-- Bytes written to a memory from an address on. -/
def writeBytes (m : ByteMap) (a : Nat) : List Byte → ByteMap
  | [] => m
  | b :: l => writeBytes (mput 0 m a b) (a + 1) l

end Sys2Proof.Machine
end

