-- ==== Sys2Proof/Machine/Regs.lean ====
section
/-! DEFINITION. The register map: for each page the rows of its register tables (offset, access code, reset class,
writable bits, value at reset or in the factory settings), the page header, the table regions of R41, and the
64-bit pairs and counter groups of R47. -/

namespace Sys2Proof.Machine
open Sys2Proof

/-- Access codes (R11). -/
inductive Acc where
  | ro | rw | wo | w1c | rc | rwl
deriving DecidableEq, Repr

/-- Reset classes (R12); hold: held in MRAM outside the settings, in the tamper latch, or no state. -/
inductive Cls where
  | c | w | l | b | n | hold
deriving DecidableEq, Repr

/-- One row of a register table: n words from an offset, a stride apart. -/
structure RegRow where
  off : Nat
  n : Nat
  stride : Nat
  acc : Acc
  cls : Cls
  /-- bits that a write can set; reserved bits read 0 (R13) -/
  mask : Nat
  dflt : Nat
deriving DecidableEq, Repr

/-- A row of one register. -/
def rr (off : Nat) (acc : Acc) (cls : Cls) (mask : Nat := 0xFFFFFFFF) (dflt : Nat := 0) : RegRow :=
  ⟨off, 1, 4, acc, cls, mask, dflt⟩
/-- A row of n registers, a stride apart. -/
def rs (off n stride : Nat) (acc : Acc) (cls : Cls) (mask : Nat := 0xFFFFFFFF) (dflt : Nat := 0) : RegRow :=
  ⟨off, n, stride, acc, cls, mask, dflt⟩
/-- A row holds a page offset. -/
def RegRow.has (r : RegRow) (o : Nat) : Bool :=
  r.off ≤ o && (o - r.off) % r.stride = 0 && (o - r.off) / r.stride < r.n

/-- The page header (R44), but for what depends on the page. -/
def hdrRows : List RegRow :=
  [ rr 0x000 .ro .c, rr 0x004 .ro .c, rr 0x008 .rw .n 0x7, rr 0x00C .ro .w, rr 0x010 .ro .b, rr 0x014 .rw .l,
    rr 0x018 .w1c .l, rr 0x01C .rc .w, rr 0x020 .wo .hold 0x3, rr 0x024 .ro .w, rr 0x028 .rw .n 0x1, rr 0x02C .ro .c ]

/-- DEV (R32, R79, R519). -/
def devRows : List RegRow :=
  [ rr 0x040 .rwl .n 0x1, rr 0x044 .ro .w, rr 0x048 .ro .w, rr 0x050 .ro .c, rr 0x080 .ro .c 0 3,
    rr 0x084 .wo .hold, rr 0x088 .wo .hold, rr 0x08C .ro .c, rr 0x090 .rwl .n 0xFFFF 1000, rr 0x094 .rc .c,
    rr 0x098 .ro .c, rr 0x09C .rc .c, rr 0x100 .wo .hold, rr 0x104 .ro .w, rr 0x108 .ro .c, rr 0x110 .rwl .n 0x1 1 ]

/-- PWR (R110). -/
def pwrRows : List RegRow :=
  [ rr 0x040 .rwl .n 0x0FFF00FF 0x02EE0040, rr 0x044 .rwl .n 0xFFF 750, rr 0x048 .ro .w 0 0x02EE0000, rr 0x04C .ro .w,
    rr 0x050 .ro .w, rr 0x054 .rc .c, rr 0x058 .ro .c ]

/-- TIME (R146). -/
def timeRows : List RegRow :=
  [ rr 0x040 .rwl .n 0x00FFFFFB 0x00320A50, rr 0x044 .rwl .n 0x00010FFF 1, rr 0x048 .rwl .n 0xFFFFFFFF 0x003C0064,
    rr 0x04C .rwl .n 0xFFFFFFFF 1000000, rr 0x050 .rwl .n 0xFFFFFFFF 1000, rr 0x054 .ro .c, rr 0x058 .ro .c,
    rr 0x05C .rwl .n 0x1FFFF 10000, rs 0x060 4 4 .ro .c, rs 0x070 2 4 .ro .c, rs 0x078 2 4 .rw .w,
    rr 0x080 .rw .w 0x3FFFFFFF, rr 0x084 .wo .hold, rr 0x088 .rwl .n 0x8003FFFF, rr 0x08C .ro .c,
    rr 0x090 .rwl .n 0xFFFFFFF8 0x00808040, rr 0x094 .rwl .n 0xFFFF, rs 0x098 5 4 .ro .b, rr 0x0AC .rc .c,
    rs 0x0B0 4 4 .rwl .n, rs 0x0C0 4 4 .rwl .n, rr 0x0D0 .rwl .n 0x1FF 100, rs 0x0D4 2 4 .rwl .n,
    rr 0x0DC .rwl .n 0x107, rr 0x0E0 .rwl .n 0x8000FFFF, rr 0x0E4 .rwl .n 0x3, rs 0x0E8 2 4 .rwl .n 0x01FF01FF,
    rr 0x0F0 .ro .w, rr 0x0F4 .rc .c, rs 0x0F8 4 4 .rwl .n ]

/-- PORTA–PORTD (R178, R181). -/
def portRows : List RegRow :=
  [ rr 0x040 .rwl .n 0x3FFF003D 0x19, rr 0x044 .ro .w, rr 0x048 .rwl .n, rr 0x04C .rwl .n 0xFFFF,
    rr 0x050 .rwl .n 0xFFFF 0x88A8, rr 0x054 .rwl .n 0x00FFFF87, rr 0x058 .rwl .n 0x00FFFFFF 0x00043408,
    rr 0x05C .rwl .n 0xFFFFFFFF 0xC0801000, rr 0x060 .rw .l 0xFFFFFFC0, rr 0x064 .rw .l, rr 0x068 .rw .l 0x1FFF,
    rr 0x06C .rw .l 0xFFF, rr 0x070 .ro .l, rr 0x074 .ro .w, rr 0x078 .ro .w, rs 0x200 96 4 .rc .c ]

/-- PRP (R183). -/
def prpRows : List RegRow :=
  [ rr 0x040 .rwl .n 0x03FF0003 0x01900000, rr 0x044 .rwl .n 0x80FFFFFF 0x800007D0, rr 0x048 .rwl .n 0xFFFF 200,
    rr 0x04C .ro .w, rr 0x050 .ro .w, rr 0x054 .ro .w ]

/-- SILO (R204); the factory depths of R185 stand in regDefault. -/
def siloRows : List RegRow :=
  [ rr 0x040 .ro .w, rs 0x100 16 0x20 .rwl .n 0x8000000F, rs 0x104 16 0x20 .ro .b, rs 0x108 16 0x20 .w1c .b 0x3,
    rs 0x10C 16 0x20 .rc .c, rs 0x110 16 0x20 .rc .w, rs 0x114 16 0x20 .ro .b, rs 0x400 256 4 .ro .hold,
    rs 0x800 256 4 .wo .hold ]

/-- HOST (R64) and SBM (R65). -/
def hostRows : List RegRow :=
  [ rr 0x040 .rw .l 0x3FF, rr 0x044 .rw .l 0x1FF, rr 0x048 .rw .l, rr 0x04C .wo .hold, rr 0x050 .ro .l ]
/-- SBM (R65). -/
def sbmRows : List RegRow :=
  [ rr 0x040 .w1c .w 0x1F, rr 0x044 .rw .n 0x1F, rs 0x048 4 4 .rc .c ]

/-- EVR (R554). -/
def evrRows : List RegRow :=
  [ rr 0x040 .rwl .n 0x3FFF 2000, rr 0x044 .ro .w, rr 0x048 .ro .c, rr 0x04C .ro .c, rs 0x050 3 4 .ro .hold,
    rr 0x05C .rc .c, rr 0x080 .rw .l, rr 0x084 .wo .hold, rr 0x088 .ro .w, rs 0x100 32 4 .ro .hold,
    rs 0x200 8 4 .rc .c, rs 0x800 512 4 .rwl .n 0x800FFFFC ]

/-- BIST (R536). -/
def bistRows : List RegRow :=
  [ rs 0x040 3 4 .ro .w, rr 0x04C .rwl .n 0x800000FF 0x80000000, rr 0x050 .ro .w, rr 0x054 .rwl .n 0x1FFFF 600,
    rr 0x058 .rwl .n 0xFF 4, rr 0x05C .rwl .n 0x103FF 0x1000A, rr 0x060 .ro .c, rr 0x064 .ro .w 0 0xFF33, rr 0x068 .ro .w,
    rr 0x100 .wo .hold, rs 0x180 32 4 .ro .w, rs 0x200 14 4 .rc .c ]
/-- MEMC (R538). -/
def memcRows : List RegRow :=
  [ rr 0x040 .ro .w, rr 0x044 .rwl .n 0x1FFFF 3600, rs 0x048 2 4 .ro .w, rs 0x100 8 4 .rc .c ]
/-- MRAM (R539). -/
def mramRows : List RegRow := [ rr 0x040 .ro .w, rs 0x100 6 4 .rc .c ]
/-- KEY (R579). -/
def keyRows : List RegRow :=
  [ rr 0x040 .rw .w 0xFF, rs 0x044 4 4 .ro .w, rr 0x054 .rw .w 0x0F3701FF, rr 0x058 .wo .hold, rr 0x05C .ro .w,
    rr 0x064 .ro .w, rr 0x068 .wo .hold, rr 0x06C .rwl .n 0xFFF 600, rr 0x070 .ro .c, rs 0x074 2 4 .ro .c,
    rs 0x0C0 8 4 .ro .w, rs 0x100 8 4 .rw .w, rr 0x120 .wo .hold, rr 0x124 .ro .w, rs 0x200 32 4 .wo .hold,
    rs 0x280 64 4 .wo .hold, rs 0x380 25 4 .ro .c, rs 0x400 182 4 .ro .w, rs 0x700 8 4 .rc .c ]
/-- TAMP (R581). -/
def tampRows : List RegRow :=
  [ rr 0x040 .rwl .n 0x3F00003F 0x2000003F, rr 0x044 .rwl .n 0x3FF 10, rr 0x048 .rwl .n 0xFF 0xCE, rr 0x04C .ro .w,
    rs 0x050 5 4 .ro .hold, rr 0x064 .wo .hold ]

/-- GLEAN (R234). -/
def gleanRows : List RegRow :=
  [ rr 0x040 .rwl .n 0x70000 0x70000, rs 0x044 7 4 .ro .w, rr 0x060 .rw .w 0xFFFF, rs 0x064 4 4 .rwl .n, rs 0x080 3 4 .ro .w,
    rr 0x08C .ro .hold, rs 0x100 42 4 .rc .c, rs 0x400 64 16 .rwl .n 0xF0FFFFFF, rs 0x404 64 16 .rwl .n, rs 0x408 64 16 .rwl .n,
    rs 0x40C 64 16 .rwl .n 0 ]
/-- GRAN (R266). -/
def granRows : List RegRow :=
  [ rr 0x040 .rwl .n 0x100 0x100, rs 0x044 2 4 .ro .w, rr 0x060 .wo .hold, rr 0x064 .rw .w 0x31FFF, rr 0x068 .ro .w,
    rr 0x06C .rw .w, rr 0x070 .wo .hold, rr 0x074 .ro .w, rs 0x080 4 0x40 .rwl .n 0xFF0000FF 0x30000032,
    rs 0x084 4 0x40 .rwl .n 0x07FF07FF 100, rs 0x088 4 0x40 .rwl .n 0xFFFF 16, rs 0x08C 4 0x40 .rwl .n 0x3FFFFF 262144,
    rs 0x090 4 0x40 .ro .w, rs 0x094 4 0x40 .ro .w, rs 0x098 4 0x40 .ro .w, rs 0x09C 4 0x40 .ro .w, rs 0x0A0 4 0x40 .ro .w,
    rs 0x0A4 4 0x40 .ro .w, rs 0x0A8 4 0x40 .ro .w, rs 0x0AC 4 0x40 .ro .w, rs 0x200 64 4 .rwl .n 0x1FFF1FFF,
    rs 0x400 72 4 .rc .c ]
/-- The number of bale rates (R266). -/
def granCap : Nat := 4

/-- PLINK (R500). -/
def plinkRows : List RegRow :=
  [ rr 0x040 .rwl .n 0x3 0x3, rr 0x044 .ro .w, rr 0x048 .rwl .n 0x1FFFF 1000, rs 0x04C 2 4 .rwl .n 0xFFFFFF 0x43408,
    rs 0x054 2 4 .ro .w, rs 0x200 18 4 .rc .c ]
/-- PAIR (R497). -/
def pairRows : List RegRow :=
  [ rr 0x040 .rwl .n 0x007F0F03 0x00080303, rr 0x044 .rwl .n 0x07FF00FF 0x03E80040, rs 0x048 5 4 .ro .w, rr 0x05C .ro .c,
    rs 0x060 3 4 .ro .w, rr 0x080 .wo .hold 0x7, rr 0x084 .rw .w 0x1, rs 0x200 28 4 .rc .c, rs 0x400 16 4 .wo .hold ]
/-- PG_CAP of PAIR (R497). -/
def pairCap : Nat := 1
/-- THR (R437). -/
def thrRows : List RegRow :=
  [ rr 0x040 .rwl .n 0x30000 0x20000, rr 0x044 .rwl .n 0xFF03FF 0x100032, rr 0x048 .ro .w, rs 0x04C 3 4 .ro .w,
    rr 0x058 .rw .w 0x3FF, rs 0x05C 4 4 .ro .w, rs 0x100 32 4 .rwl .n 0x83FFFFFF, rs 0x200 22 4 .rc .c ]
/-- PG_CAP of THR (R437). -/
def thrCap : Nat := 0x04001A18
/-- ENG pages of addressable engines (R440). -/
def engRows : List RegRow := [ rr 0x040 .rwl .n 0x1, rs 0x044 3 4 .ro .w, rr 0x050 .rc .w, rs 0x100 8 4 .rc .c ]
/-- ENG pages of the spares (R440). -/
def spareRows : List RegRow := [ rr 0x040 .ro .n 0, rs 0x044 3 4 .ro .w, rr 0x050 .rc .w, rs 0x100 8 4 .rc .c ]
/-- ACQ (R289). -/
def acqRows : List RegRow :=
  [ rr 0x040 .rwl .n 0x100, rr 0x044 .rwl .n 0x0FFF0FFF 0x01F40053, rr 0x048 .rwl .n 0xFFFF 2000, rs 0x04C 4 4 .ro .w,
    rs 0x100 16 4 .rwl .n 0x80000337 0x10, rs 0x140 16 4 .ro .w, rs 0x180 16 4 .rc .c, rs 0x400 16 0x40 .ro .w,
    rs 0x404 16 0x40 .ro .w, rs 0x408 16 0x40 .ro .w, rs 0x40C 16 0x40 .ro .w, rs 0x410 16 0x40 .ro .w, rs 0x414 16 0x40 .ro .w,
    rs 0x418 16 0x40 .ro .w, rs 0x41C 16 0x40 .ro .w, rs 0x420 16 0x40 .ro .w, rs 0x424 16 0x40 .ro .w, rs 0x428 16 0x40 .ro .w,
    rs 0x42C 16 0x40 .ro .w ]
/-- HKADC (R291); the factory limits are the operating limits of R87 by the table of R281 (see hkLimDefault). -/
def hkRows : List RegRow :=
  [ rr 0x040 .rwl .n 0x3FF 10, rr 0x044 .rwl .n 0xFFFFFF 0xFFFFFF, rs 0x048 4 4 .ro .w, rs 0x100 24 4 .rwl .n 0xF0F 0x404,
    rs 0x180 24 4 .rwl .n 0x0FFF0FFF, rs 0x200 24 4 .ro .w ]
/-- WIN, field chain (R322). -/
def winRows : List RegRow :=
  [ rs 0x040 2 4 .rw .b, rr 0x048 .rw .b 0x1FFFFF, rr 0x04C .wo .hold, rr 0x050 .ro .b, rr 0x054 .ro .n, rr 0x058 .ro .w,
    rr 0x05C .w1c .b, rs 0x100 16 4 .rwl .n 0x00073F00, rs 0x140 16 4 .rwl .n 0x001F1F1F 0x161607 ]
/-- WIN, resampler (R323). -/
def rsRows : List RegRow :=
  [ rs 0x040 2 4 .rw .b, rr 0x048 .rw .b 0x3FFF, rr 0x04C .wo .hold, rr 0x050 .ro .b, rr 0x054 .ro .n, rs 0x058 2 4 .ro .w,
    rs 0x060 2 4 .rc .c, rr 0x068 .ro .w, rr 0x06C .rc .w ]
/-- PHEST (R325). -/
def phestRows : List RegRow :=
  [ rr 0x040 .rw .w 0x3FF, rr 0x044 .rwl .n, rr 0x048 .rwl .n 0x00FF0001, rs 0x04C 2 4 .ro .w, rr 0x054 .rc .w, rr 0x058 .rc .c,
    rs 0x05C 2 4 .rc .c ]
/-- Factory words of the coefficient banks (R298, R299): symmetric, TAPS 15, 23 and 31, the rest as the factory fuses them. -/
def coeffDefault (a : Nat) : Nat :=
  let o := a % 0x1000
  let tap := fun (i n : Nat) => if i < n then (Config.factoryCoeff (o / 0x400 * 0x400 + 4 * min i (n - 1 - i))).toNat % 2 ^ 24 else 0
  if a < 0x310000 then
    if o < 0x400 then tap (o / 4) 15 else if o < 0x800 then tap (o % 0x400 / 4) 23 else if o < 0xC00 then tap (o % 0x400 / 4) 31
    else if o = 0xC00 then 15 else if o = 0xC04 then 23 else if o = 0xC08 then 31 else if o = 0xC0C then 22796875 else 0
  else if 0x320000 ≤ a && a < 0x324000 && o < (if a < 0x322000 then 0x800 else 0x400) then
    (Config.factoryCoeff (a / 0x2000 * 0x2000 + o)).toNat % 2 ^ 24
  else 0
def tableDefault4 (_ : Nat) : Nat := 0
/-- Factory words of further tables. -/
def tableDefault3 (a : Nat) : Nat := if 0x300000 ≤ a && a < 0x340000 then coeffDefault a else tableDefault4 a
/-- Factory words of the tables that stand outside BAR0: calibration (R221) and the estimator's channels (R325). -/
def tableDefault2 (a : Nat) : Nat :=
  if 0x2000000 ≤ a && a < 0x2100000 then (match a % 16 with
    | 0 => 0x3F800000
    | 4 => 0x3F800000
    | 8 => 0x40000000
    | _ => 0)
  else if 0x3000000 ≤ a && a < 0x3002100 then
    let c := (a - 0x3000000) / 16
    match a % 16 with
    | 0 => if c < 16 then 0x477A0000 else 0x3F800000
    | 4 => if c < 16 then 1 else 96 * 2 ^ 16 + 1
    | _ => 0
  else tableDefault3 a
/-- Factory HK_LIM of a channel (R283): the operating limits of R87 through the dividers of R281; where R87 gives none,
the widest. -/
def hkLimDefault (c : Nat) : Nat :=
  let l := fun (lo hi d : Nat) => (hi * 4096 + 625 * d) / (1250 * d) * 2 ^ 16 + (lo * 4096 + 625 * d) / (1250 * d)
  match c with
  | 3 | 4 | 6 => l 776 824 1
  | 5 | 10 => l 1746 1854 2
  | 7 => l 1164 1236 2
  | 8 => l 485 515 1
  | 9 => l 1019 1081 2
  | 11 => l 3234 3366 4
  | _ => 0x0FFF0000
/-- Defaults of a row that depend on the register's place in it. -/
def pageDefault (p o d : Nat) : Nat :=
  if p = 0x21 && 0x180 ≤ o && o < 0x1E0 then hkLimDefault ((o - 0x180) / 4) else d
/-- OSC (R350). -/
def oscRows : List RegRow :=
  [ rr 0x040 .rwl .n 0x00FF000B 0x00600003, rr 0x044 .ro .w, rr 0x048 .rc .w, rr 0x04C .rc .c, rr 0x050 .rwl .n 0xFFF00000,
    rr 0x054 .rwl .n 0x1FFF 256, rr 0x058 .ro .w, rr 0x05C .ro .hold, rs 0x100 128 4 .ro .w, rs 0x300 128 4 .ro .w,
    rs 0x600 14 4 .rc .c, rs 0x800 512 4 .rwl .n ]
def oscCap : Nat := 0x00400200
/-- ISL (R381). -/
def islRows : List RegRow :=
  [ rr 0x040 .rwl .n 0x33F0B 3, rr 0x044 .ro .w, rs 0x048 4 4 .ro .w, rr 0x058 .rc .w, rr 0x05C .rc .c, rs 0x100 8 4 .rc .c ]
/-- ALM (R384). -/
def almRows : List RegRow :=
  [ rr 0x040 .rwl .n 3 3, rr 0x044 .ro .w, rr 0x048 .wo .hold 0xFFFF, rr 0x04C .rwl .w, rs 0x100 8 4 .ro .w, rs 0x200 10 4 .rc .c ]
/-- GOV (R387). -/
def govRows : List RegRow :=
  [ rr 0x040 .rwl .n 0x30002, rr 0x044 .rwl .n 0x3FF 25, rr 0x048 .rwl .n 0xFFFFFFFF 40000, rr 0x04C .rwl .n 0xFFFF 200,
    rr 0x050 .ro .w, rr 0x054 .rwl .n 0xCFFFFFFF, rr 0x058 .rwl .n, rs 0x080 16 4 .ro .w, rs 0x0C0 16 4 .ro .w,
    rs 0x100 8 4 .rc .c, rs 0x200 32 4 .rwl .n, rs 0x280 16 4 .rwl .n ]
/-- CAP (R413). -/
def capRows : List RegRow :=
  [ rr 0x040 .rwl .n 7 7, rr 0x044 .rwl .n 0xFFFF 100, rr 0x048 .ro .w, rr 0x04C .ro .w, rr 0x050 .wo .hold, rr 0x054 .wo .hold,
    rr 0x058 .wo .hold, rr 0x05C .ro .w, rr 0x060 .rwl .n 0xF0FFFFFF 0x00400000, rr 0x064 .ro .w, rr 0x068 .ro .c,
    rr 0x06C .rwl .n 0xFF, rs 0x080 4 0x10 .rwl .n 0x8000FF7F, rs 0x084 4 0x10 .ro .c, rs 0x088 4 0x10 .rw .c,
    rs 0x08C 4 0x10 .ro .c, rs 0x100 32 4 .rwl .n, rs 0x200 24 4 .rc .c ]
/-- UPD (R602). -/
def updRows : List RegRow :=
  [ rr 0x040 .rwl .n 0x83FF0FFF 0x001E003C, rr 0x044 .rwl .n 0xFFFF 0x321E, rr 0x048 .rwl .n 0xFF, rr 0x04C .ro .w,
    rs 0x050 2 4 .rw .l, rr 0x058 .rw .l 0x3FFFFFFF, rr 0x05C .wo .hold 0xFFFF000F, rr 0x060 .ro .w, rr 0x064 .ro .w, rr 0x068 .ro .c,
    rr 0x06C .ro .c, rr 0x070 .ro .w, rs 0x074 3 4 .ro .w, rr 0x080 .ro .w, rr 0x084 .rw .w 0x1FFFFFFF, rr 0x088 .wo .hold 0xFFFF0FFF,
    rs 0x0C0 8 4 .ro .c, rs 0x100 8 4 .rc .c, rs 0x800 512 4 .wo .hold ]
/-- PG_CAP of UPD (R602). -/
def updCap : Nat := 8


/-- Every page of a block (R38, R54 and the owning chapters). -/
def allPages : List Nat :=
  [0x00, 0x01, 0x02, 0x04, 0x05, 0x06, 0x07, 0x08, 0x09, 0x10, 0x11, 0x12, 0x13, 0x18, 0x19, 0x20, 0x21, 0x22, 0x23,
   0x24, 0x28, 0x29, 0x2A, 0x2B, 0x30, 0x38] ++ (List.range 26).map (0x40 + ·) ++
  [0x60, 0x64, 0x68, 0x6C, 0x70, 0x74, 0x78, 0x7C, 0x80, 0x81]

/-- The block-specific rows of a page. -/
def pageRows (p : Nat) : List RegRow :=
  if 0x04 ≤ p && p ≤ 0x07 then portRows
  else if 0x10 ≤ p && p ≤ 0x13 then siloRows
  else if 0x40 ≤ p && p ≤ 0x57 then engRows
  else if 0x58 ≤ p && p ≤ 0x59 then spareRows
  else match p with
  | 0x00 => devRows
  | 0x01 => pwrRows
  | 0x02 => timeRows
  | 0x08 => prpRows
  | 0x09 => plinkRows
  | 0x18 => gleanRows
  | 0x19 => granRows
  | 0x20 => acqRows
  | 0x21 => hkRows
  | 0x22 => winRows
  | 0x23 => rsRows
  | 0x24 => phestRows
  | 0x28 => oscRows
  | 0x29 => islRows
  | 0x2A => almRows
  | 0x2B => govRows
  | 0x30 => capRows
  | 0x38 => thrRows
  | 0x60 => pairRows
  | 0x64 => evrRows
  | 0x68 => keyRows
  | 0x6C => updRows
  | 0x70 => bistRows
  | 0x74 => memcRows
  | 0x78 => mramRows
  | 0x7C => tampRows
  | 0x80 => hostRows
  | 0x81 => sbmRows
  | _ => []

/-- Instance number of a page (R44). -/
def pageInst (p : Nat) : Nat :=
  if 0x04 ≤ p && p ≤ 0x07 then p - 0x04
  else if 0x10 ≤ p && p ≤ 0x13 then p - 0x10
  else if 0x22 ≤ p && p ≤ 0x23 then p - 0x22
  else if 0x40 ≤ p && p ≤ 0x59 then p - 0x40
  else 0

/-- PG_CAP of a page, from its owning chapter. -/
def pageCap (p : Nat) : Nat :=
  if p = 0x04 || p = 0x05 then 0b0111
  else if p = 0x06 || p = 0x07 then 0b1011
  else if 0x10 ≤ p && p ≤ 0x13 then 0x10
  else if 0x40 ≤ p && p ≤ 0x59 then 0x200
  else match p with
  | 0x00 => if Config.extendedGrade then 2 else 1
  | 0x09 => 2
  | 0x18 => 7
  | 0x19 => granCap
  | 0x20 => 0x10
  | 0x21 => 0x18
  | 0x22 => 0x0810
  | 0x23 => 0x0240
  | 0x24 => 0x0210
  | 0x28 => oscCap
  | 0x29 => 0x40
  | 0x2A => 0x00401010
  | 0x2B => 0x10
  | 0x30 => 0x00040020
  | 0x38 => thrCap
  | 0x60 => pairCap
  | 0x64 => 0x00010000
  | 0x68 => 0x100
  | 0x6C => updCap
  | 0x70 => 2
  | 0x74 => 2
  | 0x78 => 0x40
  | 0x7C => 0x3F
  | _ => 0

/-- PG_SBW of a page (R54). -/
def pageSbw (p : Nat) : Nat := match p with
  | 0x00 => 2
  | 0x01 => 1
  | 0x60 => 2
  | 0x64 => 2
  | 0x68 => 4
  | 0x6C => 0xFFFF0003
  | 0x70 => 4
  | 0x81 => 3
  | _ => 0

/-- A table region of R41: start, length, owning page, entry size. -/
structure Region where
  start : Nat
  len : Nat
  page : Nat
  entry : Nat
deriving DecidableEq, Repr

/-- The table regions (R41). -/
def regions : List Region :=
  [ ⟨0x100000, 0x100000, 0x18, 128⟩, ⟨0x200000, 0x800, 0x04, 32⟩, ⟨0x200800, 0x800, 0x05, 32⟩, ⟨0x201000, 0x800, 0x06, 32⟩,
    ⟨0x201800, 0x800, 0x07, 32⟩, ⟨0x204000, 0x4000, 0x19, 256⟩, ⟨0x300000, 0x40000, 0x22, 4⟩, ⟨0x400000, 0x8000, 0x28, 64⟩,
    ⟨0x410000, 0x40000, 0x28, 64⟩, ⟨0x500000, 0x20000, 0x29, 2048⟩, ⟨0x540000, 0x2000, 0x2A, 32⟩, ⟨0x542000, 0x400, 0x2A, 64⟩,
    ⟨0x550000, 0x4000, 0x2A, 256⟩, ⟨0x580000, 0x1000, 0x2B, 256⟩, ⟨0x600000, 0x2000, 0x30, 256⟩, ⟨0x700000, 0x10000, 0x38, 64⟩,
    ⟨0x740000, 0x10000, 0x64, 16⟩ ]
/-- The region of a table offset. -/
def regionOf (a : Nat) : Option Region := regions.find? fun r => r.start ≤ a && a < r.start + r.len
/-- The page that owns an address: its own page, or the owner of its region. -/
def pageOf (a : Nat) : Option Nat :=
  if a < 0x100000 then (if allPages.contains (a / 0x1000) then some (a / 0x1000) else none)
  else (regionOf a).map (·.page)
/-- The row of a register address. -/
def rowOf (a : Nat) : Option RegRow :=
  if a < 0x100000 then
    let o := a % 0x1000
    (if o < 0x040 then hdrRows else pageRows (a / 0x1000)).find? (·.has o)
  else none

/-- Log2 of a silo's factory depth (R185). -/
def siloDepthLog (q : Nat) : Nat :=
  if q < 16 then 10 else if q < 20 then 12 else if q < 24 then 10 else if q < 32 then 9 else if q < 36 then 8
  else if q < 48 then 9 else if q < 56 then 8 else if q < 60 then 10 else if q = 60 then 11 else 6

/-- The factory words of a table entry, and reserved words as 0. -/
def tableDefault (a : Nat) : Nat :=
  if 0x740000 ≤ a && a < 0x750000 then                 -- event-code rates (R545)
    let code := (a - 0x740000) / 16
    match a % 16 with
    | 0 =>
      let unl := code = 0x010 || code = 0x011 || code = 0x012 || code = 0x802 || code = 0x803 || (0x900 ≤ code && code ≤ 0x9FF)
      let lo := 0x20 + b01 unl * 0x40
      if code < 0xC00 then lo + 16 * 2 ^ 8 + 1000 * 2 ^ 16 else lo + 4 * 2 ^ 8 + 250 * 2 ^ 16
    | _ => 0
  else tableDefault2 a

/-- What a register or table word holds at reset or in the factory settings, where nothing has been written. -/
def regDefault (a : Nat) : Word :=
  BitVec.ofNat 32 <|
  if a < 0x100000 then
    let p := a / 0x1000
    let o := a % 0x1000
    if o = 0x000 then p * 2 ^ 16 + pageInst p * 2 ^ 8 + (Config.layoutVersion p).toNat
    else if o = 0x004 then pageCap p
    else if o = 0x02C then pageSbw p
    else if 0x10 ≤ p && p ≤ 0x13 && 0x100 ≤ o && o < 0x300 && o % 0x20 = 0 then
      2 ^ 31 + siloDepthLog ((p - 0x10) * 16 + (o - 0x100) / 0x20)
    else match rowOf a with
    | some r => pageDefault p o r.dflt
    | none => 0
  else tableDefault a

/-! Pairs and counter groups (R47): start and number of words. -/

/-- The pairs and groups of a page, as page offsets. -/
def pageGroups (p : Nat) : List (Nat × Nat) :=
  let pairs := fun (o n : Nat) => (List.range n).map fun i => (o + 8 * i, 2)
  if 0x04 ≤ p && p ≤ 0x07 then pairs 0x200 48 ++ [(0x060, 2)]
  else if 0x40 ≤ p && p ≤ 0x59 then pairs 0x100 4
  else match p with
  | 0x02 => [(0x060, 4), (0x070, 2), (0x078, 2), (0x0A4, 2)]
  | 0x09 => pairs 0x200 9
  | 0x18 => pairs 0x100 21 ++ [(0x054, 3), (0x080, 2)]
  | 0x19 => pairs 0x400 36 ++ (List.range 4).map fun r => (0x09C + 0x40 * r, 2)
  | 0x20 => (List.range 16).map fun c => (0x400 + 0x40 * c, 12)
  | 0x22 => [(0x040, 2)]
  | 0x23 => [(0x040, 2), (0x060, 2)]
  | 0x24 => [(0x05C, 2)]
  | 0x28 => pairs 0x600 7
  | 0x29 => pairs 0x100 4 ++ [(0x048, 2), (0x050, 2)]
  | 0x2A => pairs 0x200 5
  | 0x2B => pairs 0x100 4
  | 0x30 => pairs 0x200 12
  | 0x38 => pairs 0x200 11 ++ [(0x04C, 3)]
  | 0x60 => pairs 0x200 14 ++ [(0x050, 2), (0x060, 3)]
  | 0x64 => pairs 0x200 4 ++ [(0x050, 2)]
  | 0x68 => pairs 0x700 4 ++ [(0x074, 2)]
  | 0x6C => pairs 0x100 4 ++ [(0x050, 2), (0x074, 3)]
  | 0x70 => pairs 0x200 7
  | 0x74 => pairs 0x100 4 ++ [(0x048, 2)]
  | 0x78 => pairs 0x100 3
  | 0x7C => [(0x054, 3)]
  | 0x81 => [(0x050, 2)]
  | _ => []
/-- The pair or group that an address belongs to: start address and number of words. -/
def groupOf (a : Nat) : Option (Nat × Nat) :=
  if a < 0x100000 then
    let p := a / 0x1000
    let o := a % 0x1000
    ((pageGroups p).find? fun g => g.1 ≤ o && o < g.1 + 4 * g.2).map fun g => (p * 0x1000 + g.1, g.2)
  else none

/-! Settings (R473, R512, R516). -/

/-- A word of a table that the part itself writes: status, counts and results (R516). -/
def tableLive (a : Nat) : Bool :=
  if 0x200000 ≤ a && a < 0x202000 then a % 32 = 24
  else if 0x400000 ≤ a && a < 0x408000 then a % 64 = 20
  else if 0x410000 ≤ a && a < 0x450000 then 36 ≤ a % 64
  else if 0x540000 ≤ a && a < 0x542000 then 24 ≤ a % 32
  else if 0x542000 ≤ a && a < 0x542400 then a % 64 = 24
  else if 0x550000 ≤ a && a < 0x554000 then 248 ≤ a % 256
  else if 0x580000 ≤ a && a < 0x581000 then 128 ≤ a % 256
  else if 0x600000 ≤ a && a < 0x602000 then 192 ≤ a % 256
  else if 0x740000 ≤ a && a < 0x750000 then a % 16 = 8
  else false
/-- The calibration table (R221), as the model addresses its words. -/
def isCal (a : Nat) : Bool := 0x2000000 ≤ a && a < 0x2100000
/-- The estimator's channels (R325), as the model addresses their words. -/
def isPe (a : Nat) : Bool := 0x3000000 ≤ a && a < 0x3002100
/-- A word of a table. -/
def isTable (a : Nat) : Bool := isCal a || isPe a || (0x100000 ≤ a && (regionOf a).isSome)
/-- A setting: a class N field or a table word that the part does not write (R512). -/
def isSetting (a : Nat) : Bool :=
  if a < 0x100000 then (rowOf a).any fun r => r.cls == .n else isTable a && !tableLive a
/-- The page that owns an address, the calibration table with GLEAN, the estimator's channels with PHEST. -/
def ownerPage (a : Nat) : Option Nat := if isCal a then some 0x18 else if isPe a then some 0x24 else pageOf a
/-- Bits of a setting that the members of a pair share (R473). -/
def sharedMask (a : Nat) : Nat :=
  let o := a % 0x1000
  match ownerPage a with
  | none => 0
  | some p =>
    if !isSetting a || [0x01, 0x09, 0x21, 0x30, 0x81].contains p then 0
    else if p = 0x02 && ((0x0B0 ≤ o && o < 0x0D0) || o = 0x0D4 || o = 0x0D8 || o = 0x0E8 || o = 0x0EC || (0x0F8 ≤ o && o ≤ 0x104)) then 0
    else if p = 0x02 && o = 0x0E0 then 0x80000000
    else if 0x04 ≤ p && p ≤ 0x07 && a < 0x100000 && (o = 0x048 || o = 0x04C || o = 0x058) then 0
    else 0xFFFFFFFF

end Sys2Proof.Machine
end

