-- ==== Sys2Proof/Machine/Float.lean ====
section
/-! DEFINITION. IEEE 754 arithmetic as the spec uses it: binary64 rounded to nearest even at each step, with
correctly rounded square root, sine, cosine, logarithm, exponential and arc tangent (R220, R310, R332, R356), and
binary32 as the stored and received form. A number is read as an exact fraction, the operation is exact, and one
rounding makes the result. The functions that have no exact fraction are computed to far more bits than any result
of theirs needs and then rounded once. -/

namespace Sys2Proof.Machine
open Sys2Proof

/-- A number read exactly: not a number, an infinity, or sign, numerator and denominator. -/
inductive Fl where
  | nan
  | inf (neg : Bool)
  | fin (neg : Bool) (num den : Nat)
deriving DecidableEq, Repr

/-- The exact fraction m × 2^e. -/
def flDy (neg : Bool) (m : Nat) (e : Int) : Fl :=
  if e < 0 then .fin neg m (2 ^ (-e).toNat) else .fin neg (m * 2 ^ e.toNat) 1

/-- Reads a binary format of p fraction bits and x exponent bits. -/
def flRead (p x n : Nat) : Fl :=
  let f := bits n (p - 1) 0
  let e := bits n (p + x - 1) p
  let s := n.testBit (p + x)
  let bias : Int := ((2 ^ (x - 1) : Nat) : Int) - 1
  if e = 2 ^ x - 1 then (if f = 0 then .inf s else .nan)
  else if e = 0 then flDy s f (1 - bias - p)
  else flDy s (2 ^ p + f) (e - bias - p)

/-- Floor of log2 of a positive fraction. -/
def flLog2 (num den : Nat) : Int :=
  let k : Int := (lg num : Int) - lg den
  let big := if 0 ≤ k then decide (den * 2 ^ k.toNat ≤ num) else decide (den ≤ num * 2 ^ (-k).toNat)
  if big then k else k - 1

/-- Rounds an exact number to nearest even into a binary format of p fraction bits and x exponent bits. -/
def flWrite (p x : Nat) : Fl → Nat
  | .nan => (2 ^ x - 1) * 2 ^ p + 2 ^ (p - 1)
  | .inf s => b01 s * 2 ^ (p + x) + (2 ^ x - 1) * 2 ^ p
  | .fin s num den =>
    let sg := b01 s * 2 ^ (p + x)
    if num = 0 then sg else
    let bias : Int := ((2 ^ (x - 1) : Nat) : Int) - 1
    let e := flLog2 num den
    let q : Int := max (e - p) (1 - bias - p)
    let m := if q < 0 then rndNat (num * 2 ^ (-q).toNat) den else rndNat num (den * 2 ^ q.toNat)
    -- m has at most p + 2 bits; the biased exponent follows from the place of its leading bit
    if m < 2 ^ p then sg + m else
    let m2 := if m = 2 ^ (p + 1) then 2 ^ p else m
    let q2 := if m = 2 ^ (p + 1) then q + 1 else q
    let be : Int := q2 + p + bias
    if (2 ^ x - 1 : Nat) ≤ be then sg + (2 ^ x - 1) * 2 ^ p
    else sg + be.toNat * 2 ^ p + (m2 - 2 ^ p)

/-- A binary64 pattern. -/
abbrev F64 := BitVec 64
/-- Reads a binary64. -/
def fl (a : F64) : Fl := flRead 52 11 a.toNat
/-- Rounds to binary64. -/
def f64 (v : Fl) : F64 := BitVec.ofNat 64 (flWrite 52 11 v)
/-- Reads a binary32 word. -/
def flOf32 (w : Word) : Fl := flRead 23 8 w.toNat
/-- A binary32 word as a binary64, exact. -/
def f64Of32 (w : Word) : F64 := f64 (flOf32 w)
/-- Rounds a binary64 to a binary32 word. -/
def f32Of (a : F64) : Word := w32 (flWrite 23 8 (fl a))
/-- Rounds an exact number to a binary32 word. -/
def f32 (v : Fl) : Word := w32 (flWrite 23 8 v)

/-- The sign of a number read. -/
def Fl.sign : Fl → Bool
  | .nan => false
  | .inf s => s
  | .fin s _ _ => s
/-- Negation. -/
def Fl.neg : Fl → Fl
  | .nan => .nan
  | .inf s => .inf (!s)
  | .fin s n d => .fin (!s) n d
/-- The magnitude. -/
def Fl.abs : Fl → Fl
  | .nan => .nan
  | .inf _ => .inf false
  | .fin _ n d => .fin false n d
/-- The numerator with its sign. -/
def Fl.signed (s : Bool) (n : Nat) : Int := if s then -(n : Int) else n
/-- An exact fraction from an integer numerator. -/
def flQ (num : Int) (den : Nat) : Fl := .fin (num < 0) num.natAbs den
/-- An integer, exact. -/
def flI (i : Int) : Fl := flQ i 1

/-- Exact sum. -/
def Fl.add : Fl → Fl → Fl
  | .nan, _ => .nan
  | _, .nan => .nan
  | .inf s, .inf t => if s = t then .inf s else .nan
  | .inf s, _ => .inf s
  | _, .inf t => .inf t
  | .fin s n d, .fin t m e =>
    let v := Fl.signed s (n * e) + Fl.signed t (m * d)
    if v = 0 then .fin (s && t) 0 1 else flQ v (d * e)
/-- Exact product. -/
def Fl.mul : Fl → Fl → Fl
  | .nan, _ => .nan
  | _, .nan => .nan
  | .inf s, .inf t => .inf (s != t)
  | .inf s, .fin t m _ => if m = 0 then .nan else .inf (s != t)
  | .fin s n _, .inf t => if n = 0 then .nan else .inf (s != t)
  | .fin s n d, .fin t m e => .fin (s != t) (n * m) (d * e)
/-- Exact quotient. -/
def Fl.div : Fl → Fl → Fl
  | .nan, _ => .nan
  | _, .nan => .nan
  | .inf _, .inf _ => .nan
  | .inf s, .fin t _ _ => .inf (s != t)
  | .fin s _ _, .inf t => .fin (s != t) 0 1
  | .fin s n d, .fin t m e =>
    if m = 0 then (if n = 0 then .nan else .inf (s != t)) else .fin (s != t) (n * e) (d * m)
/-- Square root to many bits with a sticky last bit, so that one rounding is correct. -/
def Fl.sqrt : Fl → Fl
  | .nan => .nan
  | .inf s => if s then .nan else .inf s
  | .fin s n d =>
    if n = 0 then .fin s 0 1 else if s then .nan else
    let t := 80 + lg d
    let q := n * 4 ^ t / d
    let r := isqrt q
    let exact := decide (r * r * d = n * 4 ^ t)
    .fin false (2 * r + b01 (!exact)) (2 ^ (t + 1))

/-- Compares two numbers; none where either is not a number. -/
def Fl.cmp : Fl → Fl → Option Ordering
  | .nan, _ => none
  | _, .nan => none
  | .inf s, .inf t => some (if s = t then .eq else if s then .lt else .gt)
  | .inf s, _ => some (if s then .lt else .gt)
  | _, .inf t => some (if t then .gt else .lt)
  | .fin s n d, .fin t m e =>
    let x := Fl.signed s (n * e)
    let y := Fl.signed t (m * d)
    some (if x < y then .lt else if x = y then .eq else .gt)

/-! binary64 operations, each rounded once to nearest even. -/

/-- a + b. -/
def fadd (a b : F64) : F64 := f64 ((fl a).add (fl b))
/-- a − b. -/
def fsub (a b : F64) : F64 := f64 ((fl a).add (fl b).neg)
/-- a × b. -/
def fmul (a b : F64) : F64 := f64 ((fl a).mul (fl b))
/-- a / b. -/
def fdiv (a b : F64) : F64 := f64 ((fl a).div (fl b))
/-- The correctly rounded square root. -/
def fsqrt (a : F64) : F64 := f64 (fl a).sqrt
/-- |a|. -/
def fabs (a : F64) : F64 := f64 (fl a).abs
/-- −a. -/
def fneg (a : F64) : F64 := f64 (fl a).neg
/-- An integer as a binary64. -/
def fInt (i : Int) : F64 := f64 (flI i)
/-- A fraction as a binary64. -/
def fQ (n : Int) (d : Nat) : F64 := f64 (flQ n d)
/-- a < b, false where either is not a number. -/
def flt (a b : F64) : Bool := (fl a).cmp (fl b) == some .lt
/-- a ≤ b. -/
def fle (a b : F64) : Bool := match (fl a).cmp (fl b) with
  | some .lt => true
  | some .eq => true
  | _ => false
/-- The larger of two. -/
def fmax (a b : F64) : F64 := if flt a b then b else a
/-- The smaller of two. -/
def fmin (a b : F64) : F64 := if flt b a then b else a
/-- Whether the pattern is not a number. -/
def fnan (a : F64) : Bool := fl a == .nan
/-- An exact number rounded half to even to an integer and saturated to w signed bits; not a number gives 0. -/
def Fl.toInt (w : Nat) : Fl → Int
  | .nan => 0
  | .inf s => if s then -((2 ^ (w - 1) : Nat) : Int) else ((2 ^ (w - 1) : Nat) : Int) - 1
  | .fin s n d => satS w (rndHE (Fl.signed s n) d)
/-- The same of a binary64. -/
def fToInt (w : Nat) (a : F64) : Int := (fl a).toInt w

/-! Fixed point with 2^-fp units for the functions without an exact fraction. -/

/-- Fraction bits of the fixed-point work: far beyond the 117 bits that the hardest binary64 cases need. -/
def fpBits : Nat := 400
/-- One in fixed point. -/
def fpOne : Nat := 2 ^ fpBits

/-- Σ of the arc tangent series of 1/k, scale one: k^-1 − k^-3/3 + ... -/
def atanInvFrom (one k2 : Nat) : Nat → Nat → Nat → Int → Int → Int
  | 0, _, _, _, acc => acc
  | f + 1, t, i, sg, acc =>
    if t = 0 then acc else atanInvFrom one k2 f (t / k2) (i + 2) (-sg) (acc + sg * ((t / i : Nat) : Int))
/-- The arc tangent of 1/k in units of 1/one. -/
def atanInv (one k : Nat) : Int := atanInvFrom one (k * k) 2000 (one / k) 1 1 0
/-- π in units of 2^-n, by Machin's formula. -/
def piScaled (n : Nat) : Nat :=
  let one := 2 ^ (n + 16)
  ((16 * atanInv one 5 - 4 * atanInv one 239) / (2 ^ 16)).toNat
/-- The Taylor series of sine or cosine of x (fixed point), from term t of order i. -/
def trigFrom (x2 : Nat) : Nat → Nat → Nat → Int → Int → Int
  | 0, _, _, _, acc => acc
  | f + 1, t, i, sg, acc =>
    if t = 0 then acc else
    trigFrom x2 f (t * x2 / fpOne / ((i + 1) * (i + 2))) (i + 2) (-sg) (acc + sg * (t : Int))
/-- sine of a fixed-point angle in 0 .. 2. -/
def sinFp (x : Nat) : Int := trigFrom (x * x / fpOne) 200 x 1 1 0
/-- cosine of a fixed-point angle in 0 .. 2. -/
def cosFp (x : Nat) : Int := trigFrom (x * x / fpOne) 200 fpOne 0 1 0

/-- (sine, cosine) of n / d turns, in fixed point, exact at the quarter turns. -/
def sinCosTurn (n d : Nat) : Int × Int :=
  let q := 4 * n / d % 4
  let r := 4 * n % d            -- the rest, r / d of a quarter turn
  let half := piScaled fpBits / 2
  let (s, c) : Int × Int :=
    if r = 0 then (0, (fpOne : Int)) else
    let x := half * r / d
    (sinFp x, cosFp x)
  match q with
  | 0 => (s, c)
  | 1 => (c, -s)
  | 2 => (-s, -c)
  | _ => (-c, s)
/-- (sine, cosine) of n / d radians. -/
def sinCosRad (n d : Nat) : Int × Int :=
  -- reduce by the turn with enough bits of π that the rest keeps fpBits good ones
  let k := fpBits + lg n + 8
  let p2 := 2 * piScaled k
  let x := n * 2 ^ k / d % p2     -- in 2^-k units, below one turn
  sinCosTurn x p2
/-- A fixed-point value as a number. -/
def flFp (v : Int) : Fl := flQ v fpOne

/-- Sine and cosine of an angle in turns, given as a signed fraction. -/
def trigTurn (n : Int) (d : Nat) : Fl × Fl :=
  let m := (n % (d : Int)).toNat
  let (s, c) := sinCosTurn m d
  (flFp s, flFp c)
/-- Sine and cosine of a binary64 in radians, correctly rounded. -/
def fsincos (a : F64) : F64 × F64 :=
  match fl a with
  | .fin s n d =>
    if n = 0 then (a, fInt 1) else
    let (y, x) := sinCosRad n d
    (f64 (flFp (if s then -y else y)), f64 (flFp x))
  | _ => (f64 .nan, f64 .nan)
/-- Sine and cosine of a binary64 in degrees, correctly rounded. -/
def fsincosDeg (a : F64) : F64 × F64 :=
  match fl a with
  | .fin s n d =>
    if n = 0 then (a, fInt 1) else
    let (y, x) := trigTurn (Fl.signed s n) (360 * d)
    (f64 y, f64 x)
  | _ => (f64 .nan, f64 .nan)

/-- arc tangent series of x below a half, fixed point. -/
def atanSerFrom (x2 : Nat) : Nat → Nat → Nat → Int → Int → Int
  | 0, _, _, _, acc => acc
  | f + 1, t, i, sg, acc =>
    if t = 0 then acc else atanSerFrom x2 f (t * x2 / fpOne) (i + 2) (-sg) (acc + sg * ((t / i : Nat) : Int))
/-- The angle of the fraction y / x with 0 ≤ y ≤ x, x positive, in radians and fixed point: halved three times first. -/
def atanFp (y x : Nat) : Int :=
  let halve := fun (t : Nat) => t * fpOne / (fpOne + isqrt (fpOne * fpOne + t * t))
  let t := halve (halve (halve (y * fpOne / x)))
  8 * atanSerFrom (t * t / fpOne) 1000 t 1 1 0
/-- The argument of x + jy in fixed-point turns, in (−½, ½]; 0 for 0 + j0. -/
def argTurn (x y : Int) : Int :=
  let ax := x.natAbs
  let ay := y.natAbs
  if ax = 0 ∧ ay = 0 then 0 else
  let p2 : Int := 2 * (piScaled fpBits : Int)
  let q : Int :=                          -- first-octant pair folded to the first quarter, in turns
    if ay ≤ ax then (if ay = 0 then 0 else atanFp ay ax * fpOne / p2)
    else (fpOne : Int) / 4 - (if ax = 0 then 0 else atanFp ax ay * fpOne / p2)
  let h : Int := if x < 0 then (fpOne : Int) / 2 - q else q
  if y < 0 then -h else h
/-- Two exact numbers brought to one denominator. -/
def flCommon : Fl → Fl → Option (Int × Int)
  | .fin s n d, .fin t m e => some (Fl.signed s (n * e), Fl.signed t (m * d))
  | _, _ => none
/-- The argument of x + jy in turns, as an exact-work fraction; not a number where a part is not finite. -/
def flArg (x y : Fl) : Fl :=
  match flCommon x y with
  | some (a, b) =>
    -- exact eighths stay exact, so that ties and half turns fall where they should
    if b = 0 then (if a < 0 then flQ 1 2 else flQ 0 1)
    else if a = 0 then (if b < 0 then flQ (-1) 4 else flQ 1 4)
    else if a = b then (if a < 0 then flQ (-3) 8 else flQ 1 8)
    else if a = -b then (if a < 0 then flQ 3 8 else flQ (-1) 8)
    else flFp (argTurn a b)
  | none => .nan
/-- Both parts are zeros, and the argument has no stated value (DESIGN CHOICE 214). -/
def noArg (x y : F64) : Bool := x.setWidth 63 == 0 && y.setWidth 63 == 0
/-- The argument in radians, correctly rounded (R335); of 0 + j0 a free value. -/
def fargRad (x y : F64) : F64 := if noArg x y then Config.argOfZero false x y else f64 ((flArg (fl x) (fl y)).mul (flQ (2 * (piScaled fpBits : Int)) fpOne))
/-- The argument in degrees, correctly rounded; of 0 + j0 a free value. -/
def fargDeg (x y : F64) : F64 := if noArg x y then Config.argOfZero true x y else f64 ((flArg (fl x) (fl y)).mul (flI 360))
/-- π as a binary64. -/
def fpi : F64 := f64 (flQ (piScaled fpBits) fpOne)

/-- exponential series of a fixed-point r below one. -/
def expFrom (r : Nat) : Nat → Nat → Nat → Nat → Nat
  | 0, _, _, acc => acc
  | f + 1, t, i, acc => if t = 0 then acc else expFrom r f (t * r / fpOne / (i + 1)) (i + 1) (acc + t)
/-- 2 × artanh(z) in fixed point. -/
def artanh2From (z2 : Nat) : Nat → Nat → Nat → Nat → Nat
  | 0, _, _, acc => acc
  | f + 1, t, i, acc => if t = 0 then acc else artanh2From z2 f (t * z2 / fpOne) (i + 2) (acc + 2 * (t / i))
/-- ln of a fraction in 1 .. 2, fixed point: ln(v) = 2 artanh((v − 1) / (v + 1)). -/
def lnUnit (num den : Nat) : Nat :=
  let z := (num - den) * fpOne / (num + den)
  artanh2From (z * z / fpOne) 1000 z 1 0
/-- ln 2, fixed point. -/
def ln2Fp : Nat := lnUnit 2 1
/-- Natural logarithm of a number read; of 0, minus infinity; below 0, not a number. -/
def Fl.ln : Fl → Fl
  | .nan => .nan
  | .inf s => if s then .nan else .inf false
  | .fin s n d =>
    if n = 0 then .inf true else if s then .nan else
    let e := flLog2 n d
    let (m, k) : Nat × Nat := if 0 ≤ e then (n, d * 2 ^ e.toNat) else (n * 2 ^ (-e).toNat, d)
    flFp ((lnUnit m k : Int) + e * (ln2Fp : Int))
/-- Exponential of a number read. -/
def Fl.exp : Fl → Fl
  | .nan => .nan
  | .inf s => if s then .fin false 0 1 else .inf false
  | .fin s n d =>
    if 1100 * d < n then (if s then .fin false 0 1 else .inf false) else
    let x : Int := Fl.signed s (n * fpOne / d)
    let k : Int := x / (ln2Fp : Int)
    let r := (x % (ln2Fp : Int)).toNat
    let v := expFrom r 400 fpOne 0 0
    if 0 ≤ k then .fin false (v * 2 ^ k.toNat) fpOne else .fin false v (fpOne * 2 ^ (-k).toNat)
/-- The correctly rounded natural logarithm. -/
def fln (a : F64) : F64 := f64 (fl a).ln
/-- The correctly rounded exponential. -/
def fexp (a : F64) : F64 := f64 (fl a).exp

end Sys2Proof.Machine
end

