-- ==== Sys2Proof/Machine/State.lean ====
section
/-! DEFINITION. The state of the part as plain data: every register, table, queue, memory and pin the spec gives it,
the queue of waiting commands, the machine right after reset, and the reasons a step can stop.
Registers and table words stand in one word map keyed by BAR0 offset (R38, R41); what the spec holds otherwise
has fields of its own. -/

namespace Sys2Proof.Machine
open Sys2Proof

/-! Grid time is a whole number of 2^-16 ns since the PTP epoch (the full form of R113). -/

/-- Grid time in units of 2^-16 ns. -/
abbrev Gt := Nat

/-- What a reading agent holds for itself (R47–R49, R196, R549): shadows, staged lower halves, a snapshot bank, the
silo entries it popped last, the event-recorder cursor and window, and the value its latest read returned. -/
structure AgentSt where
  /-- shadow words of 64-bit pairs and counter groups, by register address (R47) -/
  shadow : WMap := []
  /-- lower halves staged for a later write of the upper half, by address of the lower (R48) -/
  stagedLo : List (Nat × Word) := []
  /-- snapshot bank, by register address (R49) -/
  bank : WMap := []
  /-- pages whose snapshot is held until RELEASE (R49) -/
  bankPages : List Nat := []
  /-- PG_SEQ of each page (R44, R49) -/
  seq : WMap := []
  /-- the silo entry popped last, by silo (R195, R196, R197) -/
  popped : List (Nat × List Byte) := []
  /-- EVR_CUR (R549) -/
  evrCur : Word := 0
  /-- the 128-byte window buffer (R549) -/
  evrWin : List Word := []
  /-- EVR_WIN_STS (R549) -/
  evrWinSts : Nat := 0
  /-- ATT_NONCE as the agent wrote it (R570) -/
  attNonce : List (Nat × Word) := []
  /-- the statement buffer of the agent (R571) -/
  attStmt : List Byte := []
  /-- ATT_STS of the agent (R579) -/
  attSts : Word := 0
  /-- the update data window of the agent (R602) -/
  updWin : List (Nat × Word) := []
  /-- UPD_DATA_OFS of the agent (R602) -/
  updOfs : Nat := 0
  /-- the value the latest read returned to the agent, and the upper word of a 64-bit read (the model's own fields) -/
  compl : Word := 0
  complHi : Word := 0
deriving DecidableEq, Repr

/-- A response the side-band port holds (R60, R61). -/
structure SbResponse where
  status : Nat
  tag : Byte
  data : List Byte
  /-- always-on time from which the response may be fetched -/
  readyAt : Gt
  /-- it has become ready -/
  ready : Bool := false
deriving DecidableEq, Repr

/-- What a side-band command asks of the part once its response is ready (R61). -/
inductive SbRequest where
  | keep | warm
deriving DecidableEq, Repr

/-- The side-band port (R59–R61). -/
structure SideBand where
  resp : Option SbResponse := none
  /-- requests whose responses are not ready yet, with the time when each acts (R61) -/
  due : List (Gt × SbRequest) := []
  /-- what the port drove on SBM_DO in the latest FETCH (R60) -/
  lastOut : List Byte := []
deriving DecidableEq, Repr

/-- The operating states, with Off and the time of a start beside them (R503, R519). -/
inductive PowerSt where
  | run | idle | keep | starting | off
deriving DecidableEq, Repr

/-- What the start sequence has still to do (R518); dead: no image verified, so that the start stops (R586). -/
inductive StartStep where
  | coldHeld | puf | image | dead | settings | launch | done
deriving DecidableEq, Repr

/-- The reset logic (R507–R510) and the state machine (R503–R505). -/
structure DevSt where
  st : PowerSt := .starting
  /-- the state before the latest change (R519) -/
  prev : PowerSt := .off
  /-- the state Keep was entered from (R505) -/
  keepFrom : PowerSt := .run
  /-- the state that a start under way enters (R505, R508) -/
  target : PowerSt := .run
  step : StartStep := .coldHeld
  /-- a cold reset is held (R507) -/
  cold : Bool := true
  /-- a warm or watchdog reset is held (R507) -/
  warm : Bool := false
  /-- the cause of the start under way as RST_CAUSE codes it (R519) -/
  cause : Nat := 1
  /-- a watchdog reset ends the present start in Idle whatever AUTORUN says (R510) -/
  wdogIdle : Bool := false
  /-- link reset of the PCIe and HOST function in progress (R507) -/
  link : Bool := true
  /-- pages in block reset (R507) -/
  blocks : List Nat := []
  /-- a state request that waits for the end of a reset, with its source as record 0x002 codes it (R505) -/
  waiting : Option (PowerSt × Nat) := none
  /-- the latest watchdog resets, newest first: grid time where VALID was 1, always-on time (R510) -/
  wdogAt : List (Option Gt × Gt) := []
  /-- the root is still to be regenerated after Keep (R556) -/
  pufDue : Bool := false
  /-- always-on ms of the end of cold reset (BOOT_MS, R519) -/
  bootFrom : Nat := 0
  /-- settings were restored from a valid slot at this start (R505) -/
  slotOk : Bool := false
  /-- levels the strap balls show: PAIR, SENIOR, WITNESS, XO (R77) -/
  strapBalls : BitVec 4 := 0
  /-- level of TEST_EN (R78) -/
  testEn : Bool := false
deriving DecidableEq, Repr

/-- One settings slot of MRAM (R36, R512, R516): the class N words and the tables of a committed image. -/
structure SetSlot where
  /-- a commit record stands in the slot -/
  written : Bool := false
  /-- the image's CRC-32C is good -/
  good : Bool := false
  gen : Nat := 0
  schema : Nat := 0
  words : WMap := []
deriving DecidableEq, Repr

/-- The settings machinery (R512–R515). -/
structure Settings where
  slots : Vector SetSlot 2 := Vector.replicate 2 {}
  /-- the active slot -/
  active : Fin 2 := 0
  /-- the image being written: its slot's contents (R512) -/
  writing : Option SetSlot := none
  /-- a commit waits for brace to end (R513) -/
  deferred : Bool := false
deriving DecidableEq, Repr

/-- A supply's excursion during a brace (R99). -/
structure Dip where
  supply : Fin 5
  /-- always-on time of the falling crossing -/
  start : Gt
  lowMv : Nat
deriving DecidableEq, Repr

/-- A kind of MRAM write that brace defers (R98): a settings commit, an entry of the repair map, a key slot. -/
inductive MramWait where
  | settings | repair | key
deriving DecidableEq, Repr

/-- Supervisors, brace and the adaptive-voltage loop (R93–R100). -/
structure Supply where
  /-- supplies in warning (SUP_STS.WARN) -/
  warn : List (Fin 5) := []
  /-- supplies that reached their reset level and have not been seen above warning plus 20 mV since (R97) -/
  low : List (Fin 5) := []
  brace : Bool := false
  /-- MRAM writes that brace defers, in the order of issue (R99) -/
  waits : List MramWait := []
  /-- the entry flush of R98 has completed -/
  flushed : Bool := false
  dips : List Dip := []
  /-- AVS_STS.ACTIVE -/
  avsOn : Bool := false
  /-- the regulator's answer to VOUT_MODE, once it has been read (R94) -/
  vmode : Option Nat := none
  /-- present request and the last confirmed one, mV -/
  reqMv : Nat := 750
  okMv : Nat := 750
  readMv : Nat := 0
  atCeil : Bool := false
  fault : Bool := false
  /-- a step awaits confirmation -/
  busy : Bool := false
  /-- always-on times of the step's write, for the 5 ms limit, and of the latest write or reading, for the 1 ms between readings -/
  stepAt : Gt := 0
  polledAt : Gt := 0
  /-- the request of the step that failed last, which the retries repeat -/
  failMv : Nat := 750
  /-- always-on time of the latest evaluation and of the latest retry -/
  evalAt : Gt := 0
  retryAt : Gt := 0
  /-- SPEED_STS: S in 2^-10 G instructions/s and M in 0.1 % -/
  speed : Nat := 0
  margin : Int := 0
deriving DecidableEq, Repr

/-- The levels of the signal balls that steps read or drive (R73). -/
structure Balls where
  alm : BitVec 16 := 0
  trigOut : Bool := false
  ppsOut : Bool := false
  tmpOutN : Bool := true
  witN : Bool := true
  backupN : Bool := true
  updInhibitN : Bool := true
  perstN : Bool := false
  spt : BitVec 4 := 0
  /-- the settings have restored since the latest cold reset, so that outputs are at INACT and not PD (R70) -/
  inact : Bool := false
deriving DecidableEq, Repr

/-- An occurrence that a block has raised and the recorder has not decided yet (R544). -/
structure EvrOcc where
  code : Nat
  arg1 : Word
  arg2 : Word
deriving DecidableEq, Repr

/-- An admitted record that waits for its write (R542): bytes 0–111 but for the flags set at the commit. -/
structure EvrRec where
  seq : Word
  code : Nat
  timeValid : Bool
  snapPartial : Bool
  body : List Byte
  /-- its SUPPRESSED value -/
  suppr : Nat
  /-- it waited through a brace (R542) -/
  deferred : Bool := false
deriving DecidableEq, Repr

/-- The event recorder (R541–R553). -/
structure Evr where
  occ : List EvrOcc := []
  queue : List EvrRec := []
  /-- the next sequence number to take -/
  next : Word := 0
  /-- EVR_HEAD -/
  head : Word := 0
  /-- the ring has filled, so that EVR_TAIL follows EVR_HEAD by the ring size (R541) -/
  full : Bool := false
  ready : Bool := false
  /-- token counts of codes whose bucket is not full (R546) -/
  tokens : List (Nat × Nat) := []
  /-- tokens missing from the global bucket -/
  globalUsed : Nat := 0
  /-- UNLIMITED records admitted in the present always-on second -/
  unlimited : Nat := 0
  lostBefore : Bool := false
  /-- always-on ms of the latest loss and of the latest suppression -/
  lossAt : Option Nat := none
  supprAt : Option Nat := none
  /-- the operating counters in MRAM (R547) -/
  opSec : Nat := 0
  pcyc : Nat := 0
  /-- the operating counters as they were flushed last (R98) -/
  flushed : Nat × Nat := (0, 0)
  /-- the always-on timer, ms since its start -/
  aonMs : Nat := 0
  /-- the always-on second whose tick has been taken -/
  secDone : Nat := 0
deriving DecidableEq, Repr

/-- One silo (R185–R202): its entries oldest first, a marker told from an item's entry. -/
structure Silo where
  q : List (Bool × List Byte) := []
  /-- drops deferred by R192 and their kept times -/
  defer : Nat := 0
  deferFirst : Gt := 0
  deferLast : Gt := 0
  /-- words 1–15 staged for the host's next push (R198) -/
  stage : List (Nat × Word) := []
deriving DecidableEq, Repr

/-! Time (R112–R144). -/

/-- State of a phase source (R120): absent, qualifying, qualified, disqualified, as TIME_STS codes them (R146). -/
inductive SrcSt where
  | absent | qualifying | qualified | disqualified
deriving DecidableEq, Repr

/-- One phase source (R119–R121, R127). Offsets are the counter minus the source, in 2^-16 ns; its times are always-on times. -/
structure Src where
  st : SrcSt := .absent
  /-- time since which every reading has been good (R120) -/
  since : Gt := 0
  /-- the latest offset reading and its time -/
  last : Option Int := none
  lastAt : Gt := 0
  /-- the next reading comes from another PTP instance and is not judged against the latest one (R132) -/
  fresh : Bool := false
  /-- offset readings since the source was selected with their times, newest first, at most 16 (R127) -/
  hist : List (Gt × Int) := []
  /-- time since which the offset has stayed above TIME_STEP_THR (R124) -/
  above : Option Gt := none
  /-- declared inaccuracy, ns (R127) -/
  inacc : Nat := 0
  /-- the UTC offset the source carries, and the leap applied since it was last told (R138, R139) -/
  utc : Option Int := none
  leapFix : Int := 0
  /-- the leap flags the source provides: leap59, leap61 (R138) -/
  leap : Option (Bool × Bool) := none
  /-- time of the latest edge, marker or announce (R120) -/
  inputAt : Gt := 0
deriving DecidableEq, Repr

/-- The facts of an Announce that the BMCA compares (R129, R131). -/
structure Announce where
  prio1 : Nat
  cls : Nat
  acc : Nat
  variance : Nat
  prio2 : Nat
  gm : DWord
  steps : Nat
  sender : DWord
  senderPort : Nat
  utc : Int
  utcValid : Bool
  leap59 : Bool
  leap61 : Bool
  inacc : Nat
deriving DecidableEq, Repr

/-- portState of a PTP port as IEEE 1588 numbers it (R146). -/
inductive PtpState where
  | disabled | listening | master | passive | slave
deriving DecidableEq, Repr

/-- One PTP port of the part (R129–R132). -/
structure PtpPort where
  st : PtpState := .disabled
  /-- the best Announce heard and the always-on time of the latest one from its sender -/
  best : Option Announce := none
  heardAt : Gt := 0
  /-- a two-step Sync that waits for its Follow_Up: sequence, ingress stamp, correction -/
  sync : Option (Nat × Gt × Int) := none
  /-- own Pdelay_Req: sequence and egress stamp -/
  pdReq : Option (Nat × Gt) := none
  /-- a two-step Pdelay_Resp that waits for its follow-up: sequence, request receipt, ingress stamp, correction -/
  pdResp : Option (Nat × Gt × Gt × Int) := none
  /-- mean link delay, 2^-16 ns -/
  pdelay : Int := 0
  /-- sequence numbers of own Sync, Announce and Pdelay_Req -/
  seqSync : Nat := 0
  seqAnn : Nat := 0
  seqPd : Nat := 0
deriving DecidableEq, Repr

/-- Grid time (R112–R144). -/
structure TimeSt where
  /-- always-on time in ticks of 0.8 ns (the model's own clock for intervals) -/
  ticks : Nat := 0
  /-- the counter, in 2^-48 ns (R116) -/
  ctr : Nat := 0
  /-- FREQ_ADJ, signed 40 bits (R116) -/
  freqAdj : Int := 0
  /-- XO_IN runs (R117), and the always-on time of its latest loss -/
  xo : Bool := true
  xoAt : Gt := 0
  valid : Bool := false
  holdover : Bool := false
  /-- start and end of the slew in progress, always-on times, and the offset it removes (R123) -/
  slewFrom : Gt := 0
  slewEnd : Option Gt := none
  slewOfs : Int := 0
  /-- a time written by TIME_SET that waits for the next tick (R125) -/
  setPend : Option Gt := none
  /-- the held frequency the corrections move from (R123) -/
  heldAdj : Int := 0
  /-- values of FREQ_ADJ over the selection with the always-on times from which they held, newest first (R126) -/
  adjHist : List (Gt × Int) := []
  /-- selected source code, 0 none (R121) -/
  selected : Fin 4 := 0
  /-- a source has been selected since the last cold reset (R126) -/
  everSelected : Bool := false
  /-- the three phase sources: PTP, PPS + ToD, IRIG-B -/
  srcs : Vector Src 3 := Vector.replicate 3 {}
  /-- E at the latest reading, 2^-16 ns, and the time of that reading (R127) -/
  eAt : Nat := 0
  eFrom : Gt := 0
  /-- time was set by TIME_SET and no source has been selected since (R125) -/
  setByHost : Bool := false
  /-- LOCKED (R128) -/
  locked : Bool := false
  /-- a step of the selected source waits for its second boundary (R124): the offset -/
  stepWait : Option Int := none
  /-- REF_IN: latest measured frequency, mHz, and whether it is in range (R137) -/
  refLast : Option Nat := none
  refOk : Bool := false
  /-- the last valid UTC offset and leap flags, kept through holdover (R138) -/
  keptUtc : Option Int := none
  keptLeap59 : Bool := false
  keptLeap61 : Bool := false
  /-- the Δ in force as last seen, for record 0x106 -/
  lastDelta : Option Int := none
  /-- leap applied last: the TAI second from which it counts, and its direction (R139, R140) -/
  leapAt : Option (Nat × Bool) := none
  /-- the UTC day (its TAI end) whose leap has been applied, so that it is applied once -/
  leapDone : Option Nat := none
  /-- leaps applied since UTC_CTL last gave Δ (R139) -/
  leapAdd : Int := 0
  /-- PPS_IN edge that waits for its ToD message (R134) -/
  ppsEdge : Option Gt := none
  /-- grid second whose PPS_OUT pulse is high, and the pulse's end (R135) -/
  ppsEnd : Option Gt := none
  /-- two PTP ports, on A or PTP_CTL.PORT and on B (R132) -/
  ptp : Vector PtpPort 2 := Vector.replicate 2 {}
  /-- the active PTP port of a doubly attached clock (R132) -/
  ptpActive : Fin 2 := 0
  /-- frames steered to the timebase and not processed yet: port, ingress stamp, bytes (R167) -/
  ptpIn : List (Nat × Gt × List Byte) := []
  /-- peer-delay frames of ports C and D for the transparent clock (R163) -/
  tcIn : List (Nat × Gt × List Byte) := []
  /-- mean link delay of ports C and D and their own exchanges, as of a PTP port (R133) -/
  tc : Vector PtpPort 2 := Vector.replicate 2 {}
  /-- sample-pulse generator: settings in force and settings that wait for a second (R143, R144) -/
  spgRun : Bool := false
  spgSrc : Bool := false
  spgDelay : Vector Nat 4 := Vector.replicate 4 0
  spgPend : Option (Gt × Bool × Vector Nat 4) := none
  /-- SPG_STS.SYNC_ERR -/
  syncErr : Bool := false
deriving DecidableEq, Repr

/-! Stream intake, the Granary and the pair link (R206–R269, R471–R502). -/

/-- A frame at its delivery to the Gleaner (R152, R607): the classifier's decision with it. -/
structure GlFrame where
  port : Nat
  cls : Nat
  dflt : Bool
  entry : Nat
  bytes : List Byte
  stamp : Gt
deriving DecidableEq, Repr

/-- A local entry on its way to the Gleaner (R19, R316): words before calibration. -/
structure LocalEntry where
  slot : Nat
  inst : Gt
  stamp : Gt
  /-- INVALID, SYNC_LOST and TQ of its quality word -/
  quality : Nat
  freq : Int
  rocof : Int
  ph : List (Int × Int)
  dig : List Nat
deriving DecidableEq, Repr

/-- A record of the ingress journal that the ring still holds (R227): its place, length and stamp. -/
structure JrnRec where
  ofs : Nat
  len : Nat
  stamp : Gt
  epoch : Nat
deriving DecidableEq, Repr

/-- A sampled value on its way to the resampler (R226): source, instant, 8 values, those invalid, its sync flag. -/
structure SvSample where
  src : Nat
  /-- arrival stamp of its frame -/
  stamp : Gt
  inst : Gt
  vals : List Int
  bad : List Bool
  sync : Bool
deriving DecidableEq, Repr

/-- The Gleaner (R206–R237). -/
structure GleanSt where
  /-- words of tables before a commit at t: t, first address, words, newest first (R213) -/
  past : List (Gt × Nat × List Word) := []
  locq : List LocalEntry := []
  /-- journal: byte offset of the next record, the head flushed last, the epoch, the records retained oldest first -/
  head : Nat := 0
  flushed : Nat := 0
  epoch : Nat := 0
  recs : List JrnRec := []
  /-- slots whose previous written block had its configuration-change bit at 1 (R218) -/
  cfgBit : List Nat := []
  rejAt : Option Gt := none
  /-- time of the latest bale skipped for want of a UTC offset (R230) -/
  utcSkipAt : Option Gt := none
  /-- the watermark of a standby that takes mirrored records (R475) -/
  stby : Option Gt := none
  /-- time of the latest commit (R263) -/
  commitAt : Option Gt := none
deriving DecidableEq, Repr

/-- A member section of a bale (R241, R243). -/
structure Section where
  slot : Nat
  ofs : Nat
  nph : Nat
  nan : Nat
  ndg : Nat
  due : Bool
deriving DecidableEq, Repr

/-- A bale in a ring (R242–R256). Its bytes stand in the Granary's memory. -/
structure Bale where
  idx : Nat
  time : Gt
  pos : Nat
  size : Nat
  gen : Nat
  secs : List Section
  /-- slots written on time, and slots written late -/
  arrived : List Nat := []
  late : List Nat := []
  deadline : Gt
  stepped : Bool := false
  /-- header byte 5; 0 while open -/
  flags : Nat := 0
  closed : Bool := false
  amendDone : Bool := false
  digest : Nat := 0
  govern : Bool := false
deriving DecidableEq, Repr

/-- A closed bale as it is told to its readers (R253, R260): its bytes as they stood at the close or the amendment. -/
structure BaleRef where
  rate : Nat
  idx : Nat
  time : Gt
  pos : Nat
  bytes : List Byte
  replayed : Bool := false
  aborted : Bool := false
deriving DecidableEq, Repr

/-- One bale rate (R238–R254). -/
structure RateSt where
  /-- the rate holds a ring (R245) -/
  on : Bool := false
  base : Nat := 0
  n : Nat := 0
  next : Nat := 0
  /-- instants open from later than this time on (R252) -/
  from_ : Gt := 0
  /-- instants that a forward step skipped lie between these times (R251) -/
  skips : List (Gt × Gt) := []
  /-- bales in the ring, oldest first -/
  bales : List Bale := []
  gen : Nat := 0
  /-- the layout of the bale opened last since BR_LAYOUT_GEN was reset: slot, NPH, NAN, NDG -/
  layout : Option (List (Nat × Nat × Nat × Nat)) := none
deriving DecidableEq, Repr

/-- A running replay (R263). -/
structure Replay where
  rate : Nat
  bale : Bale
  /-- 0 host, 1 ECC, 2 takeover, 3 the pair -/
  cause : Nat
  recs : List JrnRec
  /-- live late values that wait for the replay to close: section bytes and stamp (R263) -/
  late : List (List Byte × Gt) := []
deriving DecidableEq, Repr

/-- The Granary (R238–R269). -/
structure GranSt where
  rates : Vector RateSt 4 := Vector.replicate 4 {}
  replay : Option Replay := none
  /-- bales that wait for a replay until they close: rate, index, cause (R262) -/
  auto : List (Nat × Nat × Nat) := []
  /-- time of the latest stale value (R266) -/
  staleAt : Option Gt := none
  /-- closed bales that each reader has still to take, oldest first (R260) -/
  toOsc : List BaleRef := []
  toIsl : List BaleRef := []
  toAlm : List BaleRef := []
  toExp : List BaleRef := []
  toCap : List BaleRef := []
  toCo : List BaleRef := []
deriving DecidableEq, Repr

/-- States of a pair member (R474). -/
inductive PairRole where
  | single | forming | active | standby | converging | detached | noRole
deriving DecidableEq, Repr

/-- An arbitration in progress (R480): rate, index, the two original digests and the two replays' as they come. -/
structure ArbSt where
  rate : Nat
  idx : Nat
  a : Nat
  s : Nat
  ra : Option Nat := none
  rs : Option Nat := none
  refused : Bool := false
deriving DecidableEq, Repr

/-- The lease line (R486–R492). Always-on times in 2^-16 ns. -/
structure LeaseSt where
  /-- time of the partner's latest HOLD pulse, and whether one has been seen since the own start -/
  holdAt : Option Nat := none
  seen : Bool := false
  /-- HOLD pulses have come for at least this long without a gap (R490) -/
  holdFrom : Option Nat := none
  /-- the latest HOLD pulse and the class of the last pulse, as PAIR_LEASE shows them (R497) -/
  shownAt : Option Nat := none
  lastClass : Nat := 0
  /-- own latest pulse -/
  pulseAt : Option Nat := none
  /-- the partner's lease was released (R487) -/
  released : Bool := false
  relAt : Gt := 0
  /-- the junior's claim delay has run out (R488) -/
  delayDone : Bool := false
  /-- own start, from which the claim delay runs (R488) -/
  startAt : Nat := 0
  /-- a claim: the time of its pulse -/
  claimAt : Option Nat := none
  contend : Nat := 0
  /-- time until which a contention holds the next claim back -/
  backoff : Option Nat := none
  /-- the partner's lease has been found expired, and has not been live again -/
  expired : Bool := false
  /-- the own pulse before a release, and no pulse of either member has been seen for P + G (R63) -/
  ownAt : Option Nat := none
  lost : Bool := false
  /-- WIT_N fell: time, and the second guard (R492) -/
  witAt : Option Nat := none
  witHeld : Bool := false
  witFault : Bool := false
  wireFault : Bool := false
deriving DecidableEq, Repr

/-- Paired operation (R471–R502). -/
structure PairSt where
  role : PairRole := .noRole
  holding : Bool := false
  formed : Bool := false
  /-- HELLO has been sent since the link last started, and when; the latest heartbeat sent -/
  helloSent : Bool := false
  helloAt : Option Gt := none
  beatAt : Option Gt := none
  partner : Option PlHello := none
  beat : Option PlBeat := none
  linkUp : Bool := false
  lastRx : Gt := 0
  /-- block lock of the two lanes (R482), and as it was at the last valid frame (R502) -/
  lanes : BitVec 2 := 0
  lanesRx : BitVec 2 := 0
  txSeq : Nat := 0
  /-- frames not yet acknowledged, oldest first: SEQ, time sent, frame -/
  rtx : List (Nat × Gt × PlMsg) := []
  rxSeq : Nat := 0
  nakSent : Option Nat := none
  /-- the standby has not been lost: records are mirrored (R475, R482) -/
  mirroring : Bool := false
  /-- records stamped from here on are mirrored, by a rejoin (R481) -/
  mirrorFrom : Gt := 0
  /-- own watermark as sent last -/
  markTx : Gt := 0
  lastMirror : Nat := 0
  /-- last MIRROR SEQ taken, and records received and not taken yet, in Gleaner order -/
  rxMirror : Nat := 0
  inq : List (Nat × PlMsg) := []
  /-- mirrored W-path samples that the trackers have still to take: signal, index at 64 kS/s, value, good (R20) -/
  wq : List (Nat × Nat × Int × Bool) := []
  markRx : Gt := 0
  lagOverAt : Option Gt := none
  lagPeak : Nat := 0
  /-- bale digests of both members that wait for each other: rate, index, digest -/
  ownBale : List (Nat × Nat × Nat) := []
  theirBale : List (Nat × Nat × Nat) := []
  ownCommit : List (Nat × Nat × Nat × Nat) := []
  theirCommit : List (Nat × Nat × Nat × Nat) := []
  /-- the bale time from which digests are compared (R481) -/
  compareFrom : Gt := 0
  rejoinAt : Option Gt := none
  /-- a warm reset has put this member out: its HELLO carries REJOIN (R496) -/
  rejoin : Bool := false
  matches_ : Nat := 0
  /-- arbitrations that have not finished -/
  arbs : List ArbSt := []
  /-- bales that a takeover has still to replay (R494) -/
  takeReplays : List (Nat × Nat) := []
  /-- times at which this member was found at fault as active (R480) -/
  faults : List Gt := []
  /-- T_take, where the role was taken as a linked standby: own frames stamped before it are not taken (R493) -/
  takeAt : Option Gt := none
  acting : Bool := false
  lease : LeaseSt := {}
  /-- settings bytes received from the active member (R473) -/
  settingsRx : List (Nat × List Byte) := []
  mbox : List (Nat × Word) := []
deriving DecidableEq, Repr

/-! Self-test, repair and health (R521–R534). -/

/-- An entry of the field repair map (R525). -/
structure RepairEntry where
  kind : Nat
  cause : Nat
  unit : Nat
  row : Nat
  spare : Nat
  opSec : Nat
deriving DecidableEq, Repr

/-- A rotation step in progress (R526). -/
structure RotStep where
  engine : Nat
  spare : Nat
  /-- a test under the spare that already covers a degraded engine (R526) -/
  degraded : Bool
deriving DecidableEq, Repr

/-- Self-test, repair and health. -/
structure Bist where
  /-- causes whose condition holds (R532) -/
  conds : BitVec 32 := 0
  /-- ends of the two 60 s causes, bits 9 and 12 -/
  ueEnd : Option Gt := none
  hsEnd : Option Gt := none
  level : Nat := 0
  /-- correctable errors of rows: array, row, grid time (R522) -/
  ce : List (Nat × Nat × Gt) := []
  /-- spare rows used, by array -/
  used : List (Nat × Nat) := []
  /-- arrays found without a free spare -/
  spent : List Nat := []
  /-- poisoned words: array, row, word (R523) -/
  poison : List (Nat × Nat × Nat) := []
  /-- the field repair map: generation, active copy, entries (R525) -/
  mapGen : Nat := 0
  mapCopy : Nat := 0
  map : List RepairEntry := []
  /-- repair-map writes that wait for brace to end -/
  mapLate : List RepairEntry := []
  rot : Option RotStep := none
  rotNext : Nat := 0
  rotPause : Gt := 0
  rotDone : Nat := 0
  /-- lanes in service by unit code: Gleaner, estimator, oscillation watch, islanding (R530) -/
  lanes : Vector (BitVec 4) 4 := #v[0b0011, 0b1111, 0b1111, 0b0011]
  /-- handshake trips: page, stage, time (R529) -/
  trips : List (Nat × Nat × Gt) := []
  /-- counts the report carries (R533) -/
  ceSec : Nat := 0
  ddrCeSec : Nat := 0
  ueTotal : Nat := 0
  hsTotal : Nat := 0
  mramCorr : Nat := 0
  seq : Nat := 0
  reportAt : Nat := 0
deriving DecidableEq, Repr

/-! Keys, tamper, attestation (R556–R577). -/

/-- One MRAM copy of a slot: GEN, descriptor, label, data (R566). -/
structure KeyCopy where
  gen : Nat
  desc : Word
  label : List Byte
  data : List Byte
deriving DecidableEq, Repr

/-- A slot's commit record (R566). -/
structure KeyCommit where
  copy : Nat
  st : Nat
  gen : Nat
  pgen : Nat
  keyid : Word
deriving DecidableEq, Repr

/-- A key slot: its MRAM copies and commit record, and the working slot (R559–R566). -/
structure KeySlot where
  copies : List KeyCopy := []
  commit : Option KeyCommit := none
  /-- the working slot: STATE 0 empty, 1 valid, 2 revoked -/
  st : Nat := 0
  desc : Word := 0
  gen : Nat := 0
  pgen : Nat := 0
  keyid : Word := 0
  key : List Byte := []
deriving DecidableEq, Repr

/-- A slot write between its acceptance and its commit record (R565). -/
structure KeyWrite where
  slot : Nat
  copy : KeyCopy
  pgen : Nat
  keyid : Word
  key : List Byte
deriving DecidableEq, Repr

/-- An owner attempt under verification (R567, R568). -/
structure OwnTry where
  op : Nat
  point : List Byte
  sig : List Byte
  chal : List Byte
deriving DecidableEq, Repr

/-- Root, slots, owner session, attestation and tamper response. -/
structure Keys where
  /-- which enrolment the helper data belongs to, and whether its two copies are good -/
  enrol : Nat := 0
  helper : List Bool := [true, true]
  rootOk : Bool := false
  lockedOut : Bool := false
  reads : Nat := 0
  ber : Nat := 0
  /-- working root, empty when none stands -/
  root : List Byte := []
  slots : List (Nat × KeySlot) := []
  write : Option KeyWrite := none
  deferred : Bool := false
  /-- the result field of KS_STS -/
  ksResult : Nat := 0
  /-- SHA-384 of the owner's public key; all zeros at shipment (R567) -/
  anchor : List Byte := List.replicate 48 0
  /-- end of the open session -/
  session : Option Gt := none
  chal : Option (List Byte) := none
  chalWords : List Byte := []
  fails : Nat := 0
  chalFrom : Gt := 0
  verifying : Option OwnTry := none
  /-- statements being signed, in order: whether for the host, and the nonce as requested (R570) -/
  signing : List (Bool × List Byte) := []
  /-- the tamper record and latch (R574) -/
  latched : Bool := false
  class2 : Bool := false
  cause : BitVec 6 := 0
  erasePend : Bool := false
  tampAt : Gt := 0
  tampCount : Nat := 0
  live : BitVec 6 := 0
  /-- sources 2–5 are armed: time of the end of cold reset (R572) -/
  armedFrom : Option Gt := none
  /-- a clear under way: class 1 or 2 (R576) -/
  clearing : Option Nat := none
  /-- the root was enrolled after a class 2 clear (R571) -/
  reEnrolled : Bool := false
deriving DecidableEq, Repr

/-! Network ports (R149–R184). -/

/-- A frame in an ingress buffer: destination address to FCS, with its arrival stamp (R118, R152). -/
structure RxFrame where
  bytes : List Byte
  stamp : Gt
deriving DecidableEq, Repr

/-- What a queued frame is, beside its bytes (R162, R170, R171). -/
inductive TxKind where
  | ptp | ptpPass | goose (dataset : Nat) | sv | host | exp | sup | pause
deriving DecidableEq, Repr

/-- A frame that waits in a transmit class: destination address to the last byte before the FCS. -/
structure TxFrame where
  kind : TxKind
  bytes : List Byte
  /-- ingress stamp and added delay of a passed PTP frame: its correction field grows at its egress (R133) -/
  ingress : Gt := 0
  extra : Int := 0
  /-- the order of queueing of the large send it belongs to (R170) -/
  ord : Nat := 0
deriving DecidableEq, Repr

/-- Who submitted a large-send descriptor (R172). -/
inductive DescSrc where
  | host (index : Nat)
  | engine (e : Nat)
  | exp
  /-- a chunk of a Stook: its SEQ and the attempt -/
  | cap (seq attempt : Nat)
deriving DecidableEq, Repr

/-- A large-send descriptor (R172). -/
structure Desc where
  src : DescSrc
  addr : Nat
  len : Nat
  seg : Nat
  hdrLen : Nat
  mode : Nat
  space : Nat
  hdrAddr : Nat
  baleTime : Nat
  tag : Nat
  /-- payload and template as read, once the descriptor is checked -/
  payload : List Byte := []
  template : List Byte := []
  /-- frames it makes, and frames sent -/
  count : Nat := 0
  sent : Nat := 0
  /-- the identification its fragments carry (R175) -/
  ident : Nat := 0
  checked : Bool := false
  /-- the order of its queueing among large sends (R170) -/
  ord : Nat := 0
  /-- the status it ends with (R176) -/
  status : Option Nat := none
deriving DecidableEq, Repr

/-- One port A–D (R149–R178). The times of PAUSE and of the latest overflow are always-on times. -/
structure PortSt where
  blockLock : Bool := false
  hiBer : Bool := false
  localFault : Bool := false
  remoteFault : Bool := false
  link : Bool := false
  /-- PORT_CTL as the line uses it: set at the enabling -/
  rx : List RxFrame := []
  pauseEnd : Gt := 0
  pausedFrom : Option Gt := none
  /-- time of the latest own PAUSE while the fill stays at or above XON (R158) -/
  ownPause : Option Gt := none
  /-- own PAUSE frames that wait for the frame boundary: their quanta -/
  pauseOut : List Nat := []
  /-- classes 0, 1 and 2 (R170) -/
  q0 : List TxFrame := []
  q1 : List TxFrame := []
  q2 : List TxFrame := []
  /-- classes 3 and 4: descriptors in order -/
  d3 : List Desc := []
  d4 : List Desc := []
  /-- frames of the partner port's descriptors that go out here as well (R162) -/
  c3 : List TxFrame := []
  c4 : List TxFrame := []
  /-- the frame at delivery that the Gleaner has not taken yet: it stays in the buffer and holds back the next (R152) -/
  atGlean : Option GlFrame := none
  /-- the frame under transmission -/
  sending : Option TxFrame := none
  ovfAt : Option Gt := none
deriving DecidableEq, Repr

/-- An entry of the duplicate-discard table (R160). -/
structure PrpEntry where
  src : Nat
  seq : Nat
  stamp : Gt
deriving DecidableEq, Repr

/-- The PRP pair A and B (R159–R162): when each LAN was heard and the latest supervision frame went, in always-on time. -/
structure PrpSt where
  /-- oldest first -/
  table : List PrpEntry := []
  peak : Nat := 0
  seen : Vector Gt 2 := Vector.replicate 2 0
  alive : Vector Bool 2 := Vector.replicate 2 false
  txSeq : Nat := 0
  supSeq : Nat := 0
  supAt : Gt := 0
  /-- large sends queued so far (R170) -/
  ord : Nat := 0
deriving DecidableEq, Repr

/-! Mode (R28–R33) and the Thresher's inputs (R418, R429). -/

/-- The operating mode: in force, and a pending request with its T_eff (R28). -/
structure ModeSt where
  govern : Bool := false
  /-- the mode before every listed change -/
  base : Bool := false
  /-- changes of mode since the settings restored, newest first: T_eff and the mode from it on -/
  changes : List (Gt × Bool) := []
  pend : Option (Bool × Gt) := none
  /-- MODE_NOW: the mode of the latest bale evaluated (R32) -/
  shown : Bool := false
deriving DecidableEq, Repr

/-- An event of a source (R418): its time, its bale as rate and index, and the overrun flag (R429). -/
structure ThrEvent where
  src : Nat
  t : Gt
  bale : Nat := 0
  ovr : Bool := false
deriving DecidableEq, Repr

/-- What the newest event of a flag carried (R418–R421). -/
structure FlagInfo where
  src : Nat
  t : Gt
  /-- chain depth of an item it makes ready (R420) -/
  d : Nat := 0
  bale : Nat := 0
  ovr : Bool := false
deriving DecidableEq, Repr

/-- What a task holds beside its entry (R419, R428, R437). -/
structure TaskSt where
  flags : Word := 0
  /-- by flag: its newest event -/
  info : List (Nat × FlagInfo) := []
  /-- items posted since the enable, and ordered ones (R425, R428) -/
  seq : Nat := 0
  oseq : Nat := 0
  failed : Nat := 0
deriving DecidableEq, Repr

/-- An entry of the commit log (R426, R457). -/
structure LogEntry where
  kind : Nat
  target : Nat
  data : List Byte
deriving DecidableEq, Repr

/-- A work item: its descriptor (R420, R425, R430), kept until it commits. -/
structure Item where
  task : Nat
  /-- the task entry's words as they stood at the posting (R417) -/
  words : List Word
  t : Gt
  d : Nat
  cons : Word
  w4 : DWord
  replayed : Bool
  ovr : Bool
  seq : Nat
  oseq : Nat
  /-- order of posting -/
  pseq : Nat
  tries : Nat := 0
  /-- the physical engine that a hardware fault keeps it from (R430) -/
  avoid : Option Nat := none
  /-- once at DONE: its log, whether it failed, the addressable engine that ran it -/
  log : List LogEntry := []
  failed : Bool := false
  eng : Nat := 0
deriving DecidableEq, Repr

/-- An item on an engine: the architectural state of R442 but the local store. -/
structure Run where
  item : Item
  /-- the addressable engine it runs as (R432) -/
  addr : Nat
  started : Gt
  w : Vector DWord 32 := Vector.replicate 32 0
  c : Vector (Vector DWord 4) 16 := Vector.replicate 16 (Vector.replicate 4 0)
  /-- the address of the next instruction, before the check at the fetch (R450) -/
  pc : DWord := 0
  n : Bool := false
  z : Bool := false
  cf : Bool := false
  v : Bool := false
  count : Nat := 0
  log : List LogEntry := []
deriving DecidableEq, Repr

/-- A physical engine E0–E25 (R424–R433). -/
structure EngSt where
  run : Option Run := none
  /-- slow, by R431 -/
  degraded : Bool := false
  /-- taken out by ENG_CTL.OUT (R440) -/
  out : Bool := false
  /-- retired by a self-test (R527) -/
  retired : Bool := false
  /-- slow items in a row -/
  slow : Nat := 0
  /-- the engine that a spare stands in for (R432) -/
  covers : Option Nat := none
  /-- scratch: bytes 0x2_0000–0x7_FFFF of the local store -/
  scratch : ByteMap := []
  /-- the entry it popped last from each silo (R195, R461) -/
  popped : List (Nat × List Byte) := []
deriving DecidableEq, Repr

/-- The Thresher and the engines (R417–R441). -/
structure ThrSt where
  /-- events raised and not taken yet, oldest first -/
  raised : List ThrEvent := []
  /-- notices held, oldest first (R429) -/
  held : List ThrEvent := []
  heldAt : Option Gt := none
  /-- accepted events that wait for the order watermark (R421) -/
  rel : List ThrEvent := []
  tasks : List (Nat × TaskSt) := []
  /-- the pending queue, in the order of posting (R424) -/
  pend : List Item := []
  /-- ordered items at DONE that wait for their commit (R422) -/
  done : List Item := []
  pseq : Nat := 0
  engs : Vector EngSt 26 := Vector.replicate 26 {}
  /-- the program region's words, the same on every engine (R434) -/
  prog : WMap := []
  /-- by timer: its next instant (R437) -/
  timers : List (Nat × Gt) := []
deriving DecidableEq, Repr
/-! Field acquisition, the Winnow chain, the resampler and the estimator (R270–R327). -/

/-- A window of an accumulator in progress (R273, R274). -/
structure AccSt where
  /-- index of its first conversion, and the gain then in force -/
  start : Option Nat := none
  gain : Nat := 0
  sum : Int := 0
  ssq : Nat := 0
  cnt : Nat := 0
  mn : Int := 0x7FFFFFFF
  mx : Int := -0x80000000
  ovr : Nat := 0
  paused : Bool := false
  sawOpen : Bool := false
  sawSat : Bool := false
  sawRef : Bool := false
  /-- the gain has changed within it, or it began while the channel settled after such a change: nothing more is accumulated
  (R274) -/
  hold : Bool := false
  /-- a new kind of window waits for its first boundary (R272); the window has been published or judged -/
  wait : Bool := false
deriving DecidableEq, Repr

/-- A field channel: its settings in force, its filter histories (newest first: value, flag), its settle counts, its
windows and its status (R272–R280, R294–R305). -/
structure ChanSt where
  /-- CH_CTL in force, and writes that wait for their conversion: time of the write, word -/
  ctl : Word := 0x10
  pend : List (Gt × Word) := []
  cic : List (Int × Bool) := []
  p2 : List (Int × Bool) := []
  p3 : List (Int × Bool) := []
  p4 : List (Int × Bool) := []
  w2 : List (Int × Bool) := []
  w3 : List (Int × Bool) := []
  /-- unsuppressed inputs that each stage has still to take (R303) -/
  s1 : Nat := 36
  s2 : Nat := 15
  s3 : Nat := 23
  s4 : Nat := 31
  /-- stage 4 and stage 3 have released: a kept output came after the settle length (R303) -/
  pRel : Bool := false
  wRel : Bool := false
  acc : AccSt := {}
  /-- the cycle window that judges over-range recovery and open wire -/
  cyc : AccSt := {}
  sat : Bool := false
  /-- over-range samples of the episode -/
  satCnt : Nat := 0
  opened : Bool := false
  owKind : Nat := 0
  /-- consecutive windows that count, and that do not -/
  owYes : Nat := 0
  owNo : Nat := 0
deriving DecidableEq, Repr

/-- A W-path sample: signal of capture and oscillation: global index, value, flagged, suppressed. -/
structure WSamp where
  g : Nat
  /-- arrival stamp of a received sample; 0 for a field sample -/
  stamp : Gt := 0
  v : Int
  flag : Bool
  supp : Bool
deriving DecidableEq, Repr

/-- A P-path sample of an estimator channel: global index, the instant that it represents in 2^-16 ns (R297), value, and why
it is not good: 1 suppressed, 2 missing, 4 flagged, 8 OPEN or REF_FAIL, 16 sync flag 0. -/
structure PSamp where
  g : Nat
  t : Int
  v : Int
  bad : Nat
deriving DecidableEq, Repr

/-- An estimator channel (R308–R319). -/
structure EstCh where
  hist : List PSamp := []
  /-- tracker results, newest first: instant, F_trk, valid (R313) -/
  trk : List (Gt × Int × Bool) := []
  /-- words before each commit: its time, the instant of the newest sample served by then, PU_PEAK, CTL (R319) -/
  past : List (Gt × Int × Word × Word) := []
  sts : Nat := 0
deriving DecidableEq, Repr

/-- An SV source at the resampler (R306, R307): samples by global index, newest first. -/
structure SvSt where
  ins : List (Nat × SvSample) := []
  settle : Nat := 32
  need : Option Nat := none
deriving DecidableEq, Repr

/-- A scheduled swap (R301): set or table, sample index, whether seamless. -/
structure Swap where
  set : Nat
  sec : Nat
  k : Nat
  seamless : Bool
deriving DecidableEq, Repr

/-- Acquisition and estimation. -/
structure ChainSt where
  chans : Vector ChanSt 16 := Vector.replicate 16 {}
  /-- index of the latest conversion: seconds × 2,048,000 + k -/
  conv : Option Nat := none
  /-- latest W-path samples of each field channel, newest first -/
  wrec : List (Nat × List WSamp) := []
  /-- GD_W of each field channel: the 64 kS/s index from which it holds and its value in 2^-16 ns, newest first (R297) -/
  gdLog : List (Nat × List (Nat × Nat)) := []
  swaps : List Swap := []
  rsSwaps : List Swap := []
  /-- of each resampler table the 12.8 kS/s index from which the active bank serves (R302) -/
  rsFrom : List (Nat × Nat) := []
  sv : List (Nat × SvSt) := []
  est : List (Nat × EstCh) := []
  /-- the estimator's latest slice and the resampler's latest instant -/
  slice : Option Nat := none
  rsAt : Option Nat := none
  /-- how far the windows are served: the instant of the next sample of each field channel, then of the SV channels -/
  ends : List Int := []
  /-- slices that overran (R25) -/
  late : List Nat := []
  missAt : Option Gt := none
  invAt : Option Gt := none
  satAt : Option Gt := none
  /-- TQ codes and the times from which they held, newest first (R142) -/
  tqLog : List (Gt × Nat) := []
deriving DecidableEq, Repr

/-- The housekeeping converter (R281–R286, R104). -/
structure HkSt where
  /-- always-on ms of the latest scan -/
  at_ : Option Nat := none
  /-- consecutive scans with one verdict that is not good, and that verdict: 1 field, 2 housekeeping, 3 both -/
  bad : Nat := 0
  badKind : Nat := 0
  /-- always-on ms since which scans are judged good -/
  goodFrom : Option Nat := none
  refFail : Bool := false
  hkFail : Bool := false
  /-- the 112 °C and the 125 °C record stand; always-on ms since which every sensor is below 100 °C -/
  warm : Bool := false
  hot : Bool := false
  coolFrom : Option Nat := none
  /-- this part entered Keep by R104 -/
  forced : Bool := false
deriving DecidableEq, Repr

/-! Oscillation watch, islanding, alarms, control outputs (R328–R390). -/

/-- A monitored signal's detrend filter and count of invalid inputs (R331, R332). -/
structure OscSig where
  x : BitVec 64 := 0
  y : BitVec 64 := 0
  bad : Nat := 0
  /-- the trackers have restarted in this run of invalid samples (R332) -/
  gap : Bool := false
  mismatch : Bool := false
  /-- instant represented by the latest sample taken -/
  seen : Option Gt := none
deriving DecidableEq, Repr

/-- A fit point (R335, R336): L, whether its own sample was valid, whether every sample since the point before was
valid, whether AMP is above 0. -/
structure FitPoint where
  l : Int
  own : Bool
  since : Bool
  pos : Bool
deriving DecidableEq, Repr

/-- A band tracker (R333–R340); binary64 patterns. -/
structure OscTrk where
  y1 : BitVec 64 := 0
  y2 : BitVec 64 := 0
  u1 : BitVec 64 := 0
  u2 : BitVec 64 := 0
  v1 : BitVec 64 := 0
  v2 : BitVec 64 := 0
  zr : BitVec 64 := 0
  zi : BitVec 64 := 0
  /-- the envelope at the previous evaluation -/
  prev : Option (BitVec 64 × BitVec 64) := none
  /-- input samples taken since the latest restart -/
  n : Nat := 0
  /-- no invalid sample since the latest fit point -/
  clean : Bool := true
  pts : List FitPoint := []
  valid : Bool := false
  alarm : Bool := false
  on : Bool := false
  off : Bool := false
  count : Nat := 0
  /-- adaptation runs, its percentile state, the clamp acts (R340) -/
  adapting : Bool := false
  ql : Int := 0
  bound : Bool := false
  fitSeq : Nat := 0
  /-- the alarm source that the tracker drives now (R338) -/
  drive : Option Nat := none
  /-- instant and index of the sample evaluated last -/
  lt : Gt := 0
  lg : Nat := 0
  /-- envelopes and demodulation phases after latest samples, newest first: instant, z, phase in 2^-32 turn, VALID (R374) -/
  zh : List (Gt × BitVec 64 × BitVec 64 × Nat × Bool) := []
deriving DecidableEq, Repr

/-- The oscillation watch. -/
structure OscSt where
  sigs : List (Nat × OscSig) := []
  trks : List (Nat × OscTrk) := []
  /-- the latest slice -/
  slice : Option Nat := none
  /-- a slice overran: the next one's evaluations are invalid (R343) -/
  late : Bool := false
  invAt : Option Gt := none
  /-- bales taken: rate and index (R346) -/
  taken : List (Nat × Nat) := []
deriving DecidableEq, Repr

/-- An island group (R356–R361). -/
structure IslGrp where
  declared : Bool := false
  crit : Nat := 0
  cntF : Nat := 0
  cntD : Nat := 0
  cntClr : Nat := 0
  s : Int := 0
  /-- Δθ of the previous valid report -/
  p : Option (BitVec 64) := none
  /-- the latest three reports, newest first: expression, level of F, level of D -/
  win : List (Bool × Bool × Bool) := []
  /-- prior validity, which counts as valid after a start (R363) -/
  valid : Bool := true
  /-- validity of the latest report -/
  rep : Bool := false
  idx : Nat := 0
  df : Int := 0
  dr : Int := 0
  expr : Nat := 0
deriving DecidableEq, Repr

/-- The islanding unit. -/
structure IslSt where
  grps : List (Nat × IslGrp) := []
  taken : List (Nat × Nat) := []
  /-- bale time evaluated last since the latest start, reset or change of RATE (R421) -/
  last : Option Gt := none
  /-- a slice overran: the next one's reports are invalid (R25) -/
  late : Bool := false
deriving DecidableEq, Repr

/-- A change that a source asks for (R367): source, state, instant, replayed. -/
structure SrcReq where
  src : Nat
  on : Bool
  t : Gt
  replayed : Bool
deriving DecidableEq, Repr

/-- An alarm ball (R368, R369). -/
structure BallSt where
  l : Bool := false
  out : Bool := false
  latched : Bool := false
  /-- OUT holds until this time -/
  hold : Gt := 0
  /-- the latest decision that asked for a change still held: decider, time, replayed -/
  ask : Option (Nat × Gt × Bool) := none
deriving DecidableEq, Repr

/-- A GOOSE dataset (R372). -/
structure GooseSt where
  on : Bool := false
  st : Nat := 1
  sq : Nat := 0
  vals : List Bool := []
  t : Gt := 0
  /-- interval to the next message, ms, and the message's time; none before the first send or while sending stopped -/
  ms : Nat := 0
  due : Option Gt := none
  /-- a message of the present state has been sent -/
  sent : Bool := false
deriving DecidableEq, Repr

/-- The alarm composer. -/
structure AlmSt where
  active : BitVec 256 := 0
  /-- a threshold check's own state, and its count and latest validity (R366) -/
  thr : BitVec 256 := 0
  valid : BitVec 256 := 0
  cnt : List (Nat × Nat) := []
  reqs : List SrcReq := []
  /-- bales evaluated whose decision is still to come: bale time, replayed -/
  bales : List (Gt × Bool) := []
  balls : Vector BallSt 16 := Vector.replicate 16 {}
  /-- OUT as the balls are driven -/
  drive : BitVec 16 := 0
  goose : List (Nat × GooseSt) := []
  /-- the latest bale time decided on (R29) -/
  modeT : Option Gt := none
deriving DecidableEq, Repr

/-- A control output (R374–R376); binary64 patterns. -/
structure CoSt where
  u : BitVec 64 := 0
  g : Option (BitVec 64) := none
  /-- u is clamped to ±U_MAX -/
  clamped : Bool := false
  limRate : Bool := false
  degraded : Bool := false
  bound : Bool := false
  /-- G after each evaluation that changed it, newest first: instant, G (R375) -/
  gh : List (Gt × BitVec 64) := []
  /-- u of computed bales that are not published yet: bale time, u -/
  us : List (Gt × BitVec 64) := []
  /-- value published last -/
  sent : BitVec 64 := 0
deriving DecidableEq, Repr

/-- The control outputs. -/
structure GovSt where
  outs : Vector CoSt 16 := Vector.replicate 16 {}
  /-- Govern acted at the bale computed last -/
  govern : Bool := false
  /-- bales computed and not published, oldest first: time, index, late by R376; bales told and not computed stand in toCo -/
  wait : List (Gt × Nat × Bool) := []
  /-- publication done last -/
  pubT : Option Gt := none
  /-- HOLD, and the end of GAP_HOLD; RAMP (R379) -/
  hold : Bool := false
  holdFrom : Gt := 0
  ramp : Bool := false
  taken : List (Nat × Nat) := []
  /-- number of the next R-SV session message (R378) -/
  spdu : Nat := 0
deriving DecidableEq, Repr

/-! Disturbance capture (R391–R416). -/

/-- What a capture definition is doing (R396, R400, R404): off, disarmed by CAP_STOP, disarmed by uneven input rates, in
hold-off, waiting for area space, armed, recording. -/
inductive CapPhase where
  | off | stopped | uneven | hold | wait | armed | recording
deriving DecidableEq, Repr

/-- An accepted trigger (R397, R405, R406). -/
structure CapTrig where
  t : Gt
  rank : Nat
  slot : Nat
  type : Nat
  frac : Nat
  index : Nat
  gov : Bool
  tq : Nat
  /-- trigger row, counted in rows since arming -/
  row : Nat
  /-- GAIN and UNIT of each channel -/
  gains : List (Nat × Word)
deriving DecidableEq, Repr

/-- A capture definition (R391–R406). -/
structure CapDef where
  ph : CapPhase := .off
  /-- the next input index to take -/
  nx : Option Nat := none
  /-- input samples in so many seconds, as it was when the definition armed -/
  rate : Nat × Nat := (0, 1)
  /-- offset of the reserved extent in its area -/
  ext : Nat := 0
  /-- input index of the first row since arming, and rows since then -/
  r0 : Nat := 0
  rows : Nat := 0
  /-- the newest row: it goes to memory when the next one comes -/
  last : Option (List Byte) := none
  held : Option CapTrig := none
  /-- slots, and bit 5 the host, with a trigger at the held trigger's time -/
  mask : Nat := 0
  seq : Option Nat := none
  told : Bool := false
  /-- linear rows written, the decimation factor 1, 2 or 4, a change to come: index, factor, cause; index of the latest change -/
  lin : Nat := 0
  mul : Nat := 1
  mulTo : Option (Nat × Nat × Nat) := none
  mulAt : Nat := 0
  /-- change points: logical row, D_eff, cause -/
  chg : List (Nat × Nat × Nat) := []
  retrig : Nat := 0
  retrigAt : Gt := 0
  /-- end of hold-off by time, and triggers still to ignore -/
  holdEnd : Gt := 0
  holdN : Nat := 0
  /-- a slot has fired and waits for its hysteresis: 1 after rising or any other, 2 after falling -/
  lock : List Nat := [0, 0, 0, 0]
  /-- whether a bale quantity's latest valid report met its level -/
  met : List (Option Bool) := [none, none, none, none]
deriving DecidableEq, Repr

/-- A kept extent of an area (R403, R404): offset, length, the definition that has it reserved, its SEQ when complete. -/
structure CapExt where
  ofs : Nat
  len : Nat
  owner : Option Nat
  seq : Option Nat
deriving DecidableEq, Repr

/-- An area of Stook memory: the next reservation, kept extents oldest first. -/
structure CapArea where
  head : Nat := 0
  exts : List CapExt := []
deriving DecidableEq, Repr

/-- A completed Stook on its way out (R408). -/
structure CapExport where
  defn : Nat
  area : Nat
  seq : Nat
  /-- byte offset in Stook memory, and LENGTH -/
  ofs : Nat
  len : Nat
  t : Gt
  type : Nat
  flags : Nat
  post : Nat
  /-- failures so far; ports and chunks of the attempt under way; completions still to come -/
  fails : Nat := 0
  left : Option Nat := none
deriving DecidableEq, Repr

/-- A change that may trigger (R394): 5 a source or 6 a ball, its number, its new state, its time. -/
structure CapEvt where
  kind : Nat
  num : Nat
  on : Bool
  t : Gt
deriving DecidableEq, Repr

/-- The capture engine. -/
structure CapSt where
  defs : Vector CapDef 32 := Vector.replicate 32 {}
  areas : Vector CapArea 4 := Vector.replicate 4 {}
  /-- bytes in the staging buffer, and the most since the last read -/
  fill : Nat := 0
  peak : Nat := 0
  /-- CAP_SEQ -/
  seq : Nat := 0
  queue : List CapExport := []
  /-- finished descriptors of the export: SEQ, attempt, status -/
  done : List (Nat × Nat × Nat) := []
  /-- end of the TRIG_OUT pulse, and the definition that started it -/
  outEnd : Option (Gt × Nat) := none
  waitAt : Option Gt := none
  evs : List CapEvt := []
  taken : List (Nat × Nat) := []
deriving DecidableEq, Repr

/-! Field update (R584–R604). -/

/-- A part entry of an image slot's header (R585). -/
structure ImgPart where
  version : Nat := 0
  size : Nat := 0
  sha : List Byte := []
deriving DecidableEq, Repr

/-- An image slot's state line and part entries (R585); the parts' bytes stand in the MRAM (R36, R584). -/
structure ImgSlot where
  /-- 0 EMPTY, 1 FILLING, 2 STAGED, 3 PROBATION, 4 ACTIVE, 5 REJECTED, 6 RETIRED -/
  st : Nat := 0
  gen : Nat := 0
  seq : Nat := 0
  doneBlk : Nat := 0
  parts : List (Nat × ImgPart) := []
  /-- the manifest and signature -/
  manifest : List Byte := []
deriving DecidableEq, Repr

/-- A part of a package as its manifest lists it (R589). -/
structure PkgPart where
  kind : Nat
  mode : Nat
  version : Nat
  base : Nat
  size : Nat
  ofs : Nat
  bytes : Nat
  crcOfs : Nat
  nblock : Nat
  sha : List Byte
deriving DecidableEq, Repr

/-- Field update. -/
structure UpdSt where
  slots : Vector ImgSlot 2 := #v[{ st := 4, gen := 1 }, {}]
  /-- the slot whose image runs -/
  running : Fin 2 := 0
  /-- 0 idle, 1 loading, 2 verifying, 3 applying, 4 staged, 5 requesting, 6 shadow, 7 probation -/
  phase : Nat := 0
  result : Nat := 0
  part : Nat := 0
  fill : Nat := 0
  done : Nat := 0
  total : Nat := 0
  /-- STAGE runs: the package's parts in order -/
  pkg : List PkgPart := []
  /-- the staged package's SAME_RESULTS -/
  same : Bool := false
  /-- start of SHADOW, always-on time, and the closed bales it still needs -/
  shadowAt : Gt := 0
  shadowLeft : Nat := 0
  /-- the spare that runs the shadow items -/
  spare : Option Nat := none
  /-- fault causes that stood at the grant (R599) -/
  faults : BitVec 32 := 0
  /-- settings words of the migrated slot, and of the slot before it -/
  mig : WMap := []
  old : WMap := []
  /-- T_h, once it is fixed, and the end of probation -/
  th : Option Gt := none
  /-- the failure of a probation: its time and cause -/
  failAt : Option (Gt × Nat) := none
  /-- programs reload once the items before this time have committed (R597) -/
  reloadAt : Option Gt := none
  /-- the partner's latest UPD_STATE: phase, GRANT and SAME_RESULTS, SEQ, versions (R595) -/
  partner : Option (Nat × Bool × Bool × Nat × List Byte) := none
  /-- digests of bales from this time on are not compared -/
  noCompare : Option Gt := none
  /-- when an island or an oscillation alarm ended last (R593) -/
  alarmEnd : Option Gt := none
  /-- the settings slot number that an activation uses: no commit while it does (R513) -/
  slotHeld : Bool := false
deriving DecidableEq, Repr

/-- What the part sends to the outside, in order (the model's own record). -/
inductive Output where
  /-- an MSI-X message (R57) -/
  | msix (vector : Nat)
  /-- a PMBus transaction: the regulator's 7-bit address, the command and the data bytes written (R94) -/
  | pmbus (addr : Nat) (command : Nat) (data : List Byte)
  /-- a frame on a port, without its FCS, at its egress stamp (R170) -/
  | frame (port : Nat) (bytes : List Byte) (at_ : Gt)
  /-- a time-of-day message on TOD_TX (R135) -/
  | tod (bytes : List Byte)
  /-- a write to host memory (R176) -/
  | hostMem (addr : Nat) (bytes : List Byte)
  /-- a frame on the pair link: its SEQ (0 unsequenced), its ACK, whether it is a retransmission (R483) -/
  | pairLink (seq ack : Nat) (again : Bool) (msg : PlMsg)
  /-- a frame on the setpoint port: the 112 bits of each of the four lines, at its publication time and SPT_DIV (R377) -/
  | spt (lines : List Nat) (at_ : Gt) (div : Nat)
  /-- a pulse on LEASE_OUT: 1 HOLD, 2 CLAIM (R486) -/
  | lease (cls : Nat)
deriving DecidableEq, Repr

/-- Everything in the part but the queue of waiting commands. -/
structure Block where
  regs : WMap := []
  /-- words of tables and registers that wait for their commit, by address (R41) -/
  staged : WMap := []
  /-- values held while a page is frozen, by address (R45) -/
  held : WMap := []
  frozen : List Nat := []
  host : AgentSt := {}
  side : AgentSt := {}
  msixMask : BitVec 64 := BitVec.allOnes 64
  msixPend : BitVec 64 := 0
  sb : SideBand := {}
  wdogKickAt : Gt := 0
  /-- the host watchdog runs and has not expired since the latest kick (R63) -/
  wdogRuns : Bool := false
  dev : DevSt := {}
  settings : Settings := {}
  supply : Supply := {}
  balls : Balls := {}
  time : TimeSt := {}
  ports : Vector PortSt 4 := Vector.replicate 4 {}
  prp : PrpSt := {}
  evr : Evr := {}
  /-- the MRAM bytes of the event recorder's region (R36, R541) -/
  mram : ByteMap := []
  bist : Bist := {}
  keys : Keys := {}
  glean : GleanSt := {}
  gran : GranSt := {}
  /-- the Granary's 48 MiB (R243, R264) -/
  granMem : ByteMap := []
  /-- the 16 GiB of LPDDR5X (R35) -/
  ddr : ByteMap := []
  pair : PairSt := {}
  mode : ModeSt := {}
  thr : ThrSt := {}
  /-- sampled values that the resampler has not taken yet (R226) -/
  svIn : List SvSample := []
  chain : ChainSt := {}
  hk : HkSt := {}
  osc : OscSt := {}
  isl : IslSt := {}
  alm : AlmSt := {}
  gov : GovSt := {}
  cap : CapSt := {}
  upd : UpdSt := {}
  /-- commits that wait for their first sample, bale or decision, oldest first: the watermark at the commit, the
  address, the words as they stood before (R345, R365) -/
  later : List (Gt × Nat × List Word) := []
  silos : Vector Silo 64 := Vector.replicate 64 {}
  out : List Output := []
  /-- the counter the free values are drawn with (the model's own field) -/
  freeCtr : Nat := 0
deriving DecidableEq, Repr

/-- The reasons for a fault. -/
inductive Fault where
  /-- a command without a form; raised by no command, since every meaning answers a next state. Safe: nothing is stopped. -/
  | illFormed
deriving DecidableEq, Repr

/-- The reasons for a refusal. -/
inductive Refusal where
  /-- a command without a meaning; raised by no command, since every command has one. Safe: nothing is refused. -/
  | notModelled (mnemonic : String)
deriving DecidableEq, Repr

/-- The state of the machine: the part and the commands that wait, first in first out. -/
structure State where
  blk : Block := {}
  pending : List Instr := []
deriving DecidableEq, Repr

/-- The machine right after reset: a part as made, its supplies present, in cold reset (R507, R518). -/
def State.reset : State := {}

end Sys2Proof.Machine
end

