-- ==== Sys2Proof/Machine/Ops.lean ====
section
/-! DEFINITION. The named operations that every family is built from: registers and counters, errors and interrupts,
event-record occurrences, silo pushes and pops, transmit queues, time readings and free values. -/

namespace Sys2Proof.Machine
open Sys2Proof

/-- What a meaning answers. -/
abbrev Out := Host.Outcome State Fault Refusal

/-- Carries out an effect on everything but the queue. -/
def State.run (s : State) (f : Block → Block) : Out := .next { s with blk := f s.blk }

/-- f where p holds, else nothing. -/
def onlyIf (p : Bool) (f : Block → Block) (b : Block) : Block := if p then f b else b
/-- Carries out f for each element in order. -/
def forEach {α : Type} (l : List α) (f : α → Block → Block) (b : Block) : Block := l.foldl (fun b x => f x b) b

/-! Registers. -/

/-- The value of a register or table word. -/
def Block.r (b : Block) (a : Nat) : Word := mget (regDefault a) b.regs a
/-- The value as a number. -/
def Block.n (b : Block) (a : Nat) : Nat := (b.r a).toNat
/-- Bits [hi:lo] of a register. -/
def Block.f (b : Block) (a hi lo : Nat) : Nat := fld (b.r a) hi lo
/-- One bit of a register. -/
def Block.t (b : Block) (a i : Nat) : Bool := bitAt (b.r a) i
/-- Writes a register or table word. -/
def wr (a : Nat) (v : Word) (b : Block) : Block := { b with regs := mput (regDefault a) b.regs a v }
/-- Writes a number to a register. -/
def wn (a v : Nat) (b : Block) : Block := wr a (w32 v) b
/-- Replaces bits [hi:lo] of a register. -/
def wf (a hi lo v : Nat) (b : Block) : Block := wr a (putFld (b.r a) hi lo v) b
/-- Sets or clears one bit of a register. -/
def wbit (a i : Nat) (p : Bool) (b : Block) : Block := wf a i i (b01 p) b
/-- A 64-bit pair as a number. -/
def Block.n64 (b : Block) (a : Nat) : Nat := b.n a + b.n (a + 4) * 2 ^ 32
/-- Writes a 64-bit pair. -/
def wn64 (a v : Nat) (b : Block) : Block := wn (a + 4) (v / 2 ^ 32) (wn a v b)
/-- Adds n to a 64-bit counter pair; it wraps. -/
def cntBy (a n : Nat) (b : Block) : Block := wn64 a (b.n64 a + n) b
/-- Counts one in a 64-bit pair. -/
def cnt (a : Nat) (b : Block) : Block := cntBy a 1 b
/-- Counts one in a saturating 32-bit counter. -/
def cnt32 (a : Nat) (b : Block) : Block := wr a (satInc (b.r a)) b
/-- Counts one in a wrapping 32-bit counter. -/
def cntWrap (a : Nat) (b : Block) : Block := wr a (b.r a + 1) b
/-- The larger of a register and a number is kept. -/
def wmax (a v : Nat) (b : Block) : Block := if b.n a < v then wn a v b else b

/-- BAR0 offset of a page's register (R38). -/
def pg (p o : Nat) : Nat := p * 0x1000 + o
/-- PG_CTL.ENABLE. -/
def Block.enabled (b : Block) (p : Nat) : Bool := b.t (pg p 0x008) 0
/-- PG_LOCK.LOCK. -/
def Block.locked (b : Block) (p : Nat) : Bool := b.t (pg p 0x028) 0

/-! Time. -/

/-- One second in 2^-16 ns. -/
def gtSec : Nat := 1000000000 * 65536
/-- Nanoseconds in 2^-16 ns. -/
def gtNs (n : Nat) : Gt := n * 65536
/-- Milliseconds in 2^-16 ns. -/
def gtMs (n : Nat) : Gt := gtNs (n * 1000000)
/-- Grid time now: the top 16 bits of the counter's fraction (R116). -/
def Block.now (b : Block) : Gt := b.time.ctr / 2 ^ 32
/-- Seconds of a time. -/
def secOf (t : Gt) : Nat := t / gtSec
/-- Nanoseconds of a time within its second. -/
def nsOf (t : Gt) : Nat := t / 65536 % 1000000000
/-- Fraction of a time in 2^-16 ns. -/
def fracOf (t : Gt) : Nat := t % 65536
/-- A time from seconds and nanoseconds. -/
def mkGt (sec ns : Nat) : Gt := sec * gtSec + gtNs ns
/-- The short form as a number of 80 bits (R114). -/
def shortNat (t : Gt) : Nat := secOf t % 2 ^ 48 * 2 ^ 32 + nsOf t * 4 + fracOf t / 2 ^ 14
/-- The short form in memory: 10 bytes, little-endian (R114). -/
def shortForm (t : Gt) : List Byte := leBytes 10 (shortNat t)
/-- The full form in memory: 16 bytes (R113). -/
def fullForm (t : Gt) : List Byte := leBytes 8 (secOf t) ++ leBytes 4 (nsOf t) ++ leBytes 4 (fracOf t)
/-- A time truncated to the short form's grain, so that stamps compare as R115 says. -/
def shortGrain (t : Gt) : Gt := t / 2 ^ 14 * 2 ^ 14
/-- Widens a short-form stamp against the present time (R115). -/
def widen (now : Gt) (sh : Nat) : Gt :=
  let s := secOf now
  let c : Nat := s / 2 ^ 48 * 2 ^ 48 + sh / 2 ^ 32 % 2 ^ 48
  let c2 : Nat := if s + 2 ^ 47 < c then c - 2 ^ 48 else if c + 2 ^ 47 < s then c + 2 ^ 48 else c
  mkGt c2 (sh / 4 % 2 ^ 30) + sh % 4 * 2 ^ 14

/-- Always-on time in 2^-16 ns: what intervals are measured on where no grid time is said. -/
def Block.mono (b : Block) : Gt := b.time.ticks * 262144 / 5
/-- The latest occurrence, if any, is at least one second of always-on time past (DEDUCED 129, 183). -/
def quiet (last : Option Gt) (b : Block) : Bool := last.all fun t => decide (t + gtSec ≤ b.mono)

/-! Free values. -/

/-- Moves past one free value. -/
def usedFree (b : Block) : Block := { b with freeCtr := b.freeCtr + 1 }
/-- n bytes of no defined value. -/
def freeBytes (b : Block) (n : Nat) : List Byte := (List.range n).map fun i => Config.freeByte (b.freeCtr + i)
/-- Moves past n free values. -/
def usedFreeN (n : Nat) (b : Block) : Block := { b with freeCtr := b.freeCtr + n }

/-- A measured time, a number of no stated value, keeps the larger in a register's low bits (R9: times depend on speed). -/
def noteTime (a bits : Nat) (b : Block) : Block := usedFree (wmax a (Config.freeNat b.freeCtr % 2 ^ bits) b)

/-! Outward record. -/

/-- Appends to what the part has sent outside. -/
def emit (o : Output) (b : Block) : Block := { b with out := b.out ++ [o] }

/-! Interrupts (R44, R56, R57). -/

/-- The MSI-X vector of a page's group (R56). -/
def vecOf (p : Nat) : Option Nat :=
  if p = 0x00 || p = 0x01 then some 0
  else if p = 0x02 then some 1
  else if 0x04 ≤ p && p ≤ 0x07 then some (p - 2)
  else if p = 0x08 || p = 0x09 then some 6
  else if 0x10 ≤ p && p ≤ 0x13 then some (p - 9)
  else if p = 0x18 then some 11
  else if p = 0x19 then some 12
  else if p = 0x20 || p = 0x21 then some 13
  else if p = 0x22 || p = 0x23 then some 14
  else if p = 0x24 then some 15
  else if p = 0x28 then some 16
  else if p = 0x29 then some 17
  else if p = 0x2A then some 18
  else if p = 0x2B then some 19
  else if p = 0x30 then some 20
  else if p = 0x38 then some 21
  else if 0x40 ≤ p && p ≤ 0x59 then some (p - 0x40 + 22)
  else if p = 0x60 then some 48
  else if p = 0x64 then some 49
  else if p = 0x68 || p = 0x7C then some 50
  else if p = 0x6C then some 51
  else if p = 0x70 then some 52
  else if p = 0x74 || p = 0x78 then some 53
  else if p = 0x80 || p = 0x81 then some 54
  else none
/-- A group is pending while any page in it has a bit set in PG_IRQ and PG_IRQ_EN (R57). -/
def grpPending (b : Block) (v : Nat) : Bool :=
  allPages.any fun p => vecOf p == some v && (b.r (pg p 0x018) &&& b.r (pg p 0x014)) != 0
/-- Sends a group's message, or sets its pending bit while the vector is masked (R57). -/
def msixSend (v : Nat) (b : Block) : Block :=
  if b.msixMask.getLsbD v then { b with msixPend := b.msixPend ||| (1#64 <<< v) } else emit (.msix v) b
/-- Sends the message of a page's group where f makes the group pending. -/
def withIrq (p : Nat) (f : Block → Block) (b : Block) : Block :=
  match vecOf p with
  | none => f b
  | some v => let c := f b; if !grpPending b v && grpPending c v then msixSend v c else c
/-- A cause rises: its bit in PG_IRQ is set (R44). -/
def irq (p i : Nat) (b : Block) : Block := withIrq p (wbit (pg p 0x018) i true) b

/-- Records an error: the first code since the last read, and the count (R46). -/
def err (p code : Nat) (b : Block) : Block :=
  let a := pg p 0x01C
  let n := b.f a 31 8
  let v := if n = 0 then 0x100 + code % 256 else min (n + 1) 0xFFFFFF * 256 + b.f a 7 0
  let c := wn a v b
  if n = 0 then irq p 31 c else c
/-- Sets or clears PG_STS.BUSY, SETTLED, DEGRADED or FAULT by its bit (R45). -/
def stsBit (p i : Nat) (v : Bool) (b : Block) : Block := wbit (pg p 0x00C) i v b
/-- PG_STS.FAULT is set. -/
def setFault (p : Nat) (b : Block) : Block := stsBit p 3 true b

/-! Event records: an occurrence reaches the recorder's grant point (R544). -/

/-- Raises an event code with its arguments. -/
def evr (code a1 a2 : Nat) (b : Block) : Block :=
  { b with evr := { b.evr with occ := b.evr.occ ++ [⟨code, w32 a1, w32 a2⟩] } }
/-- The pattern of a signed argument, saturated to 32 bits. -/
def sarg (i : Int) : Nat := pat 32 (satS 32 i)

/-! Side-band alerts (R63, R65). -/

/-- A cause bit of SBM_ALERT rises. -/
def sbAlert (i : Nat) (b : Block) : Block := wbit (pg 0x81 0x040) i true b

/-! Silos (R185–R202). -/

/-- The page and the low address part of a silo's registers. -/
def siloPage (q : Nat) : Nat := 0x10 + q / 16
/-- Address of a silo register from the offset of its row (R204). -/
def siloReg (q ofs : Nat) : Nat := pg (siloPage q) (ofs + 0x20 * (q % 16))
/-- SQ_CTL. -/
def sqCtl (q : Nat) : Nat := siloReg q 0x100
/-- SQ_FLAGS. -/
def sqFlags (q : Nat) : Nat := siloReg q 0x108
/-- SQ_DROPS. -/
def sqDrops (q : Nat) : Nat := siloReg q 0x10C
/-- SQ_PEAK. -/
def sqPeak (q : Nat) : Nat := siloReg q 0x110
/-- The silo by its number. -/
def Block.silo (b : Block) (q : Nat) : Silo := (b.silos[q]?).getD {}
/-- Changes one silo. -/
def modSilo (q : Nat) (f : Silo → Silo) (b : Block) : Block :=
  if h : q < 64 then { b with silos := b.silos.set q (f b.silos[q]) } else b
/-- Whether the silo is in service. -/
def Block.siloOn (b : Block) (q : Nat) : Bool := b.t (sqCtl q) 31
/-- Its depth D (R186). -/
def Block.siloDepth (b : Block) (q : Nat) : Nat := 2 ^ b.f (sqCtl q) 3 0
/-- O, entries held by items (R190). -/
def Silo.items (s : Silo) : Nat := (s.q.filter fun e => !e.1).length
/-- M, the marker flag. -/
def Silo.marker (s : Silo) : Bool := s.q.any (·.1)
/-- The newest entry is a marker. -/
def Silo.newestMarker (s : Silo) : Bool := match s.q.getLast? with
  | some e => e.1
  | none => false
/-- Whether a push of n entries succeeds (R191). -/
def Block.siloFits (b : Block) (q n : Nat) : Bool := b.siloOn q && (b.silo q).items + n ≤ b.siloDepth q - 1
/-- A CHAFF marker (R194). -/
def chaff (drops : Nat) (first last : Gt) : List Byte :=
  padTo 64 ([0x01, 0, 0, 0] ++ leBytes 4 (satU 32 drops) ++ shortForm first ++ shortForm last)
/-- The entries of an item: 64 bytes each. -/
def entriesOf : Nat → List Byte → List (List Byte)
  | 0, _ => []
  | n + 1, l => padTo 64 l :: entriesOf n (l.drop 64)
/-- The DROPS field of a marker. -/
def chaffDrops (e : List Byte) : Nat := leAt e 4 4
/-- A marker updated in place by one more drop (R192). -/
def chaffMore (t : Gt) (e : List Byte) : List Byte :=
  splice (splice e 4 (leBytes 4 (satU 32 (chaffDrops e + 1)))) 18 (shortForm t)
/-- The newest entry changed. -/
def modLast (f : List Byte → List Byte) : List (Bool × List Byte) → List (Bool × List Byte)
  | [] => []
  | [e] => [(e.1, f e.2)]
  | e :: l => e :: modLast f l
/-- A push that does not succeed (R187, R192). -/
def siloDrop (q : Nat) (b : Block) : Block :=
  let s := b.silo q
  let c := b |> cnt32 (sqDrops q) |> wbit (sqFlags q) 0 true
  if !b.siloOn q then c
  else if s.newestMarker then modSilo q (fun s => { s with q := modLast (chaffMore b.now) s.q }) c
  else if !s.marker then
    c |> modSilo q (fun s => { s with q := s.q ++ [(true, chaff 1 b.now b.now)] }) |> irq (siloPage q) (q % 16)
      |> onlyIf (q = 63 && s.q.isEmpty) (sbAlert 0)
  else
    modSilo q (fun s => { s with
      defer := s.defer + 1, deferFirst := if s.defer = 0 then b.now else s.deferFirst, deferLast := b.now }) c
/-- Keeps SQ_PEAK at the highest COUNT (R204). -/
def siloPeak (q : Nat) (b : Block) : Block := wmax (sqPeak q) (b.silo q).q.length b

/-- A decided push: the item's entries are written in one step, or the push is dropped (R191, R192). The side-band's
alert of silo 63 follows its COUNT (R63); a push to silos 48–55 that succeeds is told to the caller (R199). -/
def siloPut (q : Nat) (item : List Byte) (b : Block) : Block :=
  let n := ceilDiv item.length 64
  if b.siloFits q n then
    let wasEmpty := (b.silo q).q.isEmpty
    let c := b |> modSilo q (fun s => { s with q := s.q ++ (entriesOf n item).map fun e => (false, e) }) |> siloPeak q
    if q = 63 && wasEmpty && 0 < n then sbAlert 0 c else c
  else siloDrop q b |> siloPeak q
/-- A pop (R193, R195): the oldest entry leaves; where it is a marker, the deferred drops make a new one. The answer is
the entry, none at an underrun. -/
def siloTake (q : Nat) (b : Block) : Option (List Byte) × Block :=
  match (b.silo q).q with
  | [] => (none, wbit (sqFlags q) 1 true b)
  | (mk, e) :: rest =>
    let c := modSilo q (fun s => { s with q := rest }) b
    if mk && 0 < (b.silo q).defer then
      let s := b.silo q
      (some e, c |> modSilo q (fun t => { t with
        q := rest ++ [(true, chaff s.defer s.deferFirst s.deferLast)], defer := 0 }) |> irq (siloPage q) (q % 16))
    else (some e, c)
/-- Empties a silo and clears its markers and deferred drops (R203). -/
def siloEmpty (q : Nat) (b : Block) : Block := modSilo q (fun s => { s with q := [], defer := 0 }) b

/-- A one-entry item from its first bytes. -/
def entry (l : List Byte) : List Byte := padTo 64 l
/-- A FRAME item (R190), its tail padded with bytes of no defined value. -/
def frameItem (b : Block) (dflt : Bool) (port cls reason : Nat) (stamp : Gt) (fr : List Byte) : List Byte :=
  let n := 1 + ceilDiv (fr.length - 48) 64
  let l := [(0x02 : Byte), BitVec.ofNat 8 (n - 1)] ++ leBytes 2 (b01 dflt * 2 ^ 15 + fr.length % 2 ^ 14)
    ++ [BitVec.ofNat 8 (port * 64 + cls), BitVec.ofNat 8 reason] ++ shortForm stamp ++ fr
  l ++ freeBytes b (64 * n - l.length)

/-! Field update, as other blocks see it. -/

/-- Changes field update. -/
def modUpd (f : UpdSt → UpdSt) (b : Block) : Block := { b with upd := f b.upd }
/-- Something fails a probation that runs (R599): 0 health, 1 firmware watchdog, 2 slice overrun, 3 item failure,
4 divergence, 5 ABORT. -/
def updFail (cause : Nat) (b : Block) : Block :=
  if b.upd.phase = 7 && b.upd.failAt.isNone then modUpd (fun u => { u with failAt := some (b.now, cause) }) b else b
/-- An island's declaration or an oscillation alarm ended (R593). -/
def alarmEnded (b : Block) : Block := modUpd (fun u => { u with alarmEnd := some b.mono }) b

/-! State of the part. -/

/-- The part runs or idles: every domain powered and no cold or warm reset held (R503). -/
def Block.up (b : Block) : Bool := (b.dev.st == .run || b.dev.st == .idle) && !b.dev.cold && !b.dev.warm
/-- The data path runs into the Granary: state Run, no reset held. -/
def Block.running (b : Block) : Bool := b.dev.st == .run && !b.dev.cold && !b.dev.warm
/-- The always-on domain works: not Off and not in cold reset. -/
def Block.aon (b : Block) : Bool := b.dev.st != .off && !b.dev.cold
/-- The page is in block reset (R507). -/
def Block.inReset (b : Block) (p : Nat) : Bool := b.dev.blocks.contains p
/-- PCIe accesses reach the registers: powered, and no link reset held (R75). -/
def Block.hostUp (b : Block) : Bool := b.up && !b.dev.link
/-- Whether an agent can reach the registers at all. -/
def Block.agentUp (b : Block) : Agent → Bool
  | .host => b.hostUp
  | .side => b.aon
/-- Pages that answer in Keep (R62). -/
def keepPages : List Nat := [0x00, 0x01, 0x02, 0x60, 0x64, 0x7C, 0x81]
/-- What an agent holds for itself. -/
def Block.agent (b : Block) : Agent → AgentSt
  | .host => b.host
  | .side => b.side
/-- Changes what an agent holds. -/
def modAgent (ag : Agent) (f : AgentSt → AgentSt) (b : Block) : Block := match ag with
  | .host => { b with host := f b.host }
  | .side => { b with side := f b.side }
/-- The value a read returns to its agent. -/
def answer (ag : Agent) (v : Word) (b : Block) : Block := modAgent ag (fun s => { s with compl := v }) b

/-- Gates a command of a block: refused with code 0x08 while its page is in block reset (R507). -/
def gate (p : Nat) (f : Block → Block) (b : Block) : Block := if b.inReset p then err p 0x08 b else f b
/-- PG_SBW lets the side-band write a page offset (R53). -/
def sbwAllows (p o : Nat) : Bool := (pageSbw p).testBit (o / 0x80)
/-- An agent reaches a page: it is awake, and the page is powered (R62, R75). -/
def Block.reach (b : Block) (ag : Agent) (p : Nat) : Bool := b.agentUp ag && (b.dev.st != .keep || keepPages.contains p)
/-- A member that is standby: in step, converging or detached (R474). -/
def Block.isStandby (b : Block) : Bool :=
  b.pair.role == .standby || b.pair.role == .converging || b.pair.role == .detached
/-- Pages whose settings each member keeps for itself (R473). -/
def memberPages : List Nat := [0x01, 0x09, 0x21, 0x30, 0x81]
/-- A standby refuses a write to a setting the members share: at a page offset, or with offset 0 in the page's tables.
A mode request has codes of its own (R31), and a lock can always be closed (R51). -/
def Block.sharedHeld (b : Block) (p o : Nat) : Bool :=
  b.isStandby && !(p = 0x00 && o = 0x040) && (if o = 0 then !memberPages.contains p else sharedMask (pg p o) != 0)
/-- A write to a field of the page header, which a block reset leaves open: the side-band needs PG_SBW. -/
def hdrGate (ag : Agent) (p o : Nat) (f : Block → Block) (b : Block) : Block :=
  if !b.reach ag p then b
  else if ag == .side && !sbwAllows p o then err p 0x02 b
  else f b
/-- A write that is a command at a register (WO or RW): the side-band needs PG_SBW, and the block is not in reset. -/
def cmdGate (ag : Agent) (p o : Nat) (f : Block → Block) (b : Block) : Block :=
  hdrGate ag p o (fun b => if b.inReset p then err p 0x08 b else f b) b
/-- The same where the owner lock and the sharing of settings count as well (RWL, tables). -/
def cmdGateL (ag : Agent) (p o : Nat) (f : Block → Block) (b : Block) : Block :=
  cmdGate ag p o (fun b => if b.locked p || b.sharedHeld p o then err p 0x01 b else f b) b

/-- Carries out an agent's access where it can reach the registers. -/
def byAgent (ag : Agent) (f : Block → Block) (b : Block) : Block := if b.agentUp ag then f b else b

end Sys2Proof.Machine
end

