-- ==== Sys2Proof/Machine/Live.lean ====
section
/-! DEFINITION. Registers whose value follows from the state at the moment of the read: the value an agent would
see without any side effect of the read. -/

namespace Sys2Proof.Machine
open Sys2Proof

/-- EVR_TAIL (R541). -/
def Evr.tail (e : Evr) : Word := if e.full then e.head - 65536 else 0
/-- SQ_STS (R204). -/
def sqSts (b : Block) (q : Nat) : Nat :=
  let s := b.silo q
  b01 s.q.isEmpty * 2 ^ 31 + b01 (b.siloOn q && s.items == b.siloDepth q - 1) * 2 ^ 30 + b01 s.marker * 2 ^ 29
    + b01 s.newestMarker * 2 ^ 28 + s.q.length % 2 ^ 15
/-- Pool entries allocated to enabled silos (R186, R204). -/
def poolUsed (b : Block) : Nat := sumN ((List.range 64).map fun q => if b.siloOn q then b.siloDepth q else 0)

/-- The time since the latest reading: by grid time, and by always-on time while XO_IN is lost (R127). -/
def Block.sinceRead (b : Block) : Gt := b.now - b.time.eFrom + (if b.time.xo then 0 else b.mono - b.time.xoAt)
/-- E times 10^10, in 2^-16 ns: its value at the latest reading plus its growth at HOLD_FERR, in 0.1 ppb (R127). After a
TIME_SET, until a source is selected, E is what TIME_ERR_EST then reads (R125). -/
def Block.eScaled (b : Block) : Nat :=
  if b.time.setByHost then 0xFFFFFFFF * (65536 * 10 ^ 10)
  else b.time.eAt * 10 ^ 10 + b.sinceRead * b.f (pg 0x02 0x048) 15 0
/-- TIME_ERR_EST: E in ns, a part of a ns counted as one (R127, R125). -/
def Block.errEst (b : Block) : Nat := satU 32 (ceilDiv b.eScaled (65536 * 10 ^ 10))
/-- Whether E exceeds a bound in ps, judged on its exact value. -/
def Block.eOverPs (b : Block) (ps : Nat) : Bool := decide (ps * (65536 * 10 ^ 7) < b.eScaled)
/-- Whether E exceeds a bound in ns, judged on its exact value. -/
def Block.eOver (b : Block) (ns : Nat) : Bool := b.eOverPs (ns * 1000)
/-- The TQ code in force (R141). -/
def Block.tq (b : Block) : Nat :=
  if !b.time.valid then 0xF
  else if b.time.setByHost then 0xB
  else if b.time.locked && !b.eOver (b.n (pg 0x02 0x050)) then 0
  else if !b.eOver 1 then 1 else if !b.eOver 10 then 2 else if !b.eOver 100 then 3 else if !b.eOver 1000 then 4
  else if !b.eOver 10000 then 5 else if !b.eOver 100000 then 6 else if !b.eOver 1000000 then 7
  else if !b.eOver 10000000 then 8 else if !b.eOver 100000000 then 9 else if !b.eOver 1000000000 then 0xA
  else if !b.eOver 10000000000 then 0xB else 0xF
/-- The TQ code in force at a time (R142). -/
def tqAt (b : Block) (T : Gt) : Nat := match b.chain.tqLog.find? fun e => e.1 ≤ T with
  | some e => e.2
  | none => b.tq
/-- The sync-lost bit (R142). -/
def Block.syncLost (b : Block) : Bool := b.tq == 0xF || decide (b.f (pg 0x02 0x040) 7 4 ≤ b.tq)
/-- The code of a source's state (R146). -/
def SrcSt.code : SrcSt → Nat
  | .absent => 0 | .qualifying => 1 | .qualified => 2 | .disqualified => 3
/-- TIME_STS (R146). -/
def timeSts (b : Block) : Nat :=
  b01 b.time.valid * 2 ^ 31 + b01 b.time.locked * 2 ^ 30 + b01 b.time.holdover * 2 ^ 29 + b01 b.time.slewEnd.isSome * 2 ^ 28
    + b.tq * 2 ^ 24 + b.time.selected.val * 2 ^ 20 + b01 b.syncLost * 2 ^ 19 + b01 b.time.refOk * 2 ^ 18
    + b.time.srcs[2].st.code * 16 + b.time.srcs[1].st.code * 4 + b.time.srcs[0].st.code

/-- The selected source. -/
def Block.srcNow (b : Block) : Option Src := if b.time.selected = 0 then none else b.time.srcs[b.time.selected.val - 1]?
/-- The leap flags of the first origin that provides them (R138): leap59, leap61. -/
def leapFlags (b : Block) : Bool × Bool :=
  let ctl := b.r (pg 0x02 0x088)
  if bitAt ctl 31 then (bitAt ctl 17, bitAt ctl 16)
  else (b.srcNow.bind (·.leap)).getD (b.time.keptLeap59, b.time.keptLeap61)
/-- The UTC origin and values in force (R138): origin 0 host, 1 selected source, 2 kept; Δ; leap59; leap61. Flags that an
origin reports both are none (R139). -/
def utcNow (b : Block) : Option (Nat × Int × Bool × Bool) :=
  let ctl := b.r (pg 0x02 0x088)
  let (l9, l1) := leapFlags b
  let d : Option (Nat × Int) :=
    if bitAt ctl 31 then some (0, sgn 16 (fld ctl 15 0) + b.time.leapAdd)
    else match b.srcNow.bind fun s => s.utc.map (· + s.leapFix) with
      | some d => some (1, d)
      | none => b.time.keptUtc.map fun d => (2, d)
  d.map fun (o, d) => (o, d, l9 && !l1, l1 && !l9)
/-- Δ in force. -/
def Block.delta (b : Block) : Option Int := (utcNow b).map fun x => x.2.1
/-- A leap is pending and its direction: true for leap59. None while the day's leap has been applied. -/
def leapPending (b : Block) : Option Bool :=
  match utcNow b with
  | some (_, d, l9, l1) =>
    let day := (((secOf b.now : Int) - d) / 86400).toNat
    if b.time.leapDone == some day then none else if l9 then some true else if l1 then some false else none
  | none => none
/-- leap-occurred: 86,400 s from the first second after a leap (R140). -/
def leapOccurred (b : Block) : Bool := match b.time.leapAt with
  | some (t, _) => decide (t ≤ secOf b.now ∧ secOf b.now < t + 86400)
  | none => false
/-- UTC_STS (R146). -/
def utcSts (b : Block) : Nat := match utcNow b with
  | some (o, d, _, _) =>
    2 ^ 31 + o * 2 ^ 28 + b01 (leapOccurred b) * 2 ^ 21 + b01 (leapPending b == some true) * 2 ^ 17
      + b01 (leapPending b == some false) * 2 ^ 16 + pat 16 d
  | none => 0

/-- DEV_STATE (R519). -/
def PowerSt.code : PowerSt → Nat
  | .run => 0 | .idle => 1 | .keep => 2 | .starting => 3 | .off => 3
/-- STRAP_STS (R79): LATCHED stands in the register; LIVE and MISMATCH follow the balls. -/
def strapSts (b : Block) : Nat :=
  let l := b.f (pg 0x00 0x050) 3 0
  let v := b.dev.strapBalls.toNat
  b01 (l != v) * 2 ^ 16 + v * 2 ^ 8 + l

/-- PORT_STS (R181). -/
def portSts (b : Block) (p : Nat) : Nat :=
  let s := (b.ports[p]?).getD {}
  let c := b.r (pg (4 + p) 0x040)
  let en := b.enabled (4 + p)
  b01 s.pausedFrom.isSome * 128 + b01 s.remoteFault * 64 + b01 s.localFault * 32 + b01 s.hiBer * 16 + b01 s.blockLock * 8
    + b01 (en && bitAt c 2) * 4 + b01 (en && bitAt c 0) * 2 + b01 s.link
/-- Bytes in a port's ingress buffer, the frame that waits for the Gleaner among them (R152, R169). -/
def PortSt.fill (s : PortSt) : Nat :=
  sumN (s.rx.map fun f => f.bytes.length) + match s.atGlean with
    | some f => f.bytes.length
    | none => 0

/-- The two-bit levels and fields of a key slot's descriptor: STATE and DEPTH stand beside KS_SET's layout (R579). -/
def Keys.slot (k : Keys) (i : Nat) : KeySlot := mget {} k.slots i
/-- PARENT of a descriptor. -/
def descParent (d : Word) : Nat := fld d 8 0
/-- Depth of a slot: 0 under the root, one more than its parent's otherwise. -/
def keyDepth (k : Keys) : Nat → Nat → Nat
  | 0, _ => 4
  | f + 1, s =>
    let p := descParent (k.slot s).desc
    if p = 0x100 then 0 else 1 + keyDepth k f p
/-- The chain of a slot holds up to the root (R563). -/
def keyChain (k : Keys) : Nat → Nat → Bool
  | 0, _ => false
  | f + 1, s =>
    let t := k.slot s
    let p := descParent t.desc
    t.st == 1 && k.rootOk && (p == 0x100 || (t.pgen == (k.slot p).gen && keyChain k f p))
/-- KS_DESC of a slot. -/
def keyDesc (k : Keys) (s : Nat) : Nat :=
  let t := k.slot s
  if s = 0 then (b01 k.rootOk * 2 ^ 28 + 6 * 2 ^ 24 + 3 * 2 ^ 16 + 0x100) else
  if t.st = 0 then 0 else
  let st := if t.st = 2 then 2 else if keyChain k 5 s then 1 else 3
  st * 2 ^ 28 + fld t.desc 27 0 + keyDepth k 5 s * 2 ^ 12

/-- PTP registers (R146). -/
def PtpState.code : PtpState → Nat
  | .disabled => 3 | .listening => 4 | .master => 6 | .passive => 7 | .slave => 9
/-- The word of a byte list at a register's place. -/
def wordAt (l : List Byte) (o : Nat) : Nat := leAt l o 4

/-- The sample pulses run: not in Keep, nor before the settings have restored (R145). -/
def Block.spgOn (b : Block) : Bool := b.time.spgRun && b.dev.st != .keep && b.dev.st != .off

/-- What a register shows where it follows from the state and not from its stored word. -/
def liveWord (ag : Agent) (b : Block) (p o : Nat) : Option Nat :=
  let k := b.keys
  let g := b.agent ag
  if 0x04 ≤ p && p ≤ 0x07 then
    match o with
    | 0x044 => some (portSts b (p - 4))
    | 0x078 => some (b.n (pg p 0x078) / 2 ^ 16 * 2 ^ 16 + ceilDiv ((b.ports[p - 4]?).getD {}).fill 1024 % 2 ^ 9)
    | _ => none
  else if 0x10 ≤ p && p ≤ 0x13 then
    if o = 0x040 then some (poolUsed b)
    else if 0x100 ≤ o && o < 0x300 && o % 0x20 = 0x04 then some (sqSts b ((p - 0x10) * 16 + (o - 0x100) / 0x20))
    else if 0x100 ≤ o && o < 0x300 && o % 0x20 = 0x14 then some (satU 32 (b.silo ((p - 0x10) * 16 + (o - 0x100) / 0x20)).defer)
    else if 0x400 ≤ o && o < 0x800 then
      some (wordAt (mget [] g.popped ((p - 0x10) * 16 + (o - 0x400) / 0x40)) (o % 0x40))
    else none
  else match p, o with
  | 0x00, 0x050 => some (strapSts b)
  | 0x00, 0x080 => some (b.dev.prev.code * 16 + b.dev.st.code)
  | 0x02, 0x054 => some (timeSts b)
  | 0x02, 0x058 => some b.errEst
  | 0x02, 0x060 => some (secOf b.now)
  | 0x02, 0x064 => some (secOf b.now / 2 ^ 32)
  | 0x02, 0x068 => some (nsOf b.now)
  | 0x02, 0x06C => some (fracOf b.now)
  | 0x02, 0x070 => some (pat 40 b.time.freqAdj)
  | 0x02, 0x074 => some (pat 40 b.time.freqAdj / 2 ^ 32)
  | 0x02, 0x08C => some (utcSts b)
  | 0x02, 0x0F0 => some (b01 b.time.syncErr * 2 + b01 b.spgOn)
  | 0x08, 0x04C => some (b01 (b.t (pg 8 0x040) 1) * 8 + b01 (b.t (pg 8 0x040) 0) * 4 + b01 b.prp.alive[1] * 2 + b01 b.prp.alive[0])
  | 0x08, 0x050 => some (b.prp.peak * 2 ^ 16 + b.prp.table.length)
  | 0x08, 0x054 => some b.prp.txSeq
  | 0x64, 0x044 => some (b01 (b.supply.brace && !b.evr.queue.isEmpty) * 2 ^ 31 + b01 b.evr.ready * 2 ^ 30 + b.evr.queue.length)
  | 0x64, 0x048 => some b.evr.head.toNat
  | 0x64, 0x04C => some b.evr.tail.toNat
  | 0x64, 0x050 => some b.evr.opSec
  | 0x64, 0x054 => some (b.evr.opSec / 2 ^ 32 % 256)
  | 0x64, 0x058 => some b.evr.pcyc
  | 0x64, 0x080 => some g.evrCur.toNat
  | 0x64, 0x088 => some g.evrWinSts
  | 0x68, 0x044 => some (keyDesc k (b.n (pg 0x68 0x040)))
  | 0x68, 0x048 => some (k.slot (b.n (pg 0x68 0x040))).gen
  | 0x68, 0x04C => some (k.slot (b.n (pg 0x68 0x040))).pgen
  | 0x68, 0x050 => some (k.slot (b.n (pg 0x68 0x040))).keyid.toNat
  | 0x68, 0x05C => some (b01 k.write.isSome * 2 ^ 31 + b01 k.deferred * 2 ^ 30 + k.ksResult)
  | 0x68, 0x064 => some (b01 k.session.isSome * 2 ^ 31 + b01 (k.anchor != zeros 48) * 2 ^ 30 + k.fails % 256 * 2 ^ 16
      + (match k.session with | some e => ceilDiv (e - b.mono) gtSec | none => 0))
  | 0x68, 0x070 => some (b01 k.rootOk * 2 ^ 31 + b01 k.lockedOut * 2 ^ 30 + k.reads * 2 ^ 24 + k.ber)
  | 0x68, 0x074 => some (Config.deviceId.toNat)
  | 0x68, 0x078 => some (Config.deviceId.toNat / 2 ^ 32)
  | 0x68, 0x124 => some (putBit g.attSts 31 (k.signing.any fun e => e.1 == (ag == .host))).toNat
  | 0x7C, 0x04C => some k.live.toNat
  | 0x7C, 0x050 => some (b01 k.latched * 2 ^ 31 + b01 k.class2 * 2 ^ 30 + b01 k.erasePend * 2 ^ 29 + k.cause.toNat)
  | 0x7C, 0x054 => some (secOf k.tampAt)
  | 0x7C, 0x058 => some (secOf k.tampAt / 2 ^ 32)
  | 0x7C, 0x05C => some (nsOf k.tampAt)
  | 0x7C, 0x060 => some k.tampCount
  | 0x80, 0x04C => some 0
  | _, _ =>
    if p = 0x64 && 0x100 ≤ o && o < 0x180 then some (nth g.evrWin ((o - 0x100) / 4) 0).toNat
    else if p = 0x68 && 0x0C0 ≤ o && o < 0x0E0 then some (wordAt k.chalWords (o - 0x0C0))
    else if p = 0x68 && 0x100 ≤ o && o < 0x120 then some (mget 0 g.attNonce ((o - 0x100) / 4)).toNat
    else if p = 0x68 && 0x400 ≤ o && o < 0x6D8 then some (wordAt g.attStmt (o - 0x400))
    else if p = 0x68 && 0x380 ≤ o && o < 0x3E4 then
      some (if k.rootOk then wordAt (Config.publicPoint (mget {} k.slots 0).key) (o - 0x380) else 0)
    else none

/-- A page is powered: every page but in Keep, where only some answer. -/
def Block.powered (b : Block) (p : Nat) : Bool := b.dev.st != .keep || keepPages.contains p

end Sys2Proof.Machine
end

