-- ==== Sys2Proof/Machine/PairOut.lean ====
section
/-! DEFINITION. Frames that leave on the pair link (R482–R484), and events that reach the Thresher (R418, R429). -/

namespace Sys2Proof.Machine
open Sys2Proof

/-- A pair member: the latched STRAP_PAIR is 1 and PAIR_CTL.EN is 1 (R471). -/
def Block.member (b : Block) : Bool := b.t (pg 0x00 0x050) 0 && b.t (pg 0x60 0x040) 0
/-- Changes the pair's state. -/
def modPair (f : PairSt → PairSt) (b : Block) : Block := { b with pair := f b.pair }
/-- Payload bytes of a pair-link frame (R484). -/
def plPayload : PlMsg → Nat
  | .hello _ => 92
  | .heartbeat _ => 14
  | .nak _ => 4
  | .ack => 0
  | .mirror rec => rec.length
  | .wpath _ _ _ _ => 32
  | .wmark _ => 16
  | .commit _ _ ws => 21 + 4 * ws.length
  | .mode _ _ => 17
  | .replay _ _ _ => 6
  | .settings _ l => 4 + l.length
  | .baleDig _ _ _ _ => 14
  | .commitDig _ _ _ _ _ _ => 32
  | .arb _ _ _ _ => 14
  | .release _ _ => 20
  | .trigger _ _ => 17
  | .hostmsg _ => 64
  | .clsMirror _ l => 1 + l.length
  | .health l => l.length
  | .update _ l => 1 + l.length
/-- LEN of a pair-link frame (R483). -/
def plLen (m : PlMsg) : Nat := 20 + plPayload m
/-- Bytes in the retransmit buffer. -/
def rtxFill (b : Block) : Nat := sumN (b.pair.rtx.map fun e => plLen e.2.2)
/-- A frame goes onto the pair link. -/
def plEmit (seq : Nat) (again : Bool) (m : PlMsg) (b : Block) : Block :=
  b |> emit (.pairLink seq b.pair.rxSeq again m) |> cnt (pg 0x09 0x200) |> cntBy (pg 0x09 0x210) (plLen m)
/-- A sequenced type (R484). -/
def plSequenced : PlMsg → Bool
  | .heartbeat _ => false
  | .nak _ => false
  | .ack => false
  | _ => true
/-! Pair events, roles, digests (R474, R479–R481, R495). -/

/-- A PAIR_MSG entry (R495). -/
def pairMsg (b : Block) (kind code a1 a2 : Nat) : List Byte :=
  entry ([0x08, 0, BitVec.ofNat 8 kind, 0] ++ shortForm b.now ++ leBytes 2 code ++ leBytes 4 a1 ++ leBytes 4 a2)
/-- A pair event: its record, and its entry in silo 57 for divergence, else in silo 56 (R495, R502). -/
def pairEvr (code a1 a2 : Nat) (b : Block) : Block :=
  let div := decide (0x808 ≤ code ∧ code ≤ 0x80A)
  b |> evr code a1 a2 |> siloPut (if div then 57 else 56) (pairMsg b (if div then 2 else 1) code a1 a2)
/-- The member's state changes (R474). -/
def setRole (r : PairRole) (b : Block) : Block :=
  if b.pair.role = r then b else b |> modPair (fun p => { p with role := r }) |> irq 0x60 0
/-- Digests and arbitration are discarded (R496). -/
def dropDigests (b : Block) : Block :=
  modPair (fun p => { p with ownBale := [], theirBale := [], ownCommit := [], theirCommit := [], arbs := [], matches_ := 0 }) b
/-- A linked standby detaches (R502): what it was to take from the mirror is left. -/
def pairDetach (cause : Nat) (b : Block) : Block :=
  if b.pair.role != .standby && b.pair.role != .converging then b else
  b |> setRole .detached |> dropDigests |> modPair (fun p => { p with inq := [], wq := [], rejoinAt := none, lagOverAt := none })
    |> pairEvr 0x80B cause 0
/-! Frames sent (R475, R482). -/

/-- The pair link starts anew: sequences from 1, nothing left to send again, HELLO to come at its
10 ms (R471, R482, R496). -/
def plRestart (b : Block) : Block :=
  modPair (fun p => { p with
    txSeq := 0, rxSeq := 0, rtx := [], nakSent := none, formed := false, helloSent := false,
    mirroring := false }) b
/-- A frame that could not be delivered ends mirroring, and a linked standby detaches (R482). -/
def plLost (b : Block) : Block := b |> plRestart |> pairDetach 1
/-- A frame may leave: the part is a member and runs; before the pair is formed only HELLO and unsequenced frames do. -/
def plMay (b : Block) (m : PlMsg) : Bool :=
  b.member && b.up && !b.inReset 0x09 && (b.pair.formed || !plSequenced m || (match m with
    | .hello _ => true
    | _ => false))
/-- Sends a frame over the pair link; a full retransmit buffer ends mirroring (R482). -/
def plSend (m : PlMsg) (b : Block) : Block :=
  if !plMay b m then b
  else if !plSequenced m then plEmit 0 false m b
  else if 4194304 < rtxFill b + plLen m then b |> cnt (pg 0x09 0x240) |> plLost
  else
    let seq := (b.pair.txSeq + 1) % 2 ^ 32
    let isMirror := match m with
      | .mirror _ => true
      | _ => false
    let c := modPair (fun p => { p with
      txSeq := seq, rtx := p.rtx ++ [(seq, b.mono, m)], lastMirror := if isMirror then seq else p.lastMirror }) b
    let k := ceilDiv (rtxFill c) 1024
    c |> (fun c => if c.f (pg 0x09 0x054) 31 16 < k then wf (pg 0x09 0x054) 31 16 k c else c) |> plEmit seq false m
/-- This member acts for the pair or stands alone: it is no linked standby (R475, R476). -/
def Block.leads (b : Block) : Bool := b.pair.role != .standby && b.pair.role != .converging
/-- The active member mirrors, and goes on after a release until its partner acts (R475, R487). -/
def Block.mirrors (b : Block) : Bool := b.member && (b.pair.role == .active || b.pair.acting) && b.pair.mirroring

/-- Enabled tasks, ascending (R417). -/
def tasksOn (b : Block) : List Nat :=
  b.regs.filterMap fun e =>
    if 0x700000 ≤ e.1 && e.1 < 0x710000 && e.1 % 64 = 0 && bitAt e.2 15 then some ((e.1 - 0x700000) / 64) else none
/-- First address of a task's entry. -/
def taskAt (t : Nat) : Nat := 0x700000 + 64 * t
/-- Enabled ordered tasks. -/
def orderedOn (b : Block) : List Nat := (tasksOn b).filter fun t => b.t (taskAt t) 13
/-- The standby is in step again (R481). -/
def pairConverged (b : Block) : Block := b |> setRole .standby |> modPair (fun p => { p with matches_ := 0 }) |> pairEvr 0x80C 1 0
/-- A bale digest matched: it ends the converging where no ordered task is enabled (R481). -/
def baleMatched (b : Block) : Block := onlyIf (b.pair.role == .converging && (orderedOn b).isEmpty) pairConverged b
/-- A commit digest was compared (R479, R481). -/
def commitCompared (same : Bool) (task seq : Nat) (b : Block) : Block :=
  let c := cnt (pg 0x60 0x210) b
  if same then
    if c.pair.role != .converging then c
    else if c.f (pg 0x60 0x044) 7 0 ≤ c.pair.matches_ + 1 then pairConverged c
    else modPair (fun p => { p with matches_ := p.matches_ + 1 }) c
  else
    let d := c |> cnt (pg 0x60 0x218) |> irq 0x60 3 |> modPair (fun p => { p with matches_ := 0 })
    if d.pair.role == .standby then d |> setRole .converging |> pairEvr 0x80A task seq else d
/-- The standby's own commit digest: compared with the active member's once both exist. -/
def ownCommitDig (task seq t dig : Nat) (b : Block) : Block :=
  match b.pair.theirCommit.find? fun e => e.1 == task && e.2.1 == seq && e.2.2.1 == t with
  | some e => b |> modPair (fun p => { p with theirCommit := p.theirCommit.filter fun x => x != e }) |> commitCompared (e.2.2.2 == dig) task seq
  | none => modPair (fun p => { p with ownCommit := lastN 4096 (p.ownCommit ++ [(task, seq, t, dig)]) }) b
/-- 4,096 digests of the active member wait for this member's own (R479). -/
def Block.digestsFull (b : Block) : Bool := decide (4096 ≤ b.pair.theirBale.length + b.pair.theirCommit.length)
/-- The active member's commit digest reaches the standby. -/
def theirCommitDig (task seq t dig : Nat) (b : Block) : Block :=
  match b.pair.ownCommit.find? fun e => e.1 == task && e.2.1 == seq && e.2.2.1 == t with
  | some e => b |> modPair (fun p => { p with ownCommit := p.ownCommit.filter fun x => x != e }) |> commitCompared (e.2.2.2 == dig) task seq
  | none =>
    if b.digestsFull then pairDetach 2 b
    else modPair (fun p => { p with theirCommit := p.theirCommit ++ [(task, seq, t, dig)] }) b

/-! Events for the Thresher. -/

/-- Changes the Thresher. -/
def modThr (f : ThrSt → ThrSt) (b : Block) : Block := { b with thr := f b.thr }
/-- Counts an overrun notice: a bale rate's in NOTICE_OVR with record 0x311 (R254), another source's in THR_OVR (R429). -/
def noticeOverrun (e : ThrEvent) (b : Block) : Block :=
  if 1 ≤ e.src && e.src ≤ 4 then
    b |> cnt (pg 0x19 (0x400 + 64 * (e.src - 1) + 56)) |> irq 0x19 2 |> evr 0x311 (e.src - 1) (e.bale % 2 ^ 32)
  else b |> cnt (pg 0x38 0x238) |> irq 0x38 0
/-- Marks the first notice that p picks as overrun and counts it, unless it is marked already. -/
def markOverrun (p : ThrEvent → Bool) (b : Block) : Block :=
  match b.thr.held.find? p with
  | some e =>
    if e.ovr then b
    else
      b |> modThr (fun t => { t with held := t.held.map fun x => if x = e then { x with ovr := true } else x })
        |> noticeOverrun e
  | none => b
/-- A source raises an event (R418); it stands in line until the Thresher takes it. -/
def thrRaise (src : Nat) (t : Gt) (bale : Nat) (b : Block) : Block :=
  modThr (fun h => { h with raised := h.raised ++ [{ src := src, t := t, bale := bale }] }) b

/-- Every timer waits for its next instant from now on: at a start and at a time step (R437). -/
def timersArm (b : Block) : Block := modThr (fun h => { h with timers := (List.range 32).map fun i => (i, b.now) }) b

end Sys2Proof.Machine
end

