-- ==== Sys2Proof/Machine/Settings.lean ====
section
/-! DEFINITION. Settings: what they are, their commit to the MRAM slots, their restore, and the image of those that the
members of a pair share (R473, R512–R516). -/

namespace Sys2Proof.Machine
open Sys2Proof

/-- The image slot whose code runs. -/
def Block.image (b : Block) : ImgSlot := (b.upd.slots[b.upd.running.val]?).getD {}
/-- The version of a part of an image, by kind (R585); the image of the factory has its own. -/
def ImgSlot.version (s : ImgSlot) (k : Nat) : Nat := match s.parts.find? fun e => e.1 = k with
  | some e => e.2.version
  | none => Config.factoryVersion k
/-- The versions of kinds 1–8 as HELLO and UPD_STATE carry them (R471, R595). -/
def imageVersions (b : Block) : List Byte := (List.range 8).flatMap fun k => leBytes 4 (b.image.version (k + 1))
/-- The working settings: every setting that differs from its factory value. The low bit of PG_CTL is its setting. -/
def settingWords (b : Block) : WMap :=
  b.regs.filterMap fun e =>
    if !isSetting e.1 then none
    else if e.1 < 0x100000 && e.1 % 0x1000 = 0x008 then (if bitAt e.2 0 then some (e.1, 1#32) else none)
    else some e
/-- Settings replaced: those given, every other one at its factory value. -/
def setSettings (ws : WMap) (b : Block) : Block :=
  let keep := b.regs.filter fun e => !isSetting e.1
  { b with regs := ws.foldl (fun m e => if isSetting e.1 then mput (regDefault e.1) m e.1 e.2 else m) keep }

/-- UPD_STATE as this member sends it: its phase, GRANT, SAME_RESULTS, the package's SEQ, its versions (R595). -/
def updState (grant : Bool) (b : Block) : Block :=
  let other := (b.upd.slots[1 - b.upd.running.val]?).getD {}
  let seq := if b.upd.phase = 7 then b.image.seq else other.seq
  plSend (.update b.upd.phase ([BitVec.ofNat 8 (b01 grant * 2 + b01 b.upd.same)] ++ leBytes 4 seq ++ imageVersions b)) b

/-! The commit (R512, R513). -/

/-- SET_STS. -/
def setSts : Nat := pg 0x00 0x104
/-- The active settings slot. -/
def Block.slot (b : Block) : SetSlot := b.settings.slots[b.settings.active]
/-- Changes the settings machinery. -/
def modSet (f : Settings → Settings) (b : Block) : Block := { b with settings := f b.settings }
/-- The snapshot of every working setting in one step. -/
def settingsSnap (b : Block) : SetSlot :=
  { written := true, good := true, gen := b.slot.gen + 1, schema := b.image.version 8, words := settingWords b }
/-- A commit starts: the image is being written over that of the inactive slot, whose CRC is good no more. -/
def commitBegin (b : Block) : Block :=
  b |> modSet (fun s => { s with
      writing := some (settingsSnap b), deferred := false,
      slots := s.slots.set (1 - s.active) { s.slots[1 - s.active] with good := false } }) |> wbit setSts 31 true |> wbit setSts 30 false
/-- A commit is requested (R512, R513): on the active member of a pair the standby's too (R515). -/
def settingsCommit (b : Block) : Block :=
  let refuse := fun (c : Nat) (b : Block) => b |> err 0x00 c |> wf setSts 7 0 c
  if b.dev.st == .keep then refuse 0x29 b
  else if b.settings.writing.isSome || b.settings.deferred then refuse 0x27 b
  else if b.upd.slotHeld then refuse 0x28 b
  else
    let c := if b.supply.brace then
        { b with supply := { b.supply with waits := b.supply.waits ++ [.settings] } }
          |> modSet (fun s => { s with deferred := true }) |> wbit setSts 30 true
      else commitBegin b
    onlyIf b.mirrors (plSend (.commit (pg 0x00 0x100) b.now [0x43540001])) c
/-- SET_CMD is written. -/
def setCmd (v : Word) (b : Block) : Block :=
  if fld v 31 16 != 0x4354 then b |> err 0x00 0x25 |> wf setSts 7 0 0x25
  else if bitAt v 0 then settingsCommit b else b
/-- The commit record is written: the slot is active. DESIGN CHOICE (log 227): MRAM_WRITES counts one. -/
def commitDone (b : Block) : Block :=
  match b.settings.writing with
  | none => b
  | some w =>
    let a : Fin 2 := 1 - b.settings.active
    b |> modSet (fun s => { s with slots := s.slots.set a w, active := a, writing := none, deferred := false })
      |> wn setSts (b.n setSts % 2 ^ 30 / 2 ^ 9 * 2 ^ 9 + a.val * 2 ^ 8) |> wn (pg 0x00 0x108) w.gen |> cnt (pg 0x78 0x110) |> evr 0x003 w.gen a.val

/-- What of a commit waited for brace to end goes on: its commit record, or the whole of it (R98, R513). -/
def settingsResume (b : Block) : Block :=
  onlyIf (b.settings.deferred && !b.supply.brace) (if b.settings.writing.isSome then commitDone else commitBegin) b
/-- The image stands. The commit record follows at once, or, being a new MRAM write, when brace ends (R98, R512). -/
def imageDone (b : Block) : Block :=
  if b.settings.writing.isNone || b.settings.deferred then b
  else if b.supply.brace then
    { b with supply := { b.supply with waits := b.supply.waits ++ [.settings] } }
      |> modSet (fun s => { s with deferred := true }) |> wbit setSts 30 true
  else commitDone b

/-! The restore (R514, R586, R587). -/

/-- The slot has a commit record, its CRC is good and its schema is that of the image. -/
def setSlotGood (b : Block) (bad : BitVec 2) (i : Fin 2) : Bool :=
  let s := b.settings.slots[i]
  s.written && s.good && !bad.getLsbD i.val && s.schema == b.image.version 8
/-- The slot to restore, and whether it is the older one. -/
def restorePick (b : Block) (bad : BitVec 2) : Option (Fin 2 × Bool) :=
  let s := b.settings.slots
  let first : Fin 2 := if s[0].written && (!s[1].written || s[1].gen ≤ s[0].gen) then 0 else 1
  let second : Fin 2 := 1 - first
  if setSlotGood b bad first then some (first, false)
  else if setSlotGood b bad second then some (second, s[first].written)
  else none
/-- The settings come back from their slot, or the factory settings are used (R514). -/
def settingsRestore (bad : BitVec 2) (b : Block) : Block :=
  match restorePick b bad with
  | some (i, old) =>
    let s := b.settings.slots[i]
    b |> setSettings s.words |> modSet (fun t => { t with active := i, writing := none, deferred := false })
      |> wn setSts (b01 old * 2 ^ 28 + i.val * 2 ^ 8) |> wn (pg 0x00 0x108) s.gen |> onlyIf old (evr 0x004 s.gen 0)
  | none =>
    b |> setSettings [] |> modSet (fun t => { t with writing := none, deferred := false }) |> wn setSts (2 ^ 29) |> evr 0x005 0 0

/-! What the members share (R473). -/

/-- The shared settings that differ from their factory values, in ascending address. -/
def sharedWords (b : Block) : WMap :=
  (settingWords b).filterMap fun e =>
    let m := w32 (sharedMask e.1)
    if e.2 &&& m = regDefault e.1 &&& m then none else some (e.1, e.2 &&& m)
/-- Their image: pairs of address and word, little-endian (PRESUMED 135). -/
def sharedImage (b : Block) : List Byte := (sharedWords b).flatMap fun e => leBytes 4 e.1 ++ leBytes 4 e.2.toNat
/-- Their digest, as HELLO carries it (R471). -/
def sharedDigest (b : Block) : List Byte := Config.sha384 (sharedImage b)
/-- Words of a shared image. -/
def wordsOfImage : Nat → List Byte → List (Nat × Word)
  | 0, _ => []
  | n + 1, l => if l.length < 8 then [] else (leAt l 0 4, w32 (leAt l 4 4)) :: wordsOfImage n (l.drop 8)

end Sys2Proof.Machine
end

