-- ==== Sys2Proof/Machine/Health.lean ====
section
/-! DEFINITION. Self-test of memories, repair map, lanes, ageing and health (R521–R534). -/

namespace Sys2Proof.Machine
open Sys2Proof

/-- Causes at fault level (R532). -/
def faultCauses : BitVec 32 := 0x0003083D#32
/-- Causes that stand now (R532). -/
def Bist.standing (s : Bist) : BitVec 32 :=
  s.conds ||| (if s.ueEnd.isSome then 0x200#32 else 0) ||| (if s.hsEnd.isSome then 0x1000#32 else 0)
/-- The level of standing causes: 0 good, 1 degraded, 2 fault. -/
def levelOf (c : BitVec 32) : Nat := if c &&& faultCauses != 0 then 2 else if c != 0 then 1 else 0
/-- Health follows its causes: the registers, and at a change of level the record and the alert (R532). -/
def healthRefresh (b : Block) : Block :=
  let c := b.bist.standing
  let lv := levelOf c
  let old := b.bist.level
  let b := onlyIf (c &&& faultCauses &&& ~~~b.upd.faults != 0) (updFail 0) b
  let b2 := { b with bist := { b.bist with level := lv } }
    |> wr (pg 0x70 0x044) (c &&& faultCauses) |> wr (pg 0x70 0x048) (c &&& ~~~faultCauses) |> wf (pg 0x70 0x040) 31 30 lv
  if lv = old then b2 else
  b2 |> evr 0xB09 (old * 16 + lv) (c &&& faultCauses).toNat |> irq 0x70 2 |> onlyIf (lv == 2) (sbAlert 2)
/-- A cause's condition holds or not. -/
def healthCond (i : Nat) (p : Bool) (b : Block) : Block :=
  let m := 1#32 <<< i
  healthRefresh { b with bist := { b.bist with conds := if p then b.bist.conds ||| m else b.bist.conds &&& ~~~m } }
/-- The cause of an uncorrectable SRAM or LPDDR5X error: 60 s from its latest occurrence. -/
def healthUe (b : Block) : Block :=
  healthRefresh { b with bist := { b.bist with ueEnd := some (b.mono + 60 * gtSec), ueTotal := b.bist.ueTotal + 1 } }
/-- The cause of a handshake trip: 60 s from its latest occurrence. -/
def healthHs (b : Block) : Block :=
  healthRefresh { b with bist := { b.bist with hsEnd := some (b.mono + 60 * gtSec), hsTotal := b.bist.hsTotal + 1 } }

/-- BIST counter i (R536). -/
def bistCnt (i : Nat) : Nat := pg 0x70 (0x200 + 8 * i)

/-- The repair-map registers follow the field map (R536, R539). -/
def rmapRegs (b : Block) : Block :=
  b |> wn (pg 0x70 0x068) (b.bist.mapCopy * 2 ^ 31 + b.bist.map.length % 4096 * 2 ^ 16 + b.bist.mapGen % 2 ^ 16)
    |> wbit (pg 0x78 0x040) 1 (b.bist.mapCopy == 1)
/-- A copy of the field map in MRAM: its header, whose CRC is taken with its own field at 0, and its entries (R525). -/
def repairCopy (s : Bist) : List Byte :=
  let head := leBytes 4 s.mapGen ++ leBytes 2 s.map.length ++ zeros 54
  let body := s.map.flatMap fun e =>
    [BitVec.ofNat 8 e.kind, BitVec.ofNat 8 e.cause] ++ leBytes 2 e.unit ++ leBytes 4 e.row ++ leBytes 2 e.spare ++ leBytes 6 e.opSec
  head ++ leBytes 4 (crc32c (head ++ zeros 4 ++ body)) ++ body
/-- An entry written into the copy that is not active, which then becomes active (R525). -/
def rmapWrite (e : RepairEntry) (b : Block) : Block :=
  { b with bist := { b.bist with map := b.bist.map ++ [e], mapGen := b.bist.mapGen + 1, mapCopy := 1 - b.bist.mapCopy } }
    |> cnt (pg 0x78 0x110) |> rmapRegs
/-- A repair is added to the field map: refused where the map is full, made late in brace (R525). -/
def rmapAdd (kind cause unit row spare : Nat) (b : Block) : Block :=
  let e : RepairEntry := ⟨kind, cause, unit, row, spare, b.evr.opSec % 2 ^ 40⟩
  if 4092 ≤ b.bist.map.length + b.bist.mapLate.length then
    b |> healthCond 15 true |> evr 0xB0A b.bist.map.length 0
  else if b.supply.brace then
    { b with
      bist := { b.bist with mapLate := b.bist.mapLate ++ [e] }
      supply := { b.supply with waits := b.supply.waits ++ [.repair] } }
  else rmapWrite e b
/-- The first repair-map write held by brace is made (R525). -/
def rmapNext (b : Block) : Block := match b.bist.mapLate with
  | e :: l => rmapWrite e { b with bist := { b.bist with mapLate := l } }
  | [] => b

/-- Spare rows an array has used. -/
def Bist.usedRows (s : Bist) (array : Nat) : Nat := mget 0 s.used array
/-- An array without a free spare row writes its record once and is degraded (R524). -/
def spareCheck (array : Nat) (b : Block) : Block :=
  if b.bist.usedRows array < Config.spareRows array || b.bist.spent.contains array then b else
  { b with bist := { b.bist with spent := b.bist.spent ++ [array] } } |> evr 0xB02 array 0 |> healthCond 8 true
/-- A row is remapped to a free spare row of its array, where there is one (R522, R524). -/
def remapRow (array row cause : Nat) (b : Block) : Block :=
  let u := b.bist.usedRows array
  (if u < Config.spareRows array then
    { b with bist := { b.bist with
        used := mput 0 b.bist.used array (u + 1), ce := b.bist.ce.filter fun e => !(e.1 == array && e.2.1 == row) } }
      |> evr 0xB00 array row |> cnt (bistCnt 2) |> irq 0x70 1 |> rmapAdd 1 cause array row u
  else b) |> spareCheck array

/-- A correctable error of a row (R521, R522). -/
def eccCorrected (array row : Nat) (b : Block) : Block :=
  let day := 86400 * gtSec
  let l := (b.bist.ce.filter fun e => b.now < e.2.2 + day) ++ [(array, row, b.now)]
  let b2 := { b with bist := { b.bist with ce := l, ceSec := b.bist.ceSec + 1 } } |> cnt (bistCnt 0)
  let n := (l.filter fun e => e.1 == array && e.2.1 == row).length
  if b.f (pg 0x70 0x058) 7 0 ≤ n then remapRow array row 1 b2 else b2
/-- An uncorrectable error (R523): counted, recorded, the row remapped, the word poisoned. -/
def eccUncorrected (array row word : Nat) (b : Block) : Block :=
  let free := decide (b.bist.usedRows array < Config.spareRows array)
  let b2 := b |> cnt (bistCnt 1) |> evr 0xB01 array row |> healthUe |> remapRow array row 2
  if free then { b2 with bist := { b2.bist with poison := b2.bist.poison ++ [(array, row, word)] } } else b2
/-- A reader meets an uncorrectable error in an array of a page (R523): which array, row and word is a free value. -/
def sramUe (page : Nat) (b : Block) : Block :=
  let v := fun (i n : Nat) => Config.freeNat (b.freeCtr + i) % n
  eccUncorrected (page * 256 + v 0 256) (v 1 (2 ^ 32)) (v 2 (2 ^ 16)) (usedFreeN 3 b)
/-- A reader meets an uncorrectable error in the LPDDR5X at an address (R532, R538). -/
def ddrUe (a : Nat) (b : Block) : Block :=
  b |> cnt (pg 0x74 0x108) |> wn (pg 0x74 0x048) a |> wn (pg 0x74 0x04C) (a / 2 ^ 32 % 4) |> healthUe

/-- What the ECC of an LPDDR5X word does (R538). -/
def ddrEcc (addr : Nat) (res : EccResult) (b : Block) : Block := match res with
  | .clean => b
  | .corrected => cnt (pg 0x74 0x100) { b with bist := { b.bist with ddrCeSec := b.bist.ddrCeSec + 1 } }
  | .uncorrectable => ddrUe addr b
/-- What the ECC of an MRAM word does (R532, R539). -/
def mramEcc (addr : Nat) (res : EccResult) (b : Block) : Block := match res with
  | .clean => b
  | .corrected => cnt (pg 0x78 0x100) { b with bist := { b.bist with mramCorr := b.bist.mramCorr + 1 } }
  | .uncorrectable => b |> cnt (pg 0x78 0x108) |> evr 0xB0B addr 0 |> healthCond 16 true
/-- R521, R535, R538, R539: a word is read and its ECC judged; in Keep only a powered array's, and none of the LPDDR5X
(DESIGN CHOICE 182). -/
def execScrubRead (place : EccPlace) (res : EccResult) (s : State) : Out :=
  s.run fun b =>
    if !b.aon then b else
    match place with
    | .sram array row word =>
      if !b.powered (array.toNat / 256) then b else
      match res with
      | .clean => b
      | .corrected => eccCorrected array.toNat row.toNat b
      | .uncorrectable => eccUncorrected array.toNat row.toNat word.toNat b
    | .ddr addr last => onlyIf b.up (fun b => b |> ddrEcc addr.toNat res |> onlyIf last (cnt (pg 0x74 0x118))) b
    | .ddrLink => onlyIf (b.up && res != .clean) (cnt (pg 0x74 0x110)) b
    | .mram addr => mramEcc addr.toNat res b

/-- Lanes of a unit in service. -/
def lanesLeft (l : BitVec 4) : Nat := sumN ([0, 1, 2, 3].map fun i => b01 (l.getLsbD i))
/-- Lanes a unit is built with (R530). -/
def lanesBuilt (u : Nat) : Nat := if u = 0 || u = 3 then 2 else 4
/-- The cause a unit's lanes set: 10 with full service, 11 with less (R530). -/
def laneCause (u left : Nat) : Option Nat :=
  if left = lanesBuilt u then none
  else if (u = 0 || u = 3) && left = 1 then some 10
  else if u = 2 && left = 3 then some 10
  else some 11
/-- Some unit stands at a cause. -/
def Bist.laneAt (s : Bist) (c : Nat) : Bool :=
  (List.range 4).any fun u => laneCause u (lanesLeft ((s.lanes[u]?).getD 0)) == some c
/-- Causes 10 and 11 follow the lanes in service (R530, R532). -/
def laneHealth (b : Block) : Block := b |> healthCond 10 (b.bist.laneAt 10) |> healthCond 11 (b.bist.laneAt 11)
/-- What a start finds of self-test's state: the field map alone, and the repairs that it holds (R525, R535). -/
def Bist.atStart (s : Bist) : Bist :=
  let cut := fun (u : Fin 4) (l : BitVec 4) => (List.range 4).foldl (fun l i =>
    if s.map.any (fun e => e.kind = 3 && e.unit = u.val * 256 + i) then l &&& ~~~(1#4 <<< i) else l) l
  let used := s.map.foldl (fun m e => if e.kind = 1 then mput 0 m e.unit (mget 0 m e.unit + 1) else m) []
  let spent := s.spent.filter fun a => decide (Config.spareRows a ≤ mget 0 used a)
  let t : Bist := { mapGen := s.mapGen, mapCopy := s.mapCopy, map := s.map, used := used, spent := spent }
  let t := { t with lanes := Vector.ofFn fun u => cut u t.lanes[u] }
  { t with conds := BitVec.ofNat 32 (b01 (!spent.isEmpty) * 2 ^ 8 + b01 (t.laneAt 10) * 2 ^ 10 + b01 (t.laneAt 11) * 2 ^ 11
      + b01 (s.map.any (fun e => e.kind = 2)) * 2 ^ 14 + b01 (decide (4092 ≤ s.map.length)) * 2 ^ 15) }
/-- BIST_LANES follows the lanes in service. -/
def lanesReg (b : Block) : Block :=
  let l := fun (u : Nat) => ((b.bist.lanes[u]?).getD 0).toNat
  wn (pg 0x70 0x064) (l 2 * 2 ^ 12 + l 1 * 2 ^ 8 + l 3 * 2 ^ 4 + l 0) b
/-- A lane of a unit is retired (R530). -/
def retireLane (u : Fin 4) (lane : Fin 4) (cause : Nat) (b : Block) : Block :=
  let old := b.bist.lanes[u]
  if !old.getLsbD lane.val then b else
  let new := old &&& ~~~(1#4 <<< lane.val)
  let left := lanesLeft new
  { b with bist := { b.bist with lanes := b.bist.lanes.set u new } } |> lanesReg
    |> rmapAdd 3 cause (u.val * 256 + lane.val) 0 0 |> evr 0xB07 (u.val * 256 + lane.val) left |> irq 0x70 1 |> laneHealth
/-- R530: a unit recomputes one item on two lanes: the results agree, or differ, and then one lane may be in every pair
that differs. -/
def execLaneCheck (unit : Fin 4) (bad : LaneResult) (s : State) : Out :=
  s.run fun b =>
    if !b.up then b else
    match bad with
    | .agree => b
    | .mismatch none => cnt (bistCnt 6) b
    | .mismatch (some l) => b |> cnt (bistCnt 6) |> retireLane unit l 3
/-- Lanes in service of a unit code. -/
def Block.lanes (b : Block) (u : Fin 4) : Nat := lanesLeft b.bist.lanes[u]

/-- R531: the ageing loss 1 − S / S_new. -/
def execAgeingCheck (s : State) : Out :=
  s.run fun b =>
    if !b.up then b else
    let sNew := Config.speedNew b.supply.reqMv (b.f (pg 0x21 0x04C) 11 0)
    let d := sNew - b.supply.speed
    let aged := decide (0 < sNew ∧ 83 * sNew ≤ 1000 * d)
    let was := b.bist.conds.getLsbD 13
    let b2 := wn (pg 0x70 0x060) (if sNew = 0 then 0 else d * 10000 / sNew) b
    if aged && !was then b2 |> healthCond 13 true |> evr 0xB08 (b2.n (pg 0x70 0x060)) 0
    else if !aged && was then healthCond 13 false b2 else b2

/-- R532: a 60 s cause lapses. -/
def execHealthCauseExpire (s : State) : Out :=
  s.run fun b =>
    let gone := fun (t : Option Gt) => match t with
      | some e => if e ≤ b.mono then none else some e
      | none => none
    healthRefresh { b with bist := { b.bist with ueEnd := gone b.bist.ueEnd, hsEnd := gone b.bist.hsEnd } }

/-! Engines in service (R431–R433, R526). -/

/-- A physical engine. -/
def Block.eng (b : Block) (p : Nat) : EngSt := (b.thr.engs[p]?).getD {}
/-- Changes a physical engine. -/
def modEng (p : Nat) (f : EngSt → EngSt) (b : Block) : Block :=
  if h : p < 26 then { b with thr := { b.thr with engs := b.thr.engs.set p (f b.thr.engs[p]) } } else b
/-- Whether an engine is out of service itself. -/
def EngSt.gone (e : EngSt) : Bool := e.degraded || e.out || e.retired
/-- The rotation tests this engine (R526). -/
def Block.tested (b : Block) (e : Nat) : Bool := b.bist.rot.any fun r => r.engine == e
/-- The physical engine that serves addressable number e (R432, R526); none without a stand-in. -/
def Block.serves (b : Block) (e : Nat) : Option Nat :=
  if !(b.eng e).gone && !b.tested e then some e
  else [24, 25].find? fun p => (b.eng p).covers == some e || b.bist.rot.any fun r => r.engine == e && r.spare == p
/-- A spare that is in service and stands in for none. -/
def Block.spareFree (b : Block) (p : Nat) : Bool :=
  !(b.eng p).gone && (b.eng p).covers.isNone && !(b.bist.rot.any fun r => r.spare == p) && b.upd.spare != some p
/-- THR_AVAIL: addressable engines in service (R437). -/
def Block.engAvail (b : Block) : Nat := maskOf 24 fun e => (b.serves e).isSome
/-- The shadow run starts on a free spare, E24 before E25, and anew where its spare was taken back (R596). -/
def shadowSpare (b : Block) : Block :=
  if b.upd.phase != 6 || b.upd.spare.isSome then b else
  match [24, 25].find? fun p => b.spareFree p with
  | some p => modUpd (fun u => { u with spare := some p, shadowLeft := b.f (pg 0x6C 0x044) 15 8 }) b
  | none => b
/-- Health and the Thresher's status follow the engines in service (R433, R532). -/
def engRefresh (b : Block) : Block :=
  let short := b.engAvail != 2 ^ 24 - 1
  b |> shadowSpare |> stsBit 0x38 2 short |> healthCond 6 short |> healthCond 7 (!(b.spareFree 24) && !(b.spareFree 25))
    |> healthCond 14 ((List.range 26).any fun p => (b.eng p).retired)

/-- The health report (R533). -/
def reportBytes (b : Block) : List Byte :=
  let c := b.bist.standing
  let rot := match b.bist.rot with
    | some r => 0x20 + r.engine % 32
    | none => 0
  padTo 128 (
    [0x0B, 0x01, BitVec.ofNat 8 b.bist.level, BitVec.ofNat 8 b.bist.seq] ++ shortForm b.now ++ [0, 0]
    ++ leBytes 4 (c &&& faultCauses).toNat ++ leBytes 4 (c &&& ~~~faultCauses).toNat ++ leBytes 8 (b.evr.opSec % 2 ^ 40)
    ++ leBytes 2 b.supply.speed ++ leBytes 2 (pat 16 b.supply.margin) ++ leBytes 2 b.supply.reqMv
    ++ leBytes 2 (b.f (pg 0x21 0x04C) 11 0) ++ leBytes 3 b.engAvail
    ++ [BitVec.ofNat 8 (b01 (b.spareFree 25) * 128 + b01 (b.spareFree 24) * 64 + rot)]
    ++ leBytes 2 (b.n (pg 0x70 0x060)) ++ leBytes 2 (b.n (pg 0x70 0x064)) ++ leBytes 4 b.bist.ceSec ++ leBytes 4 b.bist.ueTotal
    ++ leBytes 2 (sumN (b.bist.used.map (·.2))) ++ leBytes 2 b.bist.spent.length ++ leBytes 4 b.bist.hsTotal
    ++ leBytes 4 b.bist.rotDone ++ leBytes 4 b.bist.map.length ++ leBytes 4 b.bist.ddrCeSec ++ leBytes 4 b.bist.mramCorr)
/-- The second that reports follow: of grid time, or of always-on time while VALID is 0 (R534). -/
def reportSecond (b : Block) : Nat := if b.time.valid then secOf b.now else b.evr.aonMs / 1000
/-- Words written to consecutive registers. -/
def wrWords (a : Nat) : List Word → Block → Block
  | [], b => b
  | w :: l, b => wrWords (a + 4) l (wr a w b)

end Sys2Proof.Machine
end

