-- ==== Sys2Proof/Machine/Granary.lean ====
section
/-! DEFINITION. The Granary: bale rates, instants and layouts, rings, opening, closing, late values, time steps, replays
and what the readers are told (R238–R269). -/

namespace Sys2Proof.Machine
open Sys2Proof

/-! Tables that take effect at an instant (R213). -/

/-- The words of a table entry in force for values with instant T: an entry as it stood before every commit at or after T. -/
def wordsAt (b : Block) (T : Gt) (a n : Nat) : List Word :=
  match (b.glean.past.reverse).find? (fun e => e.2.1 == a && decide (T ≤ e.1)) with
  | some (_, _, ws) => ws
  | none => (List.range n).map fun i => b.r (a + 4 * i)
/-- The words of a table entry now. -/
def wordsNow (b : Block) (a n : Nat) : List Word := (List.range n).map fun i => b.r (a + 4 * i)
/-- Writes consecutive words. -/
def wrList (a : Nat) : List Word → Block → Block
  | [], b => b
  | w :: l, b => wrList (a + 4) l (wr a w b)
/-- Changes the Gleaner. -/
def modGlean (f : GleanSt → GleanSt) (b : Block) : Block := { b with glean := f b.glean }
/-- Table words take force for instants later than t; GL_CHG and the active member's partner are told (R213, R475). -/
def commitWords (t : Gt) (a : Nat) (ws : List Word) (b : Block) : Block :=
  let c := b |> modGlean (fun g => { g with past := (t, a, wordsNow b a ws.length) :: g.past, commitAt := some t })
    |> wrList a ws |> wn (pg 0x18 0x054) (secOf t) |> wn (pg 0x18 0x058) (secOf t / 2 ^ 32) |> wn (pg 0x18 0x05C) (nsOf t)
    |> irq 0x18 0
  if b.mirrors then plSend (.commit a t ws) c else c

/-! Commits that wait for a first sample, bale or decision (R345, R365). -/

/-- The words of a table entry in force: as they stood before the oldest commit that still waits. -/
def inForce (b : Block) (a n : Nat) : List Word := match b.later.find? fun e => e.2.1 == a with
  | some e => e.2.2
  | none => (List.range n).map fun i => b.r (a + 4 * i)
/-- Words are committed now and take force later; the active member tells its partner (R475). -/
def commitLater (t : Gt) (a : Nat) (ws : List Word) (b : Block) : Block :=
  let c := wrList a ws { b with later := b.later ++ [(t, a, wordsNow b a ws.length)] }
  if b.mirrors then plSend (.commit a t ws) c else c
/-- The oldest commit of an address that waits, dropped: its words take force. -/
def takeForce (a : Nat) (b : Block) : Block :=
  match b.later.find? fun e => e.2.1 == a with
  | some e => { b with later := b.later.erase e }
  | none => b
/-- The words in force after the oldest waiting commit of an address takes force. -/
def nextForce (b : Block) (a n : Nat) : List Word := inForce (takeForce a b) a n
/-- The time of the oldest waiting commit of an address. -/
def forceAt (b : Block) (a : Nat) : Option Gt := (b.later.find? fun e => e.2.1 == a).map (·.1)

/-! Stream entries (R211). -/

/-- First address of a stream entry. -/
def strAddr (s : Nat) : Nat := 0x100000 + 128 * s
/-- The fields of a stream entry. -/
structure Stream where
  enrolled : Bool
  kind : Nat
  srcChk : Bool
  rate : Nat
  id : Nat
  block : Nat
  fmt : Nat
  nph : Nat
  nan : Nat
  ndg : Nat
  auth : Nat
  keySlot : Nat
  blkOfs : Nat
  timeBase : Nat
  frameSize : Nat
  srcHash : Nat
  anaFix : Nat
  phBase : Nat
  svid : Nat
  freqChan : Nat
  chans : List Nat
deriving DecidableEq, Repr
/-- A stream entry from its 32 words. -/
def streamOf (ws : List Word) : Stream :=
  let l := bytesOfWords ws
  let ctl := leAt l 0 2
  { enrolled := ctl.testBit 15, kind := bits ctl 14 12, srcChk := ctl.testBit 11, rate := leAt l 2 2, id := leAt l 4 2,
    block := leAt l 6 1, fmt := leAt l 7 1, nph := leAt l 8 1, nan := leAt l 9 1, ndg := leAt l 10 1,
    auth := leAt l 11 1 % 4, keySlot := leAt l 12 1, blkOfs := leAt l 14 2, timeBase := leAt l 16 3,
    frameSize := leAt l 20 2, srcHash := leAt l 22 2, anaFix := leAt l 24 2, phBase := leAt l 26 2, svid := leAt l 28 2,
    freqChan := leAt l 30 2, chans := (List.range 32).map fun i => leAt l (64 + 2 * i) 2 }
/-- The entry of a slot for values with instant T. -/
def streamAt (b : Block) (T : Gt) (s : Nat) : Stream := streamOf (wordsAt b T (strAddr s) 32)
/-- The entry of a slot now. -/
def streamNow (b : Block) (s : Nat) : Stream := streamOf (wordsNow b (strAddr s) 32)
/-- Slots that have an enrolled entry now: only slots with a listed word can, since the factory table is empty. -/
def slotsNow (b : Block) : List Nat :=
  ((b.regs.filter fun e => 0x100000 ≤ e.1 && e.1 < 0x200000 && e.1 % 128 = 0 && bitAt e.2 15).map fun e => (e.1 - 0x100000) / 128)
/-- Slots with an entry enrolled at any instant since the latest restore: those of now and those of earlier words. -/
def slotsEver (b : Block) : List Nat :=
  let old := (b.glean.past.filter fun e => 0x100000 ≤ e.2.1 && e.2.1 < 0x200000).map fun e => (e.2.1 - 0x100000) / 128
  ((slotsNow b ++ old).eraseDups).mergeSort (· ≤ ·)

/-! Instants (R239). -/

/-- Nanoseconds of instant k of a rate f. -/
def instNs (f k : Nat) : Nat := rndNat (k * 1000000000) f
/-- The number of an instant within its second, when the time is one of the rate's instants. -/
def instOf (f : Nat) (T : Gt) : Option Nat :=
  if f = 0 || fracOf T != 0 then none else
  let k := rndNat (nsOf T * f) 1000000000
  if k < f && instNs f k = nsOf T then some k else none
/-- The bale index of an instant (R239). -/
def baleIndex (f : Nat) (T : Gt) : Nat := (secOf T * f + rndNat (nsOf T * f) 1000000000) % 2 ^ 32
/-- The first instant of a rate later than a time. -/
def nextInst (f : Nat) (t : Gt) : Gt :=
  if f = 0 then t + gtSec else
  let s := secOf t
  let k := nsOf t * f / 1000000000
  match ([k, k + 1, k + 2].filter fun j => j < f && t < mkGt s (instNs f j)).head? with
  | some j => mkGt s (instNs f j)
  | none => mkGt (s + 1) 0

/-! Rates and layouts (R238, R240, R241). -/

/-- Address of a rate's register from its offset in block 0 (R266). -/
def brReg (r o : Nat) : Nat := pg 0x19 (o + 0x40 * r)
/-- A rate by its number. -/
def Block.rate (b : Block) (r : Nat) : RateSt := (b.gran.rates[r]?).getD {}
/-- Changes the Granary. -/
def modGran (f : GranSt → GranSt) (b : Block) : Block := { b with gran := f b.gran }
/-- Changes one rate. -/
def modRate (r : Nat) (f : RateSt → RateSt) (b : Block) : Block :=
  if h : r < 4 then modGran (fun g => { g with rates := g.rates.set r (f g.rates[r]) }) b else b
/-- Bales per second. -/
def Block.rateHz (b : Block) (r : Nat) : Nat := b.f (brReg r 0x080) 7 0
/-- WAIT_MS. -/
def waitMs (b : Block) (r : Nat) : Nat := b.f (brReg r 0x084) 10 0
/-- AMEND_MS. -/
def amendMs (b : Block) (r : Nat) : Nat := b.f (brReg r 0x084) 26 16
/-- Rates allowed for a nominal frequency (R238). -/
def rateList (fnom : Bool) : List Nat := if fnom then [1, 2, 5, 10, 12, 15, 20, 30, 60, 120, 240] else [1, 2, 5, 10, 25, 50, 100, 200]
/-- The ranges of a rate from their 16 words: first slot and count. -/
def rangesOf (ws : List Word) : List (Nat × Nat) := (ws.map fun w => (fld w 12 0, fld w 28 16)).filter fun e => 0 < e.2
/-- A slot lies in the ranges. -/
def inRanges (l : List (Nat × Nat)) (s : Nat) : Bool := l.any fun e => e.1 ≤ s && s < e.1 + e.2
/-- Bytes of a section (R241). -/
def secBytes (nph nan ndg : Nat) : Nat := 32 + 8 * nph + 4 * nan + 2 * ndg
/-- Sections in ascending slot order from members. -/
def placeSecs : Nat → List (Nat × Stream × Bool) → List Section
  | _, [] => []
  | o, (s, e, due) :: l => ⟨s, o, e.nph, e.nan, e.ndg, due⟩ :: placeSecs (o + secBytes e.nph e.nan e.ndg) l
/-- The sections of a bale with instant T (R240, R241): members, and whether each is due. -/
def layoutAt (b : Block) (r : Nat) (T : Gt) : List Section :=
  let rg := rangesOf (wordsAt b T (brReg r 0x200) 16)
  let mem := ((slotsEver b).filter (inRanges rg)).filterMap fun s =>
    let e := streamAt b T s
    if e.enrolled then some (s, e, (instOf e.rate T).isSome) else none
  placeSecs 64 mem
/-- The size of a bale with these sections. -/
def baleSize (l : List Section) : Nat := 64 + sumN (l.map fun s => secBytes s.nph s.nan s.ndg)
/-- The layout of the next bale under the latest tables. -/
def layoutNow (b : Block) (r : Nat) : List Section :=
  let rg := rangesOf (wordsNow b (brReg r 0x200) 16)
  let mem := ((slotsNow b).filter (inRanges rg)).map fun s => (s, streamNow b s, true)
  placeSecs 64 mem
/-- Whether a set of sections is a member's slot. -/
def secOfSlot (l : List Section) (s : Nat) : Option Section := l.find? fun x => x.slot == s

/-! The intake watermark (R17). -/

/-- Stamps of frames that wait at the ports, in the order's grain (R115). -/
def waitStamps (b : Block) : List Gt :=
  b.ports.toList.flatMap fun p =>
    (match p.atGlean with | some f => [shortGrain f.stamp] | none => []) ++ (p.rx.take 1).map fun f => shortGrain f.stamp
/-- The intake watermark (R17): a standby's follows the WMARK records (R475). -/
def Block.mark (b : Block) : Gt :=
  match b.glean.stby with
  | some m => m
  | none => (waitStamps b ++ b.glean.locq.map (·.stamp)).foldl min b.now
/-- Changes of mode, newest first, with the one that a pending request makes (R28). -/
def modeLog (b : Block) : List (Gt × Bool) := match b.mode.pend with
  | some (m, te) => if m = b.mode.govern then b.mode.changes else (te, m) :: b.mode.changes
  | none => b.mode.changes
/-- The mode in which a bale of a time is evaluated (R28). -/
def modeAt (b : Block) (T : Gt) : Bool := match (modeLog b).find? fun e => e.1 ≤ T with
  | some e => e.2
  | none => b.mode.base
/-- The lowest-numbered enabled bale rate (R28). -/
def leadRate (b : Block) : Option Nat := ((List.range 4).filter fun r => (b.rate r).on).head?
/-- A mode is to change at T_eff: the request pends, and MODE_EFF_IDX names its bale of the lead rate (R28, R32). -/
def modePend (m : Bool) (te : Gt) (b : Block) : Block :=
  let c := { b with mode := { b.mode with pend := some (m, te) } }
  match leadRate b with
  | some r => wn (pg 0x00 0x048) (baleIndex (b.rateHz r) te) c
  | none => c
/-- MODE_NOW follows a bale that is told to its readers (R32). -/
def modeSeen (x : BaleRef) (b : Block) : Block :=
  if x.replayed then b else { b with mode := { b.mode with shown := modeAt b x.time } }

/-! Memory of a bale. -/

/-- The bytes of a bale as they stand. -/
def baleBytes (b : Block) (r : Nat) (x : Bale) : List Byte :=
  let s := b.rate r
  readBytes b.granMem (s.base + x.pos * b.n (brReg r 0x08C)) x.size
/-- The Granary offset of a bale. -/
def baleOfs (b : Block) (r : Nat) (x : Bale) : Nat := (b.rate r).base + x.pos * b.n (brReg r 0x08C)
/-- Writes bytes into the Granary. -/
def granWrite (a : Nat) (l : List Byte) (b : Block) : Block := { b with granMem := writeBytes b.granMem a l }
/-- Replaces a bale of a rate's list, by its index. -/
def putBale (r : Nat) (x : Bale) (b : Block) : Block :=
  modRate r (fun s => { s with bales := s.bales.map fun y => if y.idx = x.idx then x else y }) b
/-- Bales of a rate that are open. -/
def RateSt.opens (s : RateSt) : List Bale := s.bales.filter fun x => !x.closed
/-- A bale of a rate by its index. -/
def RateSt.bale (s : RateSt) (i : Nat) : Option Bale := s.bales.find? fun x => x.idx = i

/-! Opening (R247). -/

/-- The first instant of a rate that has not been opened and that no forward step skipped. -/
def skipTo (f : Nat) (skips : List (Gt × Gt)) (T : Gt) : Gt :=
  skips.foldl (fun T e => if e.1 < T && T < e.2 then nextInst f (e.2 - 1) else T) T
/-- The next bale time of a rate. -/
def nextOpen (b : Block) (r : Nat) : Gt :=
  let s := b.rate r
  skipTo (b.rateHz r) s.skips (nextInst (b.rateHz r) s.from_)
/-- The bytes of a section that is not due: its slot, counts and NOT_DUE, all values 0. -/
def notDueBytes (s : Section) : List Byte :=
  leBytes 2 s.slot ++ leBytes 2 0x0040 ++ zeros 18 ++ [BitVec.ofNat 8 s.nph, BitVec.ofNat 8 s.nan, BitVec.ofNat 8 s.ndg]
    ++ zeros (secBytes s.nph s.nan s.ndg - 25)
/-- What opening writes of a bale with a TQ code (R242, R247); due sections keep their old bytes. -/
def openWrites (tq r : Nat) (x : Bale) (a : Nat) (c : Block) : Block :=
  let h1 := leBytes 4 x.idx ++ [BitVec.ofNat 8 r, 0, BitVec.ofNat 8 tq, 0] ++ leBytes 8 (secOf x.time) ++ leBytes 4 (nsOf x.time)
    ++ leBytes 2 x.secs.length ++ leBytes 2 (x.secs.filter (·.due)).length
  c |> granWrite a h1 |> granWrite (a + 28) (leBytes 4 x.gen ++ leBytes 4 x.size) |> granWrite (a + 48) (zeros 16)
    |> forEach (x.secs.filter fun s => !s.due) (fun s => granWrite (a + s.ofs) (notDueBytes s))
/-- Opens the bale of a rate with time T at the next ring position (R247, R245). -/
def openBale (r : Nat) (T : Gt) (b : Block) : Block :=
  let s := b.rate r
  let secs := layoutAt b r T
  let lay := secs.map fun x => (x.slot, x.nph, x.nan, x.ndg)
  let gen := if s.layout.any (· != lay) then (s.gen + 1) % 2 ^ 32 else s.gen
  let x : Bale :=
    { idx := baleIndex (b.rateHz r) T, time := T, pos := s.next, size := baleSize secs, gen := gen, secs := secs,
      deadline := T + gtMs (waitMs b r), govern := modeAt b T }
  let lost := s.bales.filter fun y => y.pos = s.next
  b |> modRate r (fun s => { s with
        next := (s.next + 1) % max s.n 1, from_ := T, gen := gen, layout := some lay,
        bales := (s.bales.filter fun y => y.pos != s.next) ++ [x] })
    |> openWrites (tqAt b T) r x (baleOfs b r x)
    |> forEach lost (fun y => markOverrun fun e => e.src == r + 1 && e.bale % 2 ^ 32 == y.idx)

/-! Closing (R248, R249). -/

/-- Header FLAGS bits (R242). -/
def fCOMPLETE : Nat := 1
/-- DEADLINE. -/
def fDEADLINE : Nat := 2
/-- REPLAYED. -/
def fREPLAYED : Nat := 4
/-- STEPPED. -/
def fSTEPPED : Nat := 8
/-- ABORTED. -/
def fABORTED : Nat := 16
/-- The quality bits that the Gleaner sets, without ARRIVED and LATE. -/
def gleanBits : Nat := 0x1F8F
/-- The section that a member is held from: in the HOLD_MAX preceding bales, the most recent with ARRIVED (R249). -/
def holdFrom (b : Block) (r : Nat) (x : Bale) (s : Section) : Option (List Byte) :=
  let hm := b.f (brReg r 0x080) 27 24
  let before := (((b.rate r).bales.filter fun y => y.idx != x.idx && y.time < x.time).reverse).take hm
  (before.filterMap fun y =>
    match secOfSlot y.secs s.slot with
    | some z =>
      let l := readBytes b.granMem (baleOfs b r y + z.ofs) (secBytes z.nph z.nan z.ndg)
      if (z.nph, z.nan, z.ndg) = (s.nph, s.nan, s.ndg) && (leAt l 2 2).testBit 15 then some l else none
    | none => none).head?
/-- A due member that has not arrived is held, or filled invalid (R249). -/
def fillSec (b : Block) (r : Nat) (x : Bale) (s : Section) : Bool × List Byte :=
  let head := fun (q : Nat) => leBytes 2 s.slot ++ leBytes 2 q
  let tail := [BitVec.ofNat 8 s.nph, BitVec.ofNat 8 s.nan, BitVec.ofNat 8 s.ndg] ++ zeros 7
  match holdFrom b r x s with
  | some l => (true, head ((leAt l 2 2 &&& gleanBits) + 0x2000) ++ slice l 4 8 ++ zeros 10 ++ tail ++ l.drop 32)
  | none => (false, head 0x1000 ++ zeros 18 ++ tail ++ zeros (secBytes s.nph s.nan s.ndg - 32))
/-- A BALE_NOTICE (R253). -/
def baleNotice (b : Block) (r : Nat) (x : Bale) (amend : Bool) : List Byte :=
  let l := baleBytes b r x
  entry ([0x04, 0, BitVec.ofNat 8 (r + b01 amend * 128), nth l 5 0] ++ leBytes 4 x.idx ++ shortForm x.time ++ slice l 22 6
    ++ leBytes 4 (baleOfs b r x) ++ slice l 40 8 ++ slice l 36 4 ++ slice l 48 2)
/-- The digest of a bale as it stands (R259). -/
def baleDigest (l : List Byte) : Nat := crc64 (l.take 40 ++ l.drop 64)
/-- A reader that takes each bale once finds a replayed bale in the place of the bale as it was, where it has not taken that
(R346, R362). -/
def tellOnce (x : BaleRef) (l : List BaleRef) : List BaleRef :=
  let same := fun (y : BaleRef) => y.rate == x.rate && y.idx == x.idx
  if x.replayed && l.any same then l.map fun y => if same y then x else y else l ++ [x]
/-- Tells every reader of a closed bale (R253, R254, R260). -/
def tellReaders (x : BaleRef) (b : Block) : Block :=
  modGran (fun g => { g with
    toOsc := tellOnce x g.toOsc, toIsl := tellOnce x g.toIsl, toAlm := g.toAlm ++ [x], toExp := g.toExp ++ [x],
    toCap := g.toCap ++ [x], toCo := g.toCo ++ [x] }) b
/-- The digest of an own bale meets the partner's when both exist, or waits (R479). The answer tells a mismatch:
rate, index, the active member's digest and the standby's. -/
def compareBale (r i d : Nat) (b : Block) : Option (Nat × Nat) × Block :=
  match b.pair.theirBale.find? fun e => e.1 == r && e.2.1 == i with
  | some e =>
    let c := b |> modPair (fun p => { p with theirBale := p.theirBale.filter fun x => x != e }) |> cnt (pg 0x60 0x200)
    if e.2.2 = d then (none, baleMatched c) else (some (e.2.2, d), c)
  | none => (none, modPair (fun p => { p with ownBale := lastN 4096 (p.ownBale ++ [(r, i, d)]) }) b)
/-- The standby compares bale digests in step or converging, from its rejoin on (R479, R481). -/
def comparesBales (b : Block) (T : Gt) : Bool :=
  (b.pair.role == .standby || b.pair.role == .converging) && decide (b.pair.compareFrom ≤ T) && (match b.upd.noCompare with
    | some t => decide (T < t)
    | none => true)

/-! Replay (R263). -/

/-- The journal's present epoch reaches back to a time. -/
def jrnReaches (b : Block) (t : Gt) : Bool := match b.glean.recs.head? with
  | some e => decide (e.stamp ≤ t)
  | none => false
/-- Why a replay is refused, 0 when it is not (R263, R268). -/
def replayRefusal (b : Block) (r i : Nat) (host : Bool) : Nat :=
  if b.gran.replay.isSome then 0x2A else
  match (b.rate r).bale i with
  | none => 0x27
  | some x =>
    if !x.closed && host then 0x2B
    else if !jrnReaches b x.time then 0x28
    else match b.glean.commitAt with
    | some t => if x.time ≤ t then 0x29 else 0
    | none => 0
/-- GR_REPLAY_STS. -/
def setReplaySts (busy : Bool) (r res : Nat) (b : Block) : Block :=
  wn (pg 0x19 0x074) (b01 busy * 2 ^ 31 + r * 2 ^ 16 + res) b
/-- A bale waits for its replay until it closes (R262, R263; DEDUCED 210 for causes 2 and 3). -/
def replayWait (r i cause : Nat) (b : Block) : Block :=
  modGran (fun g => { g with auto := (g.auto.filter fun e => !(e.1 == r && e.2.1 == i)) ++ [(r, i, cause)] }) b
/-- Starts a replay, or refuses it (R263). Causes: 0 host, 1 ECC, 2 takeover, 3 the pair. -/
def replayStart (r i cause : Nat) (b : Block) : Block :=
  if cause != 0 && ((b.rate r).bale i).any (fun x => !x.closed) then replayWait r i cause b else
  let code := replayRefusal b r i (cause = 0)
  if code != 0 then
    b |> err 0x19 code |> (fun b => if code = 0x2A then wf (pg 0x19 0x074) 7 0 code b else setReplaySts false r code b) |> evr 0x314 (r * 256 + code) i
      |> cnt (pg 0x19 0x518)
  else match (b.rate r).bale i with
  | none => b
  | some x =>
    let stop := x.time + gtMs (waitMs b r)
    let recs := b.glean.recs.filter fun e => x.time ≤ e.stamp && e.stamp < stop
    let y := { x with arrived := [], late := [], flags := 0, stepped := false, amendDone := false }
    let c := b |> modGran (fun g => { g with replay := some { rate := r, bale := y, cause := cause, recs := recs } })
      |> openWrites (byteAt b.granMem (baleOfs b r y + 6)).toNat r y (baleOfs b r y) |> setReplaySts true r 0
    if b.mirrors && cause != 3 then plSend (.replay r cause i) c else c
/-- The verdict of an arbitration, once it can be told: 1 standby at fault, 2 active at fault, 3 both, 4 undecided (R480). -/
def arbVerdict (x : ArbSt) : Option Nat :=
  if x.refused then some 4 else
  match x.ra, x.rs with
  | some ra, some rs =>
    some (if ra != rs then 4 else if ra = x.a && ra != x.s then 1 else if ra = x.s && ra != x.a then 2 else 3)
  | _, _ => none
/-- What a member notes of a verdict (R480, R498, R502). -/
def arbNote (r i v : Nat) (b : Block) : Block :=
  b |> pairEvr 0x809 (r * 256 + v) i |> onlyIf (v == 1 || v == 3) (cnt (pg 0x60 0x220)) |> onlyIf (v == 2 || v == 3) (cnt (pg 0x60 0x228))
    |> onlyIf (v == 4) (cnt (pg 0x60 0x230))
/-- The standby decides an arbitration whose digests have come, and tells the active member. -/
def arbSettle (r i : Nat) (b : Block) : Block :=
  match b.pair.arbs.find? fun x => x.rate == r && x.idx == i with
  | none => b
  | some x => match arbVerdict x with
    | none => b
    | some v =>
      b |> modPair (fun p => { p with arbs := p.arbs.filter fun y => y != x }) |> arbNote r i v
        |> plSend (.arb r v i (x.rs.getD 0)) |> onlyIf (v == 1 || v == 3) (updFail 4) |> onlyIf (v == 4) (pairDetach 3)
/-- Changes an arbitration in progress. -/
def modArb (r i : Nat) (f : ArbSt → ArbSt) (b : Block) : Block :=
  modPair (fun p => { p with arbs := p.arbs.map fun x => if x.rate = r && x.idx = i then f x else x }) b
/-- A bale-digest mismatch on the standby starts arbitration (R480). -/
def startArb (r i a s : Nat) (b : Block) : Block :=
  let refused := replayRefusal b r i false != 0
  b |> cnt (pg 0x60 0x208) |> irq 0x60 3 |> pairEvr 0x808 r i
    |> modPair (fun p => { p with arbs := p.arbs ++ [{ rate := r, idx := i, a := a, s := s, refused := refused }] })
    |> plSend (.arb r 0 i s) |> replayStart r i 3 |> arbSettle r i
/-- The pair's side of a close: the active member sends its digest, the standby compares (R479). A replay sends
nothing (R263). -/
def pairClose (r : Nat) (x : Bale) (b : Block) : Block :=
  if x.flags.testBit 2 then b
  else if b.mirrors then plSend (.baleDig r x.flags x.idx x.digest) b
  else if comparesBales b x.time then
    match compareBale r x.idx x.digest b with
    | (some (a, s), c) => startArb r x.idx a s c
    | (none, c) => c
  else modPair (fun p => { p with theirBale := p.theirBale.filter fun e => !(e.1 == r && e.2.1 == x.idx) }) b

/-- Closes a bale with these FLAGS beside MODE and STEPPED: missing due members are filled first, so that every byte of
the closed bale is defined (R248, R249, R264). -/
def closeBale (r : Nat) (x : Bale) (fl : Nat) (b : Block) : Block :=
  let a := baleOfs b r x
  let missing := x.secs.filter fun s => s.due && !x.arrived.contains s.slot
  let fills := missing.map fun s => (s, fillSec b r x s)
  let held := (fills.filter fun e => e.2.1).length
  let flags := fl + b01 x.govern * 32 + (if x.stepped && fl.testBit 1 then fSTEPPED else 0)
  let lag := (b.now - x.time) / gtNs 1000
  let b1 := forEach fills (fun e => granWrite (a + e.1.ofs) e.2.2) b
  let b2 := b1 |> granWrite (a + 5) [BitVec.ofNat 8 flags]
    |> granWrite (a + 24) (leBytes 2 x.arrived.length ++ leBytes 2 held)
    |> granWrite (a + 36) (leBytes 4 (satU 32 lag))
  let dig := baleDigest (readBytes b2.granMem a x.size)
  let y := { x with closed := true, flags := flags, digest := dig }
  let b3 := b2 |> granWrite (a + 40) (leBytes 8 dig) |> putBale r y
  let ref : BaleRef := { rate := r, idx := x.idx, time := x.time, pos := x.pos, bytes := readBytes b3.granMem a x.size,
                         replayed := flags.testBit 2, aborted := flags.testBit 4 }
  let c := pg 0x19 (0x400 + 64 * r)
  b3 |> onlyIf (fl % 2 = 1) (cnt c) |> onlyIf (fl.testBit 1) (cnt (c + 8)) |> cntBy (c + 40) held
    |> cntBy (c + 32) (if fl.testBit 1 then fills.length - held else 0)
    |> (fun b => if flags.testBit 2 then b else
          b |> wn (brReg r 0x09C) x.idx |> wn (brReg r 0x0A0) x.pos
            |> wn (brReg r 0x0A4) (b01 (fl.testBit 1) * 2 ^ 31 + min lag (2 ^ 31 - 1)))
    |> tellReaders ref |> modeSeen ref |> modUpd (fun u => if u.phase = 6 && u.spare.isSome then { u with shadowLeft := u.shadowLeft - 1 } else u)
    |> onlyIf (b.t (brReg r 0x080) 29) (fun b => siloPut (20 + r) (baleNotice b r y false) b)
    |> onlyIf (b.t (brReg r 0x080) 28) (thrRaise (r + 1) x.time (r * 2 ^ 32 + x.idx))
    |> pairClose r y
/-- A bale whose error was found while it was open is replayed as soon as it closes (R262). -/
def autoReplay (r i : Nat) (b : Block) : Block :=
  match b.gran.auto.find? fun e => e.1 == r && e.2.1 == i with
  | some e => b |> modGran (fun g => { g with auto := g.auto.filter fun x => x != e }) |> replayStart r i e.2.2
  | none => b
/-- Closes every open bale of a rate with these FLAGS, oldest first. -/
def closeAll (r fl : Nat) (b : Block) : Block :=
  forEach (b.rate r).opens (fun x b => b |> closeBale r x fl |> autoReplay r x.idx) b
/-- Bales of every rate that p picks: by bale time, then rate (R250). -/
def pickBale (b : Block) (p : Nat → Bale → Bool) : Option (Nat × Bale) :=
  let l := (List.range 4).flatMap fun r => ((b.rate r).bales.filter (p r)).map fun x => (r, x)
  l.foldl (fun o e => match o with
    | none => some e
    | some m => if e.2.time < m.2.time then some e else o) none

/-! Time steps and loss of time (R251, R506). -/

/-- The rates open again at the first instant later than the intake watermark (R265, R505, R506). -/
def ratesResume (b : Block) : Block :=
  forEach [0, 1, 2, 3] (fun r => modRate r fun s => { s with from_ := b.mark, skips := [] }) b

/-- When VALID falls every open bale closes with ABORTED (R506). -/
def granAbortAll (b : Block) : Block := forEach [0, 1, 2, 3] (fun r => closeAll r fABORTED) b
/-- A step of the counter (R251): a forward step skips instants and marks the bales it closes; a backward step closes
every open bale. -/
def granTimeStep (old new : Gt) (b : Block) : Block :=
  let hit := (List.range 4).filter fun r => !(b.rate r).opens.isEmpty
  let mask := sumN (hit.map (2 ^ ·))
  if !b.time.valid then b
  else if old ≤ new then
    b |> forEach [0, 1, 2, 3] (fun r => modRate r fun s => { s with
          skips := s.skips ++ [(old, new)],
          bales := s.bales.map fun x => if !x.closed && x.deadline ≤ new then { x with stepped := true } else x })
      |> irq 0x19 1 |> evr 0x310 mask 0
  else
    b |> forEach [0, 1, 2, 3] (fun r => closeAll r fSTEPPED) |> irq 0x19 1 |> evr 0x310 mask 1

/-! Ring allocation and capacity (R245, R246). -/

/-- Bytes of the Granary. -/
def granSize : Nat := 50331648
/-- N of a rate's ring from its settings. -/
def ringSlots (b : Block) (r : Nat) : Nat := ceilDiv (waitMs b r * b.rateHz r) 1000 + b.f (brReg r 0x088) 15 0
/-- Ranges held by rings: start and length. -/
def ringsHeld (b : Block) : List (Nat × Nat) :=
  (List.range 4).filterMap fun r =>
    let s := b.rate r
    if s.on then some (s.base, s.n * b.n (brReg r 0x08C)) else none
/-- The lowest free range of a length. -/
def findFree (b : Block) (len : Nat) : Option Nat :=
  let h := ringsHeld b
  let free := fun (a : Nat) => a + len ≤ granSize && h.all fun e => a + len ≤ e.1 || e.1 + e.2 ≤ a
  ((0 :: h.map fun e => e.1 + e.2).filter free).min?
/-- The largest free range in bytes (GR_FREE). -/
def largestFree (b : Block) : Nat :=
  let h := ringsHeld b
  let gap := fun (a : Nat) =>
    if h.any (fun e => e.1 ≤ a && a < e.1 + e.2) then 0 else
    ((h.filterMap fun e => if a ≤ e.1 then some e.1 else none).min?).getD granSize - a
  ((0 :: h.map fun e => e.1 + e.2).map gap).foldl max 0
/-- A rate enabled with its ring at a base: it opens from the first instant later than the watermark (R252). -/
def rateOn (r base : Nat) (b : Block) : Block :=
  b |> modRate r (fun s => { s with
        on := true, base := base, n := ringSlots b r, next := 0, from_ := b.mark, skips := [], bales := [] })
    |> wbit (brReg r 0x080) 31 true |> evr 0x315 r 1
/-- Enables a rate, or says why not (R246). -/
def enableCheck (b : Block) (r : Nat) : Nat :=
  if b.n (brReg r 0x08C) < baleSize (layoutNow b r) then 0x21
  else if (findFree b (ringSlots b r * b.n (brReg r 0x08C))).isNone then 0x20 else 0
/-- Disables a rate: open bales close ABORTED and the ring is free (R252). -/
def rateOff (r : Nat) (b : Block) : Block :=
  b |> closeAll r fABORTED |> modRate r (fun s => { s with on := false, bales := [] })
    |> wbit (brReg r 0x080) 31 false |> evr 0x315 r 0
/-- A write of BR_CTL (R238, R246, R252, R268). -/
def brCtlWrite (r : Nat) (v : Word) (b : Block) : Block :=
  let a := brReg r 0x080
  let old := b.r a
  let new := v &&& 0xFF0000FF#32
  if !(rateList (bitAt new 30)).contains (fld new 7 0) then err 0x19 0x23 b
  else if bitAt old 31 && (fld new 30 30 != fld old 30 30 || fld new 7 0 != fld old 7 0) then err 0x19 0x25 b
  else if bitAt old 31 && !bitAt new 31 then b |> rateOff r |> wr a new
  else if !bitAt old 31 && bitAt new 31 then
    let c := wr a (putBit new 31 false) b
    if b.f (brReg r 0x088) 15 0 ≤ ceilDiv (amendMs b r * c.rateHz r) 1000 && amendMs b r != 0 then err 0x19 0x24 b
    else match enableCheck c r with
    | 0 => match findFree c (ringSlots c r * c.n (brReg r 0x08C)) with
      | some base => rateOn r base c
      | none => err 0x19 0x20 b
    | code => err 0x19 code b
  else wr a new b
/-- At a restore a rate that does not fit stays disabled (R246). -/
def granRestore (b : Block) : Block :=
  let want := (List.range 4).filter fun r => b.t (brReg r 0x080) 31
  let off := forEach [0, 1, 2, 3] (fun r => modRate r fun _ => {}) b
  forEach want (fun r b => match enableCheck b r with
    | 0 => match findFree b (ringSlots b r * b.n (brReg r 0x08C)) with
      | some base => modRate r (fun _ => { on := true, base := base, n := ringSlots b r, from_ := b.mark }) b
      | none => b
    | code => b |> wbit (brReg r 0x080) 31 false |> err 0x19 code |> evr 0x315 r 0) off
/-- R252: a write that sets EN. -/
def execRateEnable (ag : Agent) (rate : Fin 4) (v : Word) (s : State) : Out :=
  s.run (cmdGateL ag 0x19 (0x080 + 0x40 * rate.val) (brCtlWrite rate.val (putBit v 31 true)))
/-- R252: a write that clears EN. -/
def execRateDisable (ag : Agent) (rate : Fin 4) (v : Word) (s : State) : Out :=
  s.run (cmdGateL ag 0x19 (0x080 + 0x40 * rate.val) (brCtlWrite rate.val (putBit v 31 false)))
/-- Ranges that overlap, or pass slot 8191 (R268). -/
def rangesBad : List (Nat × Nat) → Bool
  | [] => false
  | e :: l => 8192 < e.1 + e.2 || l.any (fun f => e.1 < f.1 + f.2 && f.1 < e.1 + e.2) || rangesBad l
/-- The staged words of a table entry, with committed words where none is staged (R41). -/
def stagedWords (b : Block) (a n : Nat) : List Word := (List.range n).map fun i => mget (b.r (a + 4 * i)) b.staged (a + 4 * i)
/-- Drops the staged words of a table entry. -/
def dropStaged (a n : Nat) (b : Block) : Block := { b with staged := b.staged.filter fun e => !(a ≤ e.1 && e.1 < a + 4 * n) }
/-- Stages a table word. -/
def stage (a : Nat) (v : Word) (b : Block) : Block := { b with staged := mins b.staged a v }
/-- R246: the staged ranges of a rate are checked and committed by R213. -/
def rangeCommit (r : Nat) (b : Block) : Block :=
  let a := brReg r 0x200
  let ws := stagedWords b a 16
  let c := wrList a ws b
  if rangesBad (rangesOf ws) then err 0x19 0x26 b
  else if (b.rate r).on && b.n (brReg r 0x08C) < baleSize (layoutNow c r) then err 0x19 0x21 b
  else b |> commitWords b.mark a ws |> dropStaged a 16
/-- A write of GR_RANGE_CMD: the lock does not hold it (R52, R266); a standby refuses to change shared ranges (R473). -/
def rangeCmd (v : Word) (b : Block) : Block := if b.sharedHeld 0x19 0x200 then err 0x19 0x01 b else rangeCommit (fld v 1 0) b
/-- R246. -/
def execRangeCommit (ag : Agent) (v : Word) (s : State) : Out := s.run (cmdGate ag 0x19 0x060 (rangeCmd v))

/-! The commands of opening and closing. -/

/-- Rates whose next bale the watermark has reached, with their instants (R247, R506). -/
def openDue (b : Block) : List (Nat × Gt) :=
  if !b.running || !b.time.valid || b.inReset 0x19 then [] else
  (List.range 4).filterMap fun r =>
    if (b.rate r).on && nextOpen b r ≤ b.mark then some (r, nextOpen b r) else none
/-- The earliest of a list of rates and instants, in rate order on equal instants. -/
def earliest (l : List (Nat × Gt)) : Option (Nat × Gt) :=
  l.foldl (fun o e => match o with
    | none => some e
    | some m => if e.2 < m.2 then some e else o) none
/-- R247. -/
def execBaleOpen (s : State) : Out :=
  s.run fun b => match earliest (openDue b) with
    | some (r, T) => openBale r T b
    | none => b
/-- Every due member has arrived (R248). -/
def Bale.full (x : Bale) : Bool := x.secs.all fun s => !s.due || x.arrived.contains s.slot
/-- R248. -/
def execBaleCompleteClose (s : State) : Out :=
  s.run fun b =>
    if !b.running || b.inReset 0x19 then b else
    match pickBale b (fun _ x => !x.closed && x.full) with
    | some (r, x) => b |> closeBale r x fCOMPLETE |> autoReplay r x.idx
    | none => b
/-- A bale's deadline has been reached by the watermark (R249). -/
def deadlineDue (b : Block) : Option (Nat × Bale) := pickBale b fun _ x => !x.closed && !x.full && x.deadline ≤ b.mark
/-- R249. -/
def execDeadlineClose (s : State) : Out :=
  s.run fun b =>
    if !b.running || b.inReset 0x19 then b else
    match deadlineDue b with
    | some (r, x) => b |> closeBale r x fDEADLINE |> autoReplay r x.idx
    | none => b
/-- Work of the ledger that comes before a stamp in Gleaner order: an opening at or before it, a full bale, a deadline
at or before it (R247–R249). -/
def ledgerFirst (b : Block) (stamp : Gt) : Bool :=
  (openDue b).any (fun e => e.2 ≤ stamp) || (pickBale b fun _ x => !x.closed && (x.full || x.deadline ≤ stamp)).isSome

/-! Values (R217, R240, R255, R257). -/

/-- The values of one block or local entry, ready for a section (R220–R224). -/
structure Values where
  quality : Nat
  freq : Int
  rocof : Int
  phasors : List (Int × Int)
  analogs : List Nat
  digitals : List Nat
deriving DecidableEq, Repr
/-- The bytes of a section with values (R243). -/
def sectionBytes (slot q : Nat) (stamp : Gt) (v : Values) : List Byte :=
  leBytes 2 slot ++ leBytes 2 q ++ leBytes 4 (pat 32 v.freq) ++ leBytes 4 (pat 32 v.rocof) ++ shortForm stamp
    ++ [BitVec.ofNat 8 v.phasors.length, BitVec.ofNat 8 v.analogs.length, BitVec.ofNat 8 v.digitals.length] ++ zeros 7
    ++ v.phasors.flatMap (fun p => leBytes 4 (pat 32 p.1) ++ leBytes 4 (pat 32 p.2))
    ++ v.analogs.flatMap (leBytes 4) ++ v.digitals.flatMap (leBytes 2)
/-- Rates in which a slot's value with instant T is stored (R240). -/
def ratesOf (b : Block) (slot : Nat) (T : Gt) : List Nat :=
  (List.range 4).filter fun r =>
    (b.rate r).on && inRanges (rangesOf (wordsAt b T (brReg r 0x200) 16)) slot && (instOf (b.rateHz r) T).isSome
/-- The bale of a rate with a bale time. -/
def baleAt (b : Block) (r : Nat) (T : Gt) : Option Bale := (b.rate r).bales.find? fun x => x.time = T
/-- A block repeats one already written for its slot and instant (R217). -/
def repeats (b : Block) (slot : Nat) (T : Gt) : Bool :=
  (ratesOf b slot T).any fun r => match baleAt b r T with
    | some x => x.arrived.contains slot || x.late.contains slot
    | none => false
/-- A LATE item (R258). -/
def lateItem (r : Nat) (stale : Bool) (slot idx : Nat) (T stamp deadline : Gt) : List Byte :=
  entry ([0x03, 0, BitVec.ofNat 8 (r + b01 stale * 128), 0] ++ leBytes 2 slot ++ [0, 0] ++ leBytes 4 idx ++ shortForm T
    ++ shortForm stamp ++ leBytes 4 (satU 32 ((stamp - deadline) / gtNs 1000)))
/-- A value written late into a closed bale (R255). -/
def lateWrite (r : Nat) (x : Bale) (slot : Nat) (bytes : List Byte) (stamp : Gt) (b : Block) : Block :=
  match secOfSlot x.secs slot with
  | none => b
  | some s =>
    let a := baleOfs b r x
    let q := (leAt bytes 2 2 ||| 0xC000) &&& 0xDFFF
    b |> granWrite (a + s.ofs) (splice bytes 2 (leBytes 2 q))
      |> granWrite (a + 48) (leBytes 2 (satU 16 (leAt (readBytes b.granMem (a + 48) 2) 0 2 + 1)))
      |> putBale r { x with late := x.late ++ [slot] }
      |> cnt (pg 0x19 (0x400 + 64 * r + 16))
      |> (fun b => siloPut 16 (lateItem r false slot x.idx x.time stamp x.deadline) b)
/-- A value reaches one rate: on time, late or stale (R248, R255, R257). -/
def storeIn (r slot : Nat) (T stamp : Gt) (bytes : List Byte) (b : Block) : Block :=
  match baleAt b r T with
  | some x =>
    if !x.closed then
      match secOfSlot x.secs slot with
      | some s =>
        if x.deadline ≤ stamp then
          -- the close comes first in Gleaner order, so no open bale takes a late value
          b
        else b |> granWrite (baleOfs b r x + s.ofs) bytes |> putBale r { x with arrived := x.arrived ++ [slot] }
      | none => b
    else match b.gran.replay with
    | some p =>
      if p.rate = r && p.bale.idx = x.idx then
        modGran (fun g => { g with replay := some { p with late := p.late ++ [(bytes, stamp)] } }) b
      else lateWrite r x slot bytes stamp b
    | none => lateWrite r x slot bytes stamp b
  | none =>
    let first := quiet b.gran.staleAt b
    b |> cnt (pg 0x19 (0x400 + 64 * r + 24)) |> onlyIf first (irq 0x19 0) |> modGran (fun g => { g with staleAt := some b.mono })
      |> siloPut 16 (lateItem r true slot (baleIndex (b.rateHz r) T) T stamp (T + gtMs (waitMs b r)))
/-- The values of a block reach every rate that stores them (R240). -/
def storeValues (slot : Nat) (T stamp : Gt) (v : Values) (b : Block) : Block :=
  let rs := ratesOf b slot T
  if rs.isEmpty then cnt (pg 0x19 0x500) b
  else forEach rs (fun r => storeIn r slot T stamp (sectionBytes slot v.quality stamp v)) b

/-! Uncorrectable errors on bale reads (R262). -/

/-- The detectors that still have a bale to read. -/
def readersLeft (b : Block) (r i : Nat) : Bool :=
  let has := fun (l : List BaleRef) => l.any fun x => x.rate == r && x.idx == i
  has b.gran.toOsc || has b.gran.toIsl || has b.gran.toAlm
/-- R262, R523: the error is counted and told. -/
def granUeTell (r i : Nat) (b : Block) : Block := b |> sramUe 0x19 |> cnt (pg 0x19 0x508) |> irq 0x19 3 |> evr 0x312 r i
/-- R262: with REPLAY_AUTO the bale is replayed, where it is open or a detector's read of it has not ended: one that waits, or
the read that met the error. -/
def granUeReplay (detector : Bool) (r i : Nat) (b : Block) : Block :=
  let due := ((b.rate r).bale i).any fun x => !x.closed || detector || readersLeft b r i
  onlyIf (b.t (pg 0x19 0x040) 8 && due) (replayStart r i 1) b
/-- R262: an error on one reader's own read. -/
def granUe (r i : Nat) (b : Block) : Block := b |> granUeTell r i |> granUeReplay false r i
/-- A bale as a reader sees it whose sections at some slots had the error: each reads INVALID. -/
def spoil (l : List Byte) (secs : List (Nat × Nat)) (bad : List Nat) : List Byte :=
  secs.foldl (fun l e => if bad.contains e.1 then splice l (e.2 + 2) (leBytes 2 (leAt l (e.2 + 2) 2 ||| 0x1000)) else l) l

/-- The bale whose ring position holds a byte of the Granary. -/
def baleOver (b : Block) (a : Nat) : Option (Nat × Nat) :=
  ((List.range 4).filterMap fun r =>
    ((b.rate r).bales.find? fun x => baleOfs b r x ≤ a && a < baleOfs b r x + b.n (brReg r 0x08C)).map fun x => (r, x.idx)).head?
/-- R262, R455: an uncorrectable error on an engine's or a capture's own read of n bytes. -/
def granReadUe (a : Nat) (b : Block) : Block := match baleOver b a with
  | some (r, i) => granUe r i b
  | none => sramUe 0x19 b

/-! Sections of a bale's bytes, as a reader walks them (R241). -/

/-- A section as read: slot, quality, FREQ, ROCOF, and its bytes. -/
structure SecView where
  slot : Nat
  quality : Nat
  freq : Int
  rocof : Int
  bytes : List Byte
deriving DecidableEq, Repr
/-- The section of bytes at an offset. -/
def secView (l : List Byte) (o : Nat) : SecView :=
  let n := secBytes (leAt l (o + 22) 1) (leAt l (o + 23) 1) (leAt l (o + 24) 1)
  { slot := leAt l o 2, quality := leAt l (o + 2) 2, freq := sgn 32 (leAt l (o + 4) 4), rocof := sgn 32 (leAt l (o + 8) 4),
    bytes := slice l o n }
/-- Walks n sections from an offset. -/
def walkSecs (l : List Byte) : Nat → Nat → List SecView
  | 0, _ => []
  | n + 1, o => let s := secView l o; s :: walkSecs l n (o + s.bytes.length)
/-- The sections of a bale. -/
def viewBale (l : List Byte) : List SecView := walkSecs l (leAt l 20 2) 64
/-- Offsets of the sections of a bale, by slot. -/
def secOffsets (l : List Byte) : List (Nat × Nat) :=
  ((viewBale l).foldl (fun (a : List (Nat × Nat) × Nat) s => (a.1 ++ [(s.slot, a.2)], a.2 + s.bytes.length)) ([], 64)).1
/-- Phasor p of a section, pu × 2^28. -/
def SecView.phasor (s : SecView) (p : Nat) : Int × Int :=
  (sgn 32 (leAt s.bytes (32 + 8 * p) 4), sgn 32 (leAt s.bytes (36 + 8 * p) 4))
/-- NPH of a section. -/
def SecView.nph (s : SecView) : Nat := leAt s.bytes 22 1
/-- NAN of a section. -/
def SecView.nan (s : SecView) : Nat := leAt s.bytes 23 1
/-- NDG of a section. -/
def SecView.ndg (s : SecView) : Nat := leAt s.bytes 24 1
/-- The bits of analog a. -/
def SecView.analog (s : SecView) (a : Nat) : Nat := leAt s.bytes (32 + 8 * s.nph + 4 * a) 4
/-- Digital word d. -/
def SecView.digital (s : SecView) (d : Nat) : Nat := leAt s.bytes (32 + 8 * s.nph + 4 * s.nan + 2 * d) 2
/-- ARRIVED, HELD, INVALID, NOT_DUE of a quality word. -/
def SecView.arrived (s : SecView) : Bool := s.quality.testBit 15
/-- HELD. -/
def SecView.held (s : SecView) : Bool := s.quality.testBit 13
/-- INVALID. -/
def SecView.invalid (s : SecView) : Bool := s.quality.testBit 12
/-- NOT_DUE. -/
def SecView.notDue (s : SecView) : Bool := s.quality.testBit 6
/-- What a reader takes of a bale: its bytes, those sections with an error marked INVALID, each error counted and told; a
detector's read may start a replay (R262). -/
def readBytesOf (detector : Bool) (x : BaleRef) (bad : List Nat) (b : Block) : List Byte × Block :=
  if bad.isEmpty then (x.bytes, b)
  else (spoil x.bytes (secOffsets x.bytes) bad,
    b |> forEach bad.eraseDups (fun _ => granUeTell x.rate x.idx) |> granUeReplay detector x.rate x.idx)
/-- The sections that a detector takes of a bale. -/
def readBale (x : BaleRef) (bad : List Nat) (b : Block) : List SecView × Block :=
  let (l, c) := readBytesOf true x bad b
  (viewBale l, c)

/-! Live registers of the GRAN page (R266). -/

/-- GR_DIR: the section offset of a slot in a rate's latest layout. -/
def granDir (b : Block) : Nat :=
  let r := b.f (pg 0x19 0x064) 17 16
  match secOfSlot (layoutNow b r) (b.f (pg 0x19 0x064) 12 0) with
  | some s => s.ofs
  | none => 0xFFFFFFFF
/-- What a GRAN register shows where it follows from the state. -/
def liveGran (b : Block) (o : Nat) : Option Nat :=
  if o = 0x044 then some (sumN ((ringsHeld b).map (·.2)))
  else if o = 0x048 then some (largestFree b)
  else if o = 0x068 then some (granDir b)
  else if 0x080 ≤ o && o < 0x180 then
    let r := (o - 0x080) / 0x40
    let s := b.rate r
    match (o - 0x080) % 0x40 with
    | 0x10 => some s.base
    | 0x14 => some s.n
    | 0x18 => some (baleSize (layoutNow b r))
    | 0x28 => some s.gen
    | 0x2C => some s.opens.length
    | _ => none
  else none

end Sys2Proof.Machine
end

