-- ==== Sys2Proof/Machine/Chain.lean ====
section
/-! DEFINITION. Disturbances and settling of the Winnow chain and the resampler (R303, R304). -/

namespace Sys2Proof.Machine
open Sys2Proof

/-- Changes acquisition and estimation. -/
def modChain (f : ChainSt → ChainSt) (b : Block) : Block := { b with chain := f b.chain }
/-- TQ is noted where it changes (R142). -/
def noteTq (b : Block) : Block :=
  let cur := b.tq
  if (b.chain.tqLog.head?.map (·.2)) == some cur then b
  else modChain (fun s => { s with tqLog := ((b.now, cur) :: s.tqLog).take 64 }) b
/-- A field channel by its number. -/
def Block.chan (b : Block) (c : Nat) : ChanSt := (b.chain.chans[c]?).getD {}
/-- Changes one field channel. -/
def modChan (c : Nat) (f : ChanSt → ChanSt) (b : Block) : Block :=
  if h : c < 16 then modChain (fun s => { s with chans := s.chans.set c (f s.chans[c]) }) b else b
/-- An SV source at the resampler. -/
def Block.svSt (b : Block) (v : Nat) : SvSt := mget {} b.chain.sv v
/-- Changes an SV source's state. -/
def modSv (v : Nat) (f : SvSt → SvSt) (b : Block) : Block := modChain (fun s => { s with sv := mins s.sv v (f (mget {} s.sv v)) }) b
/-- An estimator channel. -/
def Block.estCh (b : Block) (c : Nat) : EstCh := mget {} b.chain.est c
/-- Changes an estimator channel. -/
def modEst (c : Nat) (f : EstCh → EstCh) (b : Block) : Block := modChain (fun s => { s with est := mins s.est c (f (mget {} s.est c)) }) b

/-- First address of bank k (0 = A) of a coefficient set (R299). -/
def bankAddr (set k : Nat) : Nat := 0x300000 + set * 0x2000 + k * 0x1000
/-- The active bank of a set. -/
def activeBank (b : Block) (set : Nat) : Nat := b01 (b.t (pg 0x22 0x054) set)
/-- Tap count of stage n (2–4) in a bank. -/
def bankTaps (b : Block) (bank n : Nat) : Nat := b.f (bank + 0xC00 + 4 * (n - 2)) 8 0
/-- W_CH_CTL.SET of a channel. -/
def chanSet (b : Block) (c : Nat) : Nat := b.f (pg 0x22 (0x100 + 4 * c)) 18 16
/-- The active bank's address of a channel's set. -/
def chanBank (b : Block) (c : Nat) : Nat := bankAddr (chanSet b c) (activeBank b (chanSet b c))
/-- A field channel is disturbed: every stage settles anew (R303). -/
def disturb (c : Nat) (b : Block) : Block :=
  let k := chanBank b c
  modChan c (fun s => { s with s1 := 36, s2 := bankTaps b k 2, s3 := bankTaps b k 3, s4 := bankTaps b k 4, pRel := false, wRel := false }) b
/-- An SV source is disturbed (R303, R304). -/
def disturbSv (v : Nat) (b : Block) : Block := modSv v (fun s => { s with settle := 32 }) b
/-- SV sources in use. -/
def svOn (b : Block) : List Nat := those 64 fun v => b.t (pg 0x18 (0x400 + 16 * v)) 31
/-- A disturbance of every field channel. -/
def disturbField (b : Block) : Block := forEach (List.range 16) disturb b
/-- A disturbance of everything: a time step, a SYNC_IN error, a change of SRC (R304); the slice grids start anew. -/
def chainDisturbAll (b : Block) : Block :=
  b |> disturbField |> forEach (svOn b) disturbSv
    |> modChain (fun s =>
        { s with conv := none, slice := none, rsAt := none, ends := [], sv := s.sv.map fun e => (e.1, { e.2 with need := none }) })
/-- The P path of a channel is suppressed. -/
def ChanSt.pSupp (s : ChanSt) : Bool := !s.pRel
/-- The W path of a channel is suppressed. -/
def ChanSt.wSupp (s : ChanSt) : Bool := !s.wRel
/-- The channel converts. -/
def ChanSt.on (s : ChanSt) : Bool := bitAt s.ctl 31
/-- GAIN as a factor: 1, 2, 4. -/
def ChanSt.gain (s : ChanSt) : Nat := 2 ^ min (fld s.ctl 9 8) 2

end Sys2Proof.Machine
end

