-- ==== Sys2Proof/Machine/Keys.lean ====
section
/-! DEFINITION. The key store, the owner session and tamper response (R556–R577). -/

namespace Sys2Proof.Machine
open Sys2Proof

/-- The bytes of a text. -/
def ascii (t : String) : List Byte := t.toList.map fun c => BitVec.ofNat 8 c.toNat
/-- KEY counter i (R579). -/
def keyCnt (i : Nat) : Nat := pg 0x68 (0x700 + 8 * i)
/-- Changes the key store. -/
def modKeys (f : Keys → Keys) (b : Block) : Block := { b with keys := f b.keys }
/-- USE, KIND, LEN of a descriptor (R579). -/
def descUse (d : Word) : Nat := fld d 27 24
/-- KIND: 0 derived, 1 imported, 2 public. -/
def descKind (d : Word) : Nat := fld d 21 20
/-- LEN code. -/
def descLen (d : Word) : Nat := fld d 18 16
/-- Bits of a LEN code of a symmetric key. -/
def lenBits (c : Nat) : Nat := if c = 0 then 128 else if c = 1 then 256 else 384
/-- USE, KIND and LEN go together as R559 allows. -/
def descOk (d : Word) : Bool :=
  let u := descUse d
  let l := descLen d
  let sym := descKind d ≤ 1
  if u = 1 || u = 3 || u = 5 then sym && l = 1
  else if u = 2 then sym && l = 2
  else if u = 4 then sym && (l = 0 || l = 1)
  else if u = 7 then descKind d = 2 && l = 4 && descParent d = 0x100
  else false

/-- n bytes of the counter-mode derivation of R561 from block i on. -/
def kdfFrom (kp msg : List Byte) : Nat → Nat → List Byte
  | 0, _ => []
  | f + 1, i => Config.hmac384 kp (beBytes 4 i ++ msg) ++ kdfFrom kp msg f (i + 1)
/-- The first L bits of the derivation (R561). -/
def kdf (kp label : List Byte) (slot gen bitsL : Nat) : List Byte :=
  let msg := padTo 32 label ++ [0] ++ beBytes 8 Config.deviceId.toNat ++ beBytes 1 slot ++ beBytes 4 gen ++ beBytes 4 bitsL
  padTo (bitsL / 8) (kdfFrom kp msg 2 1)
/-- The device attestation key under a root (R558). -/
def dakOf (root : List Byte) : List Byte := Config.scalarOf (kdf root (ascii "GI-W8K-DAK") 0 0 448)
/-- KEYID of a key, or of a public point (R566). -/
def keyIdOf (kind : Nat) (key : List Byte) : Word :=
  w32 (leAt (if kind = 2 then Config.sha384 key else Config.hmac384 key (ascii "GI-KID")) 0 4)
/-- The key of a slot's copy under its parent's key; none where the unwrapping fails. -/
def keyOfCopy (parentKey : List Byte) (slot : Nat) (c : KeyCopy) : Option (List Byte) :=
  match descKind c.desc with
  | 0 => some (kdf parentKey c.label slot c.gen (lenBits (descLen c.desc)))
  | 1 => Config.kwUnwrap parentKey (c.data.take (lenBits (descLen c.desc) / 8 + 8))
  | _ => some (padTo 97 c.data)
/-- The key a slot's parent has now. -/
def Keys.parentKey (k : Keys) (d : Word) : List Byte := if descParent d = 0x100 then k.root else (k.slot (descParent d)).key

/-- A use of a slot for a purpose: the key where the chain holds and the USE is right, counted either way (R560, R563). -/
def keyUse (slot use : Nat) (b : Block) : Option (List Byte) × Block :=
  let t := b.keys.slot slot
  let ok := if slot = 0 then use = 6 && b.keys.rootOk else keyChain b.keys 5 slot && descUse t.desc = use
  if ok then (some t.key, cnt (keyCnt 0) b) else (none, b |> cnt (keyCnt 0) |> cnt (keyCnt 1))

/-- The key of a working slot formed again from its current copy, its parent's key as it stands (R566). -/
def rekeySlot (k : Keys) (e : Nat × KeySlot) : Nat × KeySlot :=
  match e.2.commit.bind (fun c => e.2.copies[c.copy]?) with
  | some cp => (e.1, { e.2 with key := (keyOfCopy (k.parentKey cp.desc) e.1 cp).getD [] })
  | none => e
/-- One round over the slots: keys whose parents stand come out right. -/
def rekey (k : Keys) : Keys := { k with slots := k.slots.map (rekeySlot k) }
/-- The working keys are formed again from the journal, by depth (R566). -/
def restoreKeys (k : Keys) : Keys :=
  let live := k.slots.filterMap fun (i, t) =>
    match t.commit with
    | some c => (t.copies[c.copy]?).map fun cp =>
        (i, { t with st := c.st, desc := cp.desc, gen := c.gen, pgen := c.pgen, keyid := c.keyid, key := [] })
    | none => none
  let k0 := { k with slots := live }
  rekey (rekey (rekey (rekey k0)))
/-- The root stands: the DAK and the slots follow it. -/
def rootStands (k : Keys) : Keys :=
  let root := Config.rootSecret k.enrol
  let k2 := restoreKeys { k with rootOk := true, lockedOut := false, root := root }
  { k2 with slots := mins k2.slots 0 { key := dakOf root, st := 1, desc := w32 0x06030100, keyid := keyIdOf 0 (dakOf root) } }
/-- The reads of R556: up to eight, the first that reproduces V; needs a helper copy that is good. -/
def pufTry (helper : Bool) : List PufRead → Nat → Option (Nat × Nat)
  | [], _ => none
  | r :: l, n => if 8 ≤ n then none else if r.ok && helper then some (n + 1, r.ber) else pufTry helper l (n + 1)
/-- Slots whose commit record or named copy fails its check are restored empty, each with its record (R566). -/
def dropSlots (bad : BitVec 256) (b : Block) : Block :=
  let gone := (List.range 256).filter fun i => i != 0 && bad.getLsbD i && (b.keys.slot i).commit.isSome
  b |> modKeys (fun k => { k with slots := k.slots.filter fun e => !gone.contains e.1 }) |> forEach gone fun i => evr 0x90C i 0
/-- The root is regenerated from the PUF, unless the tamper latch holds (R556, R574). -/
def regenerate (reads : List PufRead) (bad : BitVec 256) (b : Block) : Block :=
  let k := b.keys
  if k.latched then modKeys (fun k => { k with rootOk := false, lockedOut := true, root := [] }) b else
  match pufTry (k.helper.any id) reads 0 with
  | some (n, ber) =>
    b |> dropSlots bad |> modKeys (fun k => { rootStands k with reads := n, ber := ber % 2 ^ 16 }) |> stsBit 0x68 3 false |> irq 0x68 2
      |> onlyIf (800 < ber) (evr 0x907 ber 0)
  | none =>
    b |> modKeys (fun k => { k with rootOk := false, root := [], reads := min 8 reads.length }) |> setFault 0x68 |> irq 0x68 2
      |> evr 0x906 (min 8 reads.length) 0

/-- A refused key-store command (R580). -/
def ksRefuse (code : Nat) (b : Block) : Block := b |> modKeys (fun k => { k with ksResult := code }) |> err 0x68 code
/-- The slot KS_IDX names. -/
def ksIdx (b : Block) : Nat := b.n (pg 0x68 0x040) % 256
/-- KS_DATA as bytes. -/
def ksData (b : Block) : List Byte := bytesOfWords ((List.range 32).map fun i => b.r (pg 0x68 (0x200 + 4 * i)))
/-- The checks every slot command shares; none where they pass. The slot's descriptor as it stands and the one to come both ask for
the session (R565; DEDUCED 221). -/
def ksCheck (guard : Half) (desc : Word) (b : Block) : Option Nat :=
  let d := (b.keys.slot (ksIdx b)).desc
  if guard != 0x4B53 then some 0x20
  else if b.keys.write.isSome then some 0x29
  else if ksIdx b = 0 then some 0x25
  else if [desc, d].any (fun x => [1, 2, 7].contains (descUse x) || descParent x = 0x100) && b.keys.session.isNone then some 0x24
  else none
/-- The parent of a written slot may be its parent, and its chain holds (R559). -/
def parentOk (k : Keys) (d : Word) : Bool :=
  let p := descParent d
  if p = 0x100 then descKind d != 1
  else if descKind d = 2 || 0x100 < p || p = 0 then false
  else
    let u := descUse (k.slot p).desc
    keyChain k 5 p && (if descKind d = 0 then u = 2 else u = 1) && keyDepth k 5 p < 3
/-- KS_CMD op 1 (R565). -/
def ksWrite (guard : Half) (b : Block) : Block :=
  let d := b.r (pg 0x68 0x054)
  let s := ksIdx b
  match ksCheck guard d b with
  | some c => ksRefuse c b
  | none =>
    if !b.keys.rootOk then ksRefuse 0x26 b
    else if !descOk d then ksRefuse 0x22 b
    else if !parentOk b.keys d then ksRefuse 0x21 b
    else
      let g := (b.keys.slot s).gen + 1
      let cp : KeyCopy := ⟨g, d, padTo 32 (ksData b), ksData b⟩
      if descKind d = 2 && !Config.onCurve (padTo 97 (ksData b)) then ksRefuse 0x22 b else
      match keyOfCopy (b.keys.parentKey d) s cp with
      | none => ksRefuse 0x23 b
      | some key =>
        let pg_ := if descParent d = 0x100 then 0 else (b.keys.slot (descParent d)).gen
        { b with supply := { b.supply with waits := if b.supply.brace then b.supply.waits ++ [.key] else b.supply.waits } }
          |> modKeys fun k => { k with
            write := some ⟨s, cp, pg_, keyIdOf (descKind d) key, key⟩, deferred := b.supply.brace, ksResult := 0 }
/-- R565. -/
def execKsCmdWrite (ag : Agent) (guard : Half) (s : State) : Out := s.run (cmdGateL ag 0x68 0x058 (ksWrite guard))

/-- The two copies of a slot with one replaced. -/
def putCopy (l : List KeyCopy) (i : Nat) (c : KeyCopy) : List KeyCopy :=
  if i = 0 then c :: l.drop 1 else [nth l 0 c, c]
/-- The copy and the commit record of a write stand, and the working slot follows (R565). -/
def keyWriteDone (b : Block) : Block :=
  match b.keys.write with
  | none => b
  | some w =>
    let t := b.keys.slot w.slot
    let i := match t.commit with
      | some c => 1 - c.copy
      | none => 0
    let t2 : KeySlot := { copies := putCopy t.copies i w.copy, commit := some ⟨i, 1, w.copy.gen, w.pgen, w.keyid⟩,
                          st := 1, desc := w.copy.desc, gen := w.copy.gen, pgen := w.pgen, keyid := w.keyid, key := w.key }
    b |> modKeys (fun k => { k with slots := mins k.slots w.slot t2, write := none, deferred := false, ksResult := 0 })
      |> cnt (pg 0x78 0x110) |> evr 0x908 w.slot w.copy.gen |> irq 0x68 0
/-- The copy is written while brace holds new writes back: the commit record is such a write and waits (R98, R565, and the
example after R566). -/
def keyCopyDone (b : Block) : Block :=
  match b.keys.write with
  | none => b
  | some w =>
    let t := b.keys.slot w.slot
    let i := match t.commit with
      | some c => 1 - c.copy
      | none => 0
    { b with supply := { b.supply with waits := b.supply.waits ++ [.key] } }
      |> modKeys fun k => { k with slots := mins k.slots w.slot { t with copies := putCopy t.copies i w.copy }, deferred := true }
/-- R565: not while brace defers the write. -/
def execKeySlotWriteDone (s : State) : Out :=
  s.run fun b => if b.keys.deferred then b else if b.supply.brace then keyCopyDone b else keyWriteDone b

/-- A slot is revoked (STATE 2) or erased (STATE 0); its GEN increases (R563). -/
def ksEnd (guard : Half) (st : Nat) (b : Block) : Block :=
  let s := ksIdx b
  let t := b.keys.slot s
  match ksCheck guard t.desc b with
  | some c => ksRefuse c b
  | none =>
    let g := t.gen + 1
    let t2 : KeySlot := { t with
      st := st, gen := g, key := [], desc := if st = 0 then 0 else t.desc, keyid := if st = 0 then 0 else t.keyid,
      commit := t.commit.map fun c => { c with st := st, gen := g } }
    b |> modKeys (fun k => { k with slots := mins k.slots s t2, ksResult := 0 }) |> cnt (pg 0x78 0x110)
      |> evr 0x909 s (b01 (st == 0)) |> irq 0x68 0
/-- R563. -/
def execKsCmdRevoke (ag : Agent) (guard : Half) (s : State) : Out := s.run (cmdGateL ag 0x68 0x058 (ksEnd guard 2))
/-- R563. -/
def execKsCmdErase (ag : Agent) (guard : Half) (s : State) : Out := s.run (cmdGateL ag 0x68 0x058 (ksEnd guard 0))

/-! Owner session (R567–R569). -/

/-- A read of OWN_CHAL draws a fresh challenge, unless the wait of R568 runs. -/
def ownChal (ag : Agent) (b : Block) : Block :=
  if b.mono < b.keys.chalFrom then answer ag (w32 (wordAt b.keys.chalWords 0)) b else
  let c := padTo 32 (Config.drbg b.freeCtr)
  b |> usedFree |> modKeys (fun k => { k with chal := some c, chalWords := c }) |> answer ag (w32 (wordAt c 0))
/-- R567. -/
def execOwnChalRead (ag : Agent) (s : State) : Out := s.run (byAgent ag fun b => if b.powered 0x68 then ownChal ag b else b)

/-- An owner attempt begins: op 1 or op 3 (R567, R568). -/
def ownTry (guard : Half) (op : Nat) (b : Block) : Block :=
  if guard != 0x4F57 then err 0x68 0x20 b
  else if op = 3 && b.keys.session.isNone then err 0x68 0x24 b
  else if b.keys.verifying.isSome then err 0x68 0x29 b
  else match b.keys.chal with
    | none => err 0x68 0x28 b
    | some c =>
      if b.mono < b.keys.chalFrom then err 0x68 0x28 b else
      let buf := bytesOfWords ((List.range 64).map fun i => b.r (pg 0x68 (0x280 + 4 * i)))
      modKeys (fun k => { k with chal := none, verifying := some ⟨op, slice buf 0 97, slice buf 100 96, c⟩ }) b
/-- R567. -/
def execOwnCmdOpen (ag : Agent) (guard : Half) (s : State) : Out := s.run (cmdGate ag 0x68 0x068 (ownTry guard 1))
/-- R568. -/
def execOwnCmdReanchor (ag : Agent) (guard : Half) (s : State) : Out := s.run (cmdGate ag 0x68 0x068 (ownTry guard 3))

/-- A session ends: the record, and LOCK = 1 in every page whose lock is open (R569). -/
def endSession (cause : Nat) (b : Block) : Block :=
  if b.keys.session.isNone then b else
  b |> modKeys (fun k => { k with session := none }) |> evr 0x904 cause 0
    |> forEach allPages fun p b => if b.locked p then b else wbit (pg p 0x028) 0 true b
/-- OWN_CMD op 2. -/
def ownClose (guard : Half) (b : Block) : Block := if guard != 0x4F57 then err 0x68 0x20 b else endSession 0 b
/-- R569. -/
def execOwnCmdClose (ag : Agent) (guard : Half) (s : State) : Out := s.run (cmdGate ag 0x68 0x068 (ownClose guard))
/-- R569: OWN_TTL seconds have passed. -/
def execOwnSessionTimeout (s : State) : Out :=
  s.run fun b => match b.keys.session with
    | some e => if e ≤ b.mono then endSession 1 b else b
    | none => b

/-- What an owner signature is over (R567). -/
def ownDigest (t : OwnTry) : List Byte :=
  Config.sha384 (ascii "GI-W8K-OWN" ++ beBytes 8 Config.deviceId.toNat ++ t.chal ++ beBytes 1 t.op)
/-- Verification ends (R567, R568). -/
def ownVerified (b : Block) : Block :=
  match b.keys.verifying with
  | none => b
  | some t =>
    let h := Config.sha384 t.point
    let sigOk := Config.ecdsaVerify t.point (ownDigest t) t.sig
    let unclaimed := b.keys.anchor == zeros 48
    let b1 := modKeys (fun k => { k with verifying := none }) b
    let good := sigOk && (if t.op = 3 then b.keys.session.isSome else unclaimed || h == b.keys.anchor)
    if good && t.op = 3 then
      b1 |> modKeys (fun k => { k with anchor := h, fails := 0 }) |> evr 0x90A 0 0
    else if good then
      b1 |> modKeys (fun k => { k with
          session := some (b.mono + b.f (pg 0x68 0x06C) 11 0 * gtSec), fails := 0, anchor := if unclaimed then h else k.anchor })
        |> evr 0x903 (b01 unclaimed) 0
    else
      let f := b.keys.fails + 1
      b1 |> modKeys (fun k => { k with fails := f, chalFrom := b.mono + min (2 ^ (f - 1)) 4096 * gtSec })
        |> evr 0x905 f 0 |> err 0x68 0x27 |> cnt (keyCnt 3)
/-- R567. -/
def execOwnerSessionVerifyDone (s : State) : Out := s.run ownVerified

/-- The nonce of an agent. -/
def nonceOf (g : AgentSt) : List Byte := (List.range 8).flatMap fun i => leBytes 4 (mget 0 g.attNonce i).toNat
/-- A refused request: its code, in PG_ERR and as the agent's result (R579, R580). -/
def attRefuse (ag : Agent) (code : Nat) (b : Block) : Block :=
  b |> modAgent ag (fun g => { g with attSts := (g.attSts &&& ~~~0xFF#32) ||| w32 code }) |> err 0x68 code
/-- A statement is asked for by an agent, over its nonce as it stands now (R570). -/
def attRequest (ag : Agent) (guard : Half) (b : Block) : Block :=
  let host := ag == .host
  let e := (host, nonceOf (b.agent ag))
  if guard != 0x4154 then attRefuse ag 0x20 b
  else if !b.keys.rootOk then attRefuse ag 0x26 b
  else if b.keys.signing.any (fun e => e.1 == host) then attRefuse ag 0x29 b
  else
    -- the request that is being served stays first; of those that wait, the host goes first
    let q := match b.keys.signing with
      | [] => [e]
      | x :: l => if host then x :: e :: l else x :: l ++ [e]
    b |> modKeys (fun k => { k with signing := q })
      |> modAgent ag (fun g => { g with attSts := putBit g.attSts 30 false })
/-- R570. -/
def execAttReqSign (ag : Agent) (guard : Half) (s : State) : Out := s.run (cmdGate ag 0x68 0x120 (attRequest ag guard))

/-! Tamper (R572–R576). -/

/-- A source counts: enabled, and for sources 2–5 armed since 1 ms after a cold reset (R572). -/
def tampCounts (b : Block) (i : Fin 6) : Bool :=
  if i.val < 2 then b.t (pg 0x7C 0x040) i.val
  else match b.keys.armedFrom with
    | some t => decide (t + gtMs 1 ≤ b.mono)
    | none => false
/-- Keys, root and sessions are zeroized (R573). -/
def zeroize (b : Block) : Block :=
  modKeys (fun k => { k with
    rootOk := false, root := [], write := none, deferred := false, chal := none, signing := [],
    slots := k.slots.map fun (i, t) => (i, { t with key := [] }) }) b
/-- The tamper line acts (R573). -/
def tamper (i : Fin 6) (b : Block) : Block :=
  let k := b.keys
  let b0 := modKeys (fun k => { k with live := k.live ||| (1#6 <<< i.val) }) b
  if !tampCounts b i then b0 else
  let c2 := k.class2 || b.t (pg 0x7C 0x040) (24 + i.val)
  let cause := k.cause ||| (1#6 <<< i.val)
  b0 |> zeroize |> endSession 2
    |> modKeys (fun k => { k with
        latched := true, class2 := c2, cause := cause, erasePend := k.erasePend || (c2 && !k.class2),
        tampAt := if k.latched then k.tampAt else b.now, tampCount := if k.latched then k.tampCount else k.tampCount + 1 })
    |> (fun b => { b with balls := { b.balls with tmpOutN := false } })
    |> sbAlert 3 |> irq 0x7C 0 |> evr 0x900 cause.toNat (if c2 then 2 else 1)
/-- R573: acts in every state with the always-on supply, resets included (R76). -/
def execTamperAssert (source : Fin 6) (s : State) : Out :=
  s.run fun b => if b.dev.st == .off then b else tamper source b
/-- R575: the helper data and the slot journal have been written with zeros. -/
def execTamperEraseDone (s : State) : Out :=
  s.run fun b => if !b.keys.erasePend || b.dev.st == .off then b else
    modKeys (fun k => { k with erasePend := false, helper := [false, false], slots := [] }) b
/-- TAMP_CLEAR (R576). -/
def tampClear (guard : Half) (live : BitVec 6) (b : Block) : Block :=
  let b1 := modKeys (fun k => { k with live := live }) b
  let en := BitVec.ofNat 6 (b.f (pg 0x7C 0x040) 5 0) ||| 0b111100#6
  if guard != 0x5443 then err 0x7C 0x23 b1
  else if b.keys.session.isNone then err 0x7C 0x20 b1
  else if live &&& en != 0 then err 0x7C 0x22 b1
  else if !b.keys.latched then b1
  else
    b1 |> modKeys (fun k => { k with
        latched := false, clearing := some (if k.class2 then 2 else 1), class2 := false, cause := 0, lockedOut := false })
      |> (fun b => { b with balls := { b.balls with tmpOutN := true } }) |> irq 0x7C 1
/-- R576. -/
def execTampClear (ag : Agent) (guard : Half) (live : BitVec 6) (s : State) : Out :=
  s.run (cmdGate ag 0x7C 0x064 (tampClear guard live))
/-- R576: regeneration after class 1, or the enrolment of a new root after class 2, completes. -/
def execRootEnrolmentDone (reads : List PufRead) (s : State) : Out :=
  s.run fun b => match b.keys.clearing with
    | none => b
    | some c =>
      let b1 := modKeys (fun k => { k with clearing := none }) b
      if c = 1 then b1 |> regenerate reads 0 |> fun d => onlyIf d.keys.rootOk (evr 0x901 0 0) d
      else
        let b2 := modKeys (fun k => { rootStands { k with enrol := k.enrol + 1, slots := [] } with
          helper := [true, true], reEnrolled := true, reads := min 16 reads.length }) b1
        b2 |> irq 0x68 2 |> evr 0x902 (b2.keys.slot 0).keyid.toNat 0

end Sys2Proof.Machine
end

