-- ==== Sys2Proof/Machine/Time.lean ====
section
/-! DEFINITION. Grid time: the counter, its sources and servo, PPS, time of day, IRIG-B, the UTC offset and the
sample-pulse generator (R112–R144). -/

namespace Sys2Proof.Machine
open Sys2Proof

/-- Changes the timebase. -/
def modTime (f : TimeSt → TimeSt) (b : Block) : Block := { b with time := f b.time }
/-- Changes one phase source. -/
def modSrc (i : Fin 3) (f : Src → Src) (b : Block) : Block :=
  modTime (fun t => { t with srcs := t.srcs.set i (f t.srcs[i]) }) b
/-- One ppm of FREQ_ADJ, as a fraction of 200: ±200 ppm is 45,035,996,273 units (R116). -/
def ppmUnits (ppm : Nat) : Int := rndHE (ppm * 45035996273 : Nat) 200
/-- FREQ_ADJ within ±200 ppm (R116). -/
def clampAdj (a : Int) : Int := clampI (-45035996273) 45035996273 a
/-- A new FREQ_ADJ; while a source is selected its history is kept for the holdover mean (R126). -/
def setAdj (a : Int) (b : Block) : Block :=
  let v := clampAdj a
  modTime (fun t => { t with
    freqAdj := v, adjHist := if t.selected = 0 then t.adjHist else (b.mono, v) :: t.adjHist }) b
/-- The counter's increment at a tick, 2^-48 ns (R116). -/
def tickStep (b : Block) : Nat := (225179981368525 + b.time.freqAdj).toNat
/-- Time-weighted sum of FREQ_ADJ from a start to an end over a history, newest first. -/
def adjSum (start : Gt) : Gt → List (Gt × Int) → Int
  | _, [] => 0
  | stop, (t, a) :: l => a * ((stop - max t start : Nat) : Int) + (if t ≤ start then 0 else adjSum start t l)
/-- The mean of FREQ_ADJ over the last HOLD_AVG seconds of selection (R126). -/
def holdMean (b : Block) : Int :=
  match b.time.adjHist.getLast? with
  | none => b.time.freqAdj
  | some (first, _) =>
    let start := max first (b.mono - b.f (pg 0x02 0x048) 31 16 * gtSec)
    if b.mono ≤ start then b.time.freqAdj else rndHE (adjSum start b.mono b.time.adjHist) (b.mono - start)
/-- REF_CTL's nominal frequency, mHz. -/
def refNominal (b : Block) : Nat := b.f (pg 0x02 0x05C) 16 0 * 1000000
/-- FREQ_ADJ at which the counter would measure REF_IN's frequency as nominal (R126). -/
def refSteer (b : Block) (millihertz : Nat) : Int :=
  b.time.freqAdj + rndHE (((millihertz : Int) - refNominal b) * 225179981368525) (refNominal b)
/-- Holdover begins (R126): FREQ_ADJ is held at its mean, or as it is when no source was ever selected; with REF_IN in
range it follows REF_IN instead. -/
def enterHoldover (b : Block) : Block :=
  let a := match b.time.refOk && b.t (pg 0x02 0x044) 16, b.time.refLast with
    | true, some m => refSteer b m
    | _, _ => if b.time.everSelected then holdMean b else b.time.freqAdj
  b |> modTime (fun t => { t with holdover := true, freqAdj := clampAdj a, locked := false, slewEnd := none, adjHist := [] })
    |> fun b => evr 0x102 b.errEst 0 b
/-- Delivers UTC and not TAI (R119): IRIG-B, and PPS with NMEA. -/
def srcIsUtc (b : Block) (i : Nat) : Bool := i = 2 || (i = 1 && b.t (pg 0x02 0x0DC) 8)
/-- The priority list (R121). -/
def priList (b : Block) : List Nat := [b.f (pg 0x02 0x044) 3 0, b.f (pg 0x02 0x044) 7 4, b.f (pg 0x02 0x044) 11 8]
/-- The first qualified source of the list; one that delivers UTC needs a valid UTC offset (R121, R122). -/
def bestSrc (b : Block) : Nat :=
  ((priList b).find? fun c => 1 ≤ c && c ≤ 3 &&
    (match b.time.srcs[c - 1]? with | some s => s.st == .qualified | none => false) &&
    (!srcIsUtc b (c - 1) || (b.delta).isSome)).getD 0
/-- LOCKED (R128): a source is selected, its latest reading came within two reading intervals of 1 s, and nothing slews. -/
def relock (b : Block) : Block :=
  modTime (fun t => { t with
    locked := t.slewEnd.isNone && b.srcNow.any fun s => s.last.isSome && decide (b.mono < s.lastAt + 2 * gtSec) }) b
/-- Selection follows the list; every change is recorded, and holdover begins or ends with it (R121, R126). A change to no
source that no record 0x101 tells of writes record 0x100 with code 0 (DESIGN CHOICE 192). -/
def reselectBy (told : Bool) (b : Block) : Block :=
  let c := bestSrc b
  let old := b.time.selected.val
  if c = old then b
  else if h : c < 4 ∧ c ≠ 0 then
    let i : Nat := c - 1
    let last := ((b.time.srcs[i]?).bind (·.last)).getD 0
    let b1 := b |> evr 0x100 c 0
      |> modTime (fun t => { t with
          selected := ⟨c, h.1⟩, everSelected := true, setByHost := false, stepWait := none, adjHist := [(b.mono, t.freqAdj)],
          heldAdj := if t.slewEnd.isSome then t.heldAdj else t.freqAdj,
          srcs := t.srcs.map fun s => { s with hist := [] } })
    relock (if b.time.holdover then
      b1 |> modTime (fun t => { t with holdover := false }) |> evr 0x103 (sarg (rndHE last 65536)) 0
    else b1)
  else
    let b1 := b |> modTime (fun t => { t with selected := 0, locked := false, stepWait := none }) |> onlyIf (!told) (evr 0x100 0 0)
    if b.time.valid then enterHoldover b1 else b1
/-- The same for a change of the list or of the UTC offset. -/
def reselect (b : Block) : Block := reselectBy false b
/-- A source is disqualified (R120): cause 0 lost, 1 jump, 2 offset above the step threshold. -/
def disqualify (i : Fin 3) (cause : Nat) (b : Block) : Block :=
  let was := b.time.srcs[i].st == .qualified
  b |> modSrc i (fun s => { s with st := .disqualified, last := none, above := none, fresh := false })
    |> onlyIf was (evr 0x101 (i.val + 1) cause) |> reselectBy was

/-- Mean of readings, rounded half to even. -/
def meanI (l : List Int) : Int := if l.isEmpty then 0 else rndHE (sumI l) l.length
/-- The standard deviation of readings, rounded up to 2^-16 ns; 0 for one reading (R127). -/
def devI (l : List Int) : Nat :=
  let n := l.length
  if n < 2 then 0 else
  let s := sumI l
  let q := sumI (l.map fun x => x * x)
  -- n² σ² = n Σx² − (Σx)²
  let v := (n * q - s * s).toNat
  let r := isqrt v
  ceilDiv (if r * r = v then r else r + 1) n
/-- E at a reading, 2^-16 ns: |m| + 3σ + the declared inaccuracy + 60 ps (R127). -/
def estimateE (m : Int) (dev inaccNs : Nat) : Nat := m.natAbs + 3 * dev + inaccNs * 65536 + ceilDiv (60 * 65536) 1000
/-- The ordinary correction moves the rate by at most 0.1 ppm; its size is open, so it is a free value (R123). -/
def ordinaryStep (b : Block) : Int := clampI (-22517998) 22517998 (Config.freeInt b.freeCtr)
/-- m, σ and E from the kept readings of a source, at a reading or at a slew's end (R127). -/
def formE (i : Fin 3) (b : Block) : Block :=
  let s := b.time.srcs[i]
  let l := s.hist.map (·.2)
  modTime (fun t => { t with eAt := estimateE (meanI l) (devI l) s.inacc, eFrom := b.now }) b
/-- The servo at a reading of the selected source with filtered offset m (R123, R127, R128). The held frequency is FREQ_ADJ as
it was when the source was selected (DEDUCED 193). -/
def servo (i : Fin 3) (b : Block) : Block :=
  let s := b.time.srcs[i]
  let m := meanI (s.hist.map (·.2))
  let b1 := b |> formE i |> relock
  if !b.time.valid || b.time.slewEnd.isSome || s.above.isSome then b1
  else if m.natAbs ≤ 100 * 65536 then b1 |> setAdj (b.time.heldAdj + ordinaryStep b) |> usedFree
  else
    let ppm := b.f (pg 0x02 0x040) 23 16
    let dur := ceilDiv (m.natAbs * 1000000) (max ppm 1)
    b1 |> modTime (fun t => { t with locked := false, slewFrom := b.mono, slewEnd := some (b.mono + dur), slewOfs := m })
      |> setAdj (b.time.heldAdj + (if m < 0 then ppmUnits ppm else -(ppmUnits ppm)))
/-- A reading differs from the previous by less than 1 µs plus the present slew. While an offset is being slewed out the same bound
tells a jump, although the rule on jumps names 1 µs alone (R120; DEDUCED 194). -/
def readingGood (b : Block) (s : Src) (ofs : Int) : Bool :=
  match s.last with
  | none => true
  | some p =>
    let slew := if b.time.slewEnd.isSome then (b.mono - max s.lastAt b.time.slewFrom) * b.f (pg 0x02 0x040) 23 16 / 1000000 else 0
    s.fresh || decide ((ofs - p).natAbs < 1000 * 65536 + slew)
/-- An offset reading of a phase source, and the time of the input it shows (R120, R121, R123, R127). -/
def offsetReading (i : Fin 3) (ofs : Int) (inp : Gt) (b : Block) : Block :=
  let s := b.time.srcs[i]
  let good := readingGood b s ofs
  let seen := fun (s : Src) => { s with last := some ofs, lastAt := b.mono, inputAt := inp, fresh := false }
  if !good && s.st == .qualified then b |> disqualify i 1 |> modSrc i seen
  else
    let thr := b.n (pg 0x02 0x04C) * 65536
    let big := decide ((thr : Int) < ofs.natAbs)
    let runs := good && (s.st == .qualifying || s.st == .qualified)
    let since := if runs then s.since else b.mono
    let st : SrcSt := if s.st == .qualified then .qualified
      else if !good && s.st == .disqualified then .disqualified
      else if runs && since + b.f (pg 0x02 0x040) 15 8 * gtSec ≤ b.mono then .qualified else .qualifying
    let b1 := modSrc i (fun s => { seen s with
      st := st, since := since, above := if big then (if s.above.isSome then s.above else some b.mono) else none }) b
    let b2 := reselect b1
    if b2.time.selected.val = i.val + 1 then
      b2 |> modSrc i (fun s => { s with hist := ((b.mono, ofs) :: s.hist).take 16 }) |> servo i
    else b2

/-- R138: a change of Δ other than by a leap is recorded, and the last valid values are kept. -/
def utcTrack (b : Block) : Block :=
  let d := b.delta
  let told := b.t (pg 0x02 0x088) 31 || (b.srcNow.bind (·.leap)).isSome
  let keep := b
    |> (match utcNow b with
      | some (o, v, _, _) => onlyIf (o != 2) (modTime fun t => { t with keptUtc := some v })
      | none => id)
    |> onlyIf told (modTime fun t => { t with keptLeap59 := leapPending b == some true, keptLeap61 := leapPending b == some false })
  let b1 := modTime (fun t => { t with lastDelta := d }) keep
  match b.time.lastDelta, d with
  | some o, some n => if o = n then b1 else evr 0x106 (sarg o) (sarg n) b1
  | _, _ => b1
/-- What a source says of UTC and of leaps; a Δ that it tells anew already shows the leaps applied (R138). -/
def srcUtc (i : Fin 3) (utc : Option Int) (leap : Option (Bool × Bool)) (b : Block) : Block :=
  b |> modSrc i (fun s => { s with utc := utc, leapFix := if utc == s.utc then s.leapFix else 0, leap := leap }) |> utcTrack

/-- The sources and the servo work: from the restore of the settings on (R145). -/
def Block.timeRuns (b : Block) : Bool := b.aon && b.balls.inact && !b.inReset 0x02
/-- A source's condition to be usable holds (R119): PTP's port is a slave, and not in Keep; IRIG-B, and PPS with NMEA, have a
valid UTC offset. -/
def srcUsable (b : Block) (i : Fin 3) : Bool :=
  if i = 0 then b.time.ptp[b.time.ptpActive].st == .slave && b.dev.st != .keep else !srcIsUtc b i.val || b.delta.isSome
/-- R123: an offset reading. -/
def execTimeOffsetReading (src : Fin 3) (ofs : Int) (s : State) : Out :=
  s.run fun b =>
    if !b.timeRuns || !srcUsable b src then b else
    utcTrack (offsetReading src ofs (if src = 0 then b.time.srcs[src].inputAt else b.mono) b)

/-- R124: an offset above TIME_STEP_THR has persisted for 10 s. -/
def execStepThresholdTimeout (src : Fin 3) (s : State) : Out :=
  s.run fun b =>
    match b.time.srcs[src].above with
    | none => b
    | some t =>
      if b.mono < t + 10 * gtSec then b
      else if !b.t (pg 0x02 0x040) 3 then disqualify src 2 b
      else if b.time.selected.val = src.val + 1 && b.time.valid then
        modTime (fun t => { t with stepWait := b.time.srcs[src].last }) b
      else b
/-- A time counted from the counter, as the stepped counter shows it. -/
def shiftGt (d : Int) (t : Gt) : Gt := ((t : Int) + d).toNat
/-- The stamps of a PTP port, as the stepped counter shows them. -/
def shiftPtp (d : Int) (p : PtpPort) : PtpPort :=
  { p with
    sync := p.sync.map fun (q, t, c) => (q, shiftGt d t, c)
    pdReq := p.pdReq.map fun (q, t) => (q, shiftGt d t)
    pdResp := p.pdResp.map fun (q, r, t, c) => (q, r, shiftGt d t, c) }
/-- The offsets of a source, as the stepped counter shows them. -/
def shiftSrc (d : Int) (s : Src) : Src :=
  { s with last := s.last.map (· + d), hist := s.hist.map fun e => (e.1, e.2 + d) }
/-- The counter stands at a time, and everything that a step disturbs follows (R124, R304). Offsets and stamps of the
timebase taken before count from the stepped counter (DEDUCED 195). -/
def setCounter (t : Gt) (b : Block) : Block :=
  let d : Int := (t : Int) - b.now
  b |> modTime (fun s => { s with
        ctr := t * 2 ^ 32, eFrom := shiftGt d s.eFrom, srcs := s.srcs.map (shiftSrc d),
        ptp := s.ptp.map (shiftPtp d), tc := s.tc.map (shiftPtp d),
        ptpIn := s.ptpIn.map fun (p, t, l) => (p, shiftGt d t, l), tcIn := s.tcIn.map fun (p, t, l) => (p, shiftGt d t, l),
        ppsEdge := s.ppsEdge.map (shiftGt d), ppsEnd := s.ppsEnd.map (shiftGt d) })
    |> granTimeStep b.now t |> chainDisturbAll |> timersArm
/-- R124: the step of the selected source is applied. -/
def execTimeStep (s : State) : Out :=
  s.run fun b => match b.time.stepWait with
    | none => b
    | some ofs =>
      let t := ((b.now : Int) - ofs).toNat
      b |> setCounter t
        |> modTime (fun s => { s with stepWait := none, srcs := s.srcs.map fun v => { v with above := none } })
        |> evr 0x104 (pat 32 (clampI (-2147483647) 2147483647 (rndHE ((t : Int) - b.now) 65536))) 0
/-- VALID becomes 1 (R122, R125, R506). -/
def becomeValid (b : Block) : Block := b |> modTime (fun t => { t with valid := true }) |> evr 0x108 0 0 |> ratesResume
/-- R122: the selected source sets the counter at its second boundary. -/
def execTimeSetBySource (sec : DWord) (s : State) : Out :=
  s.run fun b =>
    if b.time.valid || b.time.selected = 0 || !b.time.xo || !b.aon then b else
    b |> setCounter (mkGt sec.toNat 0) |> modTime (fun s => { s with srcs := s.srcs.map fun v => { v with above := none } })
      |> becomeValid |> relock
/-- R123: the removal of an offset ends. The readings kept lose what of it was still to be removed after each, and E is formed anew
from them (DEDUCED 196). -/
def execSlewEnd (s : State) : Out :=
  s.run fun b => match b.time.slewEnd with
    | none => b
    | some e =>
      if b.mono < e then b else
      let t0 := b.time.slewFrom
      let left := fun (t : Gt) => b.time.slewOfs * ((e - max t t0 : Nat) : Int) / ((max (e - t0) 1 : Nat) : Int)
      let fix := fun (v : Src) =>
        { v with hist := v.hist.map (fun x => (x.1, x.2 - left x.1)), last := v.last.map (· - left v.lastAt) }
      let b1 := b |> setAdj b.time.heldAdj |> modTime (fun t => { t with slewEnd := none, srcs := t.srcs.map fix })
      relock (if h : b1.time.selected.val - 1 < 3 ∧ b1.time.selected ≠ 0 then formE ⟨b1.time.selected.val - 1, h.1⟩ b1 else b1)
/-- R128: two reading intervals have passed with no reading. -/
def execLockedReadingTimeout (s : State) : Out :=
  s.run fun b =>
    let i := b.time.selected.val - 1
    match b.time.srcs[i]? with
    | some v => if b.time.locked && v.lastAt + 2 * gtSec ≤ b.mono then modTime (fun t => { t with locked := false }) b else b
    | none => b
/-- TIME_SET (R125): the written time waits for the next tick. -/
def timeSet (b : Block) : Block :=
  if b.time.valid then err 0x02 0x20 b else
  modTime (fun s => { s with setPend := some (mkGt (b.n64 (pg 0x02 0x078)) (b.f (pg 0x02 0x080) 29 0)) }) b
/-- A time written by TIME_SET is applied at a tick of the counter, unless time has become valid meanwhile (R125). With no source
selected holdover begins (R126). -/
def setApply (b : Block) : Block :=
  match b.time.setPend with
  | none => b
  | some t =>
    let c := modTime (fun s => { s with setPend := none }) b
    let alone := b.time.selected = 0
    if b.time.valid then c
    else c |> setCounter t |> modTime (fun s => { s with setByHost := alone }) |> becomeValid |> onlyIf alone enterHoldover |> relock
/-- One tick of 0.8 ns: of the 1.25 GHz timebase counter while XO_IN runs and no cold reset holds it (R116, R117), and of
always-on time. The TQ code is noted where it changes, for the times at which it is asked for (R142). -/
def tick (b : Block) : Block :=
  if !b.aon then b else
  let c := modTime (fun t => { t with ticks := t.ticks + 1, ctr := if t.xo then t.ctr + tickStep b else t.ctr }) b
  noteTq (onlyIf c.time.xo setApply c)
/-- R125. -/
def execTimeSetCmd (ag : Agent) (_v : Word) (s : State) : Out :=
  s.run (cmdGate ag 0x02 0x084 fun b => if ag == .side then err 0x02 0x02 b else timeSet b)

/-- R117: the counter stops and time is no longer valid; the sources start anew. PPS_OUT is low while VALID is 0 (R135). -/
def execXoLoss (s : State) : Out :=
  s.run fun b =>
    if !b.time.xo then b else
    { b with balls := { b.balls with ppsOut := false } }
      |> modTime (fun t => { t with
          xo := false, xoAt := b.mono, valid := false, holdover := false, locked := false, selected := 0, slewEnd := none,
          stepWait := none, setByHost := false, ppsEdge := none, ppsEnd := none,
          srcs := t.srcs.map fun v => { v with st := .absent, last := none, hist := [], above := none, fresh := false } })
      |> onlyIf (b.time.selected != 0) (evr 0x100 0 0) |> onlyIf b.time.valid granAbortAll
/-- R117: the counter resumes from its held value. -/
def execXoResume (s : State) : Out :=
  s.run fun b =>
    if b.time.xo then b else
    b |> modTime (fun t => { t with xo := true, valid := false, eFrom := t.eFrom - (b.mono - t.xoAt) }) |> evr 0x10A 0 0

/-! PTP (R129–R133). -/

/-- A signed 16-bit or 32-bit correction of stamps, 2^-16 ns. -/
def stampAdj (b : Block) (a : Nat) : Int := sgn 32 (b.n a)
/-- The stamp of a delimiter that ended some time ago, in 2^-16 ns: its PCS word edge, its position within the word and the
recovered-clock phase together, corrected for the lane (R118). -/
def stampAgo (b : Block) (adjReg ago : Nat) : Gt := ((b.now : Int) - ago + stampAdj b adjReg).toNat
/-- The stamp of a delimiter that this step sends: it ends within the present tick, at a place that is a free value (R118;
DESIGN CHOICE 197). -/
def stampNow (b : Block) (adjReg : Nat) : Gt := ((b.now : Int) + Config.freeNat b.freeCtr % 52429 + stampAdj b adjReg).toNat
/-- PTP_CTL fields: PORT, ROLE, DOMAIN, AUTH_EN (R146). -/
def ptpPort (b : Block) : Nat := b.f (pg 0x02 0x090) 5 4
/-- The physical port of PTP port k of the part: PTP_CTL.PORT, and B beside A on a PRP pair (R132). -/
def ptpPhys (b : Block) (k : Fin 2) : Nat := if k = 0 then ptpPort b else 1
/-- PTP port k exists: the second only as the partner of port A on a PRP pair (R132). -/
def ptpHas (b : Block) (k : Fin 2) : Bool := k = 0 || (ptpPort b = 0 && b.t (pg 0x08 0x040) 0)
/-- The part's clockIdentity, from a port's address (IEEE 1588). -/
def clockId (b : Block) (p : Nat) : List Byte :=
  let m := beBytes 2 (b.n (pg (4 + p) 0x04C)) ++ beBytes 4 (b.n (pg (4 + p) 0x048))
  m.take 3 ++ [0xFF, 0xFE] ++ m.drop 3
/-- The smallest IEEE 1588-2019 clockAccuracy code that covers E (R131). -/
def accuracyCode (b : Block) : Nat :=
  -- codes 0x17 on: 1, 2.5, 10, 25, 100, 250 of each unit from ps to ms, in 0.1 ps; then 1 s and 10 s; 0x31 beyond
  let lim : List Nat := ([1, 1000, 1000000, 1000000000].flatMap fun u => [10, 25, 100, 250, 1000, 2500].map (· * u))
    ++ [10000000000000, 100000000000000]
  0x17 + (lim.takeWhile fun n => n * (65536 * 10 ^ 6) < b.eScaled).length
/-- clockClass as master (R131). -/
def clockClass (b : Block) : Nat :=
  if b.time.locked && (b.time.selected.val = 2 || b.time.selected.val = 3) then 6
  else if b.time.holdover && decide (b.eScaled < 1000 * (65536 * 10 ^ 10)) then 7 else 248
/-- The part's own data set as the BMCA compares it. -/
def ownAnnounce (b : Block) : Announce :=
  let id := BitVec.ofNat 64 (ofBe (clockId b (ptpPort b)))
  { prio1 := b.f (pg 0x02 0x090) 23 16, cls := clockClass b, acc := accuracyCode b, variance := 0xFFFF,
    prio2 := b.f (pg 0x02 0x090) 15 8, gm := id, steps := 0, sender := id, senderPort := 1,
    utc := (b.delta).getD 0, utcValid := (b.delta).isSome, leap59 := false, leap61 := false, inacc := 0 }
/-- The comparison keys of the default BMCA, in order. -/
def annKeys (a : Announce) : List Nat :=
  [a.prio1, a.cls, a.acc, a.variance, a.prio2, a.gm.toNat, a.steps, a.sender.toNat, a.senderPort]
/-- Lexicographic order of keys. -/
def keysLess : List Nat → List Nat → Bool
  | x :: l, y :: m => if x < y then true else if y < x then false else keysLess l m
  | [], _ :: _ => true
  | _, [] => false
/-- a is better than c. -/
def annBetter (a c : Announce) : Bool := keysLess (annKeys a) (annKeys c)
/-- Changes one PTP port of the part. -/
def modPtp (k : Fin 2) (f : PtpPort → PtpPort) (b : Block) : Block :=
  modTime (fun t => { t with ptp := t.ptp.set k (f t.ptp[k]) }) b
/-- The role of a port from what it has heard and PTP_CTL.ROLE (R129): by the default BMCA, a clock of class 127 or less that hears
a better one is passive. -/
def ptpRole (b : Block) (k : Fin 2) : PtpState :=
  let role := b.f (pg 0x02 0x090) 7 6
  match b.time.ptp[k].best with
  | some a =>
    if role = 2 then .master else if role = 1 then .slave
    else if !annBetter a (ownAnnounce b) then .master
    else if clockClass b ≤ 127 then .passive else .slave
  | none => if role = 1 then .listening else .master
/-- The registers of the active PTP port (R146). -/
def ptpRegs (b : Block) : Block :=
  let p := b.time.ptp[b.time.ptpActive]
  let (gm, st) := match p.best with
    | some a => (a.gm.toNat, a.steps)
    | none => (0, 0)
  b |> wn (pg 0x02 0x098) (p.st.code * 2 ^ 16 + st % 256 * 2 ^ 8 + b.time.ptpActive.val) |> wn64 (pg 0x02 0x0A4) gm
    |> wn (pg 0x02 0x0A0) (pat 32 (p.pdelay / 2 ^ 8))
/-- PTP is usable while its active port is a slave (R119): a source that is no longer usable is lost. -/
def ptpUsable (b : Block) : Block :=
  let on := match b.time.srcs[0].st with
    | .qualifying | .qualified => true
    | _ => false
  if on && b.time.ptp[b.time.ptpActive].st != .slave then disqualify 0 0 b else b
/-- Roles are decided anew, and the better-ranked port of a doubly attached clock is active. A changeover between the two is
no jump: what it leaves is slewed out (R132). -/
def ptpDecide (b : Block) : Block :=
  let b1 := modPtp 0 (fun p => { p with st := ptpRole b 0 }) b
  let b2 := if ptpHas b1 1 then modPtp 1 (fun p => { p with st := ptpRole b1 1 }) b1
    else modPtp 1 (fun p => { p with st := .disabled, best := none }) b1
  let act : Fin 2 := match b2.time.ptp[(0 : Fin 2)].best, b2.time.ptp[(1 : Fin 2)].best with
    | some a, some c => if annBetter c a then 1 else 0
    | none, some _ => 1
    | _, none => 0
  b2 |> modTime (fun t => { t with ptpActive := act }) |> onlyIf (act != b2.time.ptpActive) (modSrc 0 fun s => { s with fresh := true })
    |> ptpUsable |> ptpRegs
/-- A PTP offset reading on a slave port: counter minus master (R123, R129). -/
def ptpOffset (k : Fin 2) (ingress : Gt) (origin : Nat) (corr : Int) (b : Block) : Block :=
  let p := b.time.ptp[k]
  if p.st != .slave || k != b.time.ptpActive then b else
  let ofs : Int := (ingress : Int) - origin - corr - p.pdelay
  let inacc := match p.best with
    | some a => a.inacc
    | none => 0
  b |> modSrc 0 (fun s => { s with inacc := inacc }) |> wn (pg 0x02 0x09C) (sarg (ofs / 2 ^ 14))
    |> onlyIf b.timeRuns fun b => offsetReading 0 ofs b.time.srcs[0].inputAt b
/-- An Announce is heard: the best is kept, and what it says of UTC follows (R129, R138). -/
def ptpAnnounce (k : Fin 2) (a : Announce) (b : Block) : Block :=
  let old := b.time.ptp[k].best
  let same := match old with
    | some o => o.sender = a.sender && o.senderPort = a.senderPort
    | none => true
  let take := same || (match old with | some o => annBetter a o | none => true)
  let b1 := if take then modPtp k (fun p => { p with best := some a, heardAt := b.mono }) b else b
  let b2 := ptpDecide b1
  if take && b2.time.ptp[k].st == .slave && k == b2.time.ptpActive then
    b2 |> modSrc 0 (fun s => { s with inputAt := b.mono })
      |> srcUtc 0 (if a.utcValid then some a.utc else none) (if a.utcValid then some (a.leap59, a.leap61) else none)
  else b2
/-- Three announce intervals of 1 s have passed with no Announce of a port's best: it hears none (R120, R129). The clock then
follows its other port, or PTP is lost (R132). -/
def announceTimeout (b : Block) : Block :=
  let old := fun (p : PtpPort) => p.best.isSome && decide (p.heardAt + 3 * gtSec ≤ b.mono)
  if b.time.ptp.toList.any old then
    b |> modTime (fun t => { t with ptp := t.ptp.map fun p => if old p then { p with best := none } else p }) |> ptpDecide
  else b
/-- R120: a source's input is lost: no PPS edge or reference marker for 2 s, or PTP's announce receipt timeout. -/
def execSourceLossTimeout (src : Fin 3) (s : State) : Out :=
  s.run fun b =>
    let v := b.time.srcs[src]
    if !b.aon then b
    else if src = 0 then announceTimeout b
    else if v.st == .absent || v.st == .disqualified || b.mono < v.inputAt + 2 * gtSec then b
    else disqualify src 0 b
/-- The mean link delay from the four stamps of a peer-delay exchange. -/
def ptpPdelay (k : Fin 2) (t1 t2 t3 t4 : Int) (corr : Int) (b : Block) : Block :=
  b |> modPtp k (fun p => { p with pdelay := ((t4 - t1) - (t3 - t2) - corr) / 2, pdReq := none, pdResp := none }) |> ptpRegs

/-- The 34-byte common header of a PTP message (IEEE 1588-2019), big-endian. -/
def ptpHeader (b : Block) (p typ len seq : Nat) (corr : Int) : List Byte :=
  [BitVec.ofNat 8 typ, 0x12] ++ beBytes 2 len ++ beBytes 1 (b.f (pg 0x02 0x090) 31 24) ++ [0] ++ [0, 0]
  ++ beBytes 8 (pat 64 corr) ++ [0, 0, 0, 0] ++ clockId b p ++ beBytes 2 1 ++ beBytes 2 seq ++ [0, 0]
/-- A PTP frame of a port: Ethernet addresses and EtherType 0x88F7 before the message (R129). -/
def ptpFrame (b : Block) (p : Nat) (peer : Bool) (msg : List Byte) : List Byte :=
  (if peer then beBytes 6 0x0180C200000E else beBytes 6 0x011B19000000)
  ++ beBytes 2 (b.n (pg (4 + p) 0x04C)) ++ beBytes 4 (b.n (pg (4 + p) 0x048)) ++ beBytes 2 0x88F7 ++ msg
/-- The authentication TLV is appended while AUTH_EN is 1; without its key nothing is sent (R129, R573). -/
def ptpSigned (msg : List Byte) (b : Block) : Option (List Byte) × Block :=
  if !b.t (pg 0x02 0x090) 3 then (some msg, b) else
  match keyUse (b.f (pg 0x02 0x094) 7 0) 5 b with
  | (some key, b1) =>
    let tlv := beBytes 2 0x8009 ++ beBytes 2 22 ++ [0, 0] ++ beBytes 4 (b.f (pg 0x02 0x094) 15 8)
    (some (msg ++ tlv ++ padTo 16 (Config.hmac256 key (msg ++ tlv))), b1)
  | (none, b1) => (none, b1)

end Sys2Proof.Machine
end

