-- ==== Sys2Proof/Machine/Transmit.lean ====
section
/-! DEFINITION. Sending: the transmit classes of the ports, PRP copies and trailers, PAUSE frames, large-send frames
(R158, R162, R170–R175). -/

namespace Sys2Proof.Machine
open Sys2Proof

/-- A port by its number. -/
def Block.port (b : Block) (p : Nat) : PortSt := (b.ports[p]?).getD {}
/-- Changes one port. -/
def modPort (p : Nat) (f : PortSt → PortSt) (b : Block) : Block :=
  if h : p < 4 then { b with ports := b.ports.set p (f b.ports[p]) } else b
/-- Counts in counter i of a port (R178). -/
def pcnt (p i : Nat) (b : Block) : Block := cnt (pg (4 + p) (0x200 + 8 * i)) b
/-- Counts n in counter i of a port. -/
def pcntBy (p i n : Nat) (b : Block) : Block := cntBy (pg (4 + p) (0x200 + 8 * i)) n b
/-- PRP_CTL.PRP_EN. -/
def prpOn (b : Block) : Bool := b.t (pg 0x08 0x040) 0
/-- PRP_CTL.PASS_EN. -/
def passOn (b : Block) : Bool := b.t (pg 0x08 0x040) 1
/-- OUTER_TPID. -/
def outerTpid (b : Block) (p : Nat) : Nat := b.f (pg (4 + p) 0x050) 15 0
/-- Six bytes of a port's own address. -/
def macOf (b : Block) (p : Nat) : List Byte := beBytes 2 (b.n (pg (4 + p) 0x04C)) ++ beBytes 4 (b.n (pg (4 + p) 0x048))
/-- MAX_LEN in force (R153). -/
def maxLen (b : Block) (p : Nat) : Nat :=
  let c := b.r (pg (4 + p) 0x040)
  if fld c 29 16 != 0 then fld c 29 16 else if bitAt c 3 then 1522 else 1518

/-- A TPID that marks a tag (R154). -/
def isTag (outer : Nat) (l : List Byte) (o : Nat) : Bool := beAt l o 2 == 0x8100 || beAt l o 2 == outer
/-- Leading tags of a frame, at most two, and whether a third follows. -/
def tagsOf (outer : Nat) (l : List Byte) : Nat × Bool :=
  if !isTag outer l 12 then (0, false)
  else if !isTag outer l 16 then (1, false)
  else (2, isTag outer l 20)

/-! PRP trailers (R159, R162). -/

/-- A frame with its redundancy control trailer: padded so that it has 64 bytes with its FCS (R162); the LSDU size counts
from after the EtherType to the end of the trailer. -/
def withRct (outer lan seq : Nat) (l : List Byte) : List Byte :=
  let f := l ++ zeros (54 - l.length)
  f ++ beBytes 2 seq ++ beBytes 2 (lan * 4096 + (f.length + 6 - 14 - 4 * (tagsOf outer f).1) % 4096) ++ [0x88, 0xFB]

/-! Ethernet checksums of large sends. -/

/-- The ones' complement sum of big-endian 16-bit words, an odd last byte padded with 0. -/
def sum16 : List Byte → Nat
  | [] => 0
  | [x] => x.toNat * 256
  | x :: y :: l => x.toNat * 256 + y.toNat + sum16 l
/-- Folded to 16 bits. -/
def fold16 (n : Nat) : Nat := if n = 0 then 0 else (n - 1) % 65535 + 1
/-- The Internet checksum of a sum. -/
def inetSum (n : Nat) : Nat := 0xFFFF - fold16 n

/-- Offset of the IP header of a template: after the Ethernet header with up to two tags. -/
def ipOfs (outer : Nat) (t : List Byte) : Nat := 14 + 4 * (tagsOf outer t).1
/-- The template is IPv4 with IHL 5 and UDP, and ends with the UDP header (R172). -/
def tmplV4 (outer : Nat) (t : List Byte) : Bool :=
  let o := ipOfs outer t
  beAt t (o - 2) 2 == 0x0800 && beAt t o 1 == 0x45 && beAt t (o + 9) 1 == 17 && t.length == o + 28
/-- The template is IPv6 with next header 17, and ends with the UDP header (R172). -/
def tmplV6 (outer : Nat) (t : List Byte) : Bool :=
  let o := ipOfs outer t
  beAt t (o - 2) 2 == 0x86DD && beAt t o 1 / 16 == 6 && beAt t (o + 6) 1 == 17 && t.length == o + 48
/-- The UDP checksum over the pseudo-header, the UDP header with length u, and the data; a result of 0 goes as 0xFFFF. -/
def udpSum (v4 : Bool) (o : Nat) (t : List Byte) (u : Nat) (data : List Byte) : Nat :=
  let addr := if v4 then slice t (o + 12) 8 else slice t (o + 8) 32
  let h := if v4 then o + 20 else o + 40
  let s := sum16 addr + 17 + u + sum16 (slice t h 4) + u + sum16 data
  if inetSum s = 0 then 0xFFFF else inetSum s
/-- An IPv4 header of 20 bytes with its total length, identification, flags and offset, and checksum. -/
def ipv4Header (t : List Byte) (o len ident fragWord : Nat) : List Byte :=
  let h := splice (splice (splice (splice (slice t o 20) 2 (beBytes 2 len)) 4 (beBytes 2 ident)) 6 (beBytes 2 fragWord)) 10 [0, 0]
  splice h 10 (beBytes 2 (inetSum (sum16 h)))

/-- Frames a checked descriptor makes (R173, R175). -/
def lsoCount (outer limit : Nat) (d : Desc) : Nat :=
  if d.mode % 4 = 0 then 1
  else if d.mode % 4 = 1 then ceilDiv d.len d.seg
  else if ipOfs outer d.template + 28 + d.len + 4 ≤ limit then 1
  else ceilDiv (8 + d.len) d.seg
/-- Payload bytes that must have been read before frame i goes out. -/
def lsoNeed (d : Desc) (i : Nat) : Nat := if d.mode % 4 = 1 then min d.len ((i + 1) * d.seg) else d.len
/-- Frame i of a datagram send (R173, R174). With more than 65,535 segments SEG_IDX and SEG_CNT go modulo 65,536 (DESIGN CHOICE 199). -/
def lsoDatagram (outer : Nat) (d : Desc) (i ident : Nat) : List Byte :=
  let t := d.template
  let o := ipOfs outer t
  let v4 := tmplV4 outer t
  let segm := (d.payload.drop (i * d.seg)).take (min d.seg (d.len - i * d.seg))
  let bt := widen 0 d.baleTime
  let sh := beBytes 4 (secOf bt) ++ beBytes 4 (nsOf bt) ++ beBytes 2 i ++ beBytes 2 d.count
  let u := 8 + 12 + segm.length
  let ip := if v4 then ipv4Header t o (20 + u) ident (beAt t (o + 6) 2) else splice (slice t o 40) 4 (beBytes 2 u)
  let h := if v4 then o + 20 else o + 40
  t.take o ++ ip ++ slice t h 4 ++ beBytes 2 u ++ beBytes 2 (udpSum v4 o t u (sh ++ segm)) ++ sh ++ segm
/-- Frame i of a fragment send: one datagram cut into fragments of SEG_SIZE bytes (R175). -/
def lsoFragment (outer : Nat) (d : Desc) (i : Nat) : List Byte :=
  let t := d.template
  let o := ipOfs outer t
  let u := 8 + d.len
  let dg := slice t (o + 20) 4 ++ beBytes 2 u ++ beBytes 2 (udpSum true o t u d.payload) ++ d.payload
  let part := if d.count = 1 then dg else (dg.drop (i * d.seg)).take d.seg
  let more := if i + 1 = d.count then 0 else 0x2000
  t.take o ++ ipv4Header t o (20 + part.length) d.ident (more + (if d.count = 1 then 0 else i * d.seg / 8)) ++ part
/-- Frame i of a descriptor, with the port's next identification. -/
def lsoFrame (outer : Nat) (d : Desc) (i ident : Nat) : List Byte :=
  if d.mode % 4 = 0 then d.template ++ d.payload
  else if d.mode % 4 = 1 then lsoDatagram outer d i ident
  else lsoFragment outer d i

/-! Own PAUSE frames (R158). -/

/-- A PAUSE frame of a port. -/
def pauseFrame (b : Block) (p q : Nat) : List Byte :=
  padTo 60 (beBytes 6 0x0180C2000001 ++ macOf b p ++ beBytes 2 0x8808 ++ beBytes 2 1 ++ beBytes 2 q)

/-! The line of a port (R170). -/

/-- The offset of a PTP message in its frame. -/
def ptpOfs (outer : Nat) (l : List Byte) : Nat := 14 + 4 * (tagsOf outer l).1
/-- A PTP frame as it leaves at an egress stamp: the origin of an own Sync (R130), the turnaround of an own Pdelay_Resp,
the residence of a passed frame (R133). -/
def ptpPatch (outer : Nat) (f : TxFrame) (egress : Gt) : List Byte :=
  let o := ptpOfs outer f.bytes
  let typ := beAt f.bytes o 1 % 16
  let corr : Int := sgn 64 (beAt f.bytes (o + 8) 8)
  let put := fun (c : Int) (l : List Byte) => splice l (o + 8) (beBytes 8 (pat 64 c))
  let stay : Int := (egress : Int) - f.ingress
  if f.kind = .ptpPass then
    if typ = 8 then f.bytes else put (corr + stay + (if typ = 0 then f.extra else 0)) f.bytes
  else if typ = 0 then
    splice (put (fracOf egress : Nat) f.bytes) (o + 34) (beBytes 6 (secOf egress) ++ beBytes 4 (nsOf egress))
  else if typ = 3 then put (corr + stay) f.bytes
  else f.bytes
/-- The frame goes onto the line at its egress stamp; the frame as counted at its end is kept. -/
def lineStart (p : Nat) (f : TxFrame) (egress : Gt) (b : Block) : Block :=
  b |> usedFree |> emit (.frame p f.bytes egress) |> modPort p (fun s => { s with sending := some f })
/-- What the transmitter does with the frame at the head of a class. -/
inductive Pick where
  | none
  | pause (q : Nat)
  | buffered (cls : Nat) (f : TxFrame)
  | large (owner cls : Nat) (d : Desc)
  | copy (cls : Nat) (f : TxFrame)
deriving DecidableEq, Repr
/-- A descriptor has a frame ready. -/
def descReady (l : List Desc) : Option Desc := match l with
  | d :: _ => if d.checked && d.status.isNone then some d else none
  | [] => none
/-- The partner of port A or B in a PRP pair. -/
def prpPeer (b : Block) (p : Nat) : Option Nat := if prpOn b && p < 2 then some (1 - p) else none
/-- Descriptors of a large-send class of a port. -/
def descsOf (s : PortSt) (cls : Nat) : List Desc := if cls = 3 then s.d3 else s.d4
/-- The descriptor whose next frame a port may send in a class, with its owner: its own, or its PRP partner's while the
partner's link is down (R162); the one queued first (R170). -/
def largeHead (b : Block) (p cls : Nat) : Option (Nat × Desc) :=
  let own := (descReady (descsOf (b.port p) cls)).map fun d => (p, d)
  match prpPeer b p with
  | none => own
  | some q =>
    if (b.port q).link then own else
    match own, descReady (descsOf (b.port q) cls) with
    | some (o, d), some e => if e.ord < d.ord then some (q, e) else some (o, d)
    | none, some e => some (q, e)
    | own, none => own
/-- The next frame of a large-send class: in the order queued, the copies of the partner's frames among them (R162, R170). -/
def pickLarge (b : Block) (p cls : Nat) : Option Pick :=
  let copies := if cls = 3 then (b.port p).c3 else (b.port p).c4
  match largeHead b p cls, copies with
  | some (o, d), f :: _ => if d.ord < f.ord then some (.large o cls d) else some (.copy cls f)
  | some (o, d), [] => some (.large o cls d)
  | none, f :: _ => some (.copy cls f)
  | none, [] => none
/-- The frame that goes first at a frame boundary: own PAUSE frames ahead of every queue and never held by a received
PAUSE (R158), then the highest class with a frame ready (R156, R170). -/
def txPick (b : Block) (p : Nat) : Pick :=
  let s := b.port p
  match s.pauseOut with
  | q :: _ => .pause q
  | [] =>
    if b.mono < s.pauseEnd then .none else
    match s.q0, s.q1, s.q2 with
    | f :: _, _, _ => .buffered 0 f
    | [], f :: _, _ => .buffered 1 f
    | [], [], f :: _ => .buffered 2 f
    | [], [], [] => ((pickLarge b p 3).orElse fun _ => pickLarge b p 4).getD .none
/-- The descriptors of a class changed at the head. -/
def modHead (f : Desc → Desc) (l : List Desc) : List Desc := match l with
  | d :: m => f d :: m
  | [] => []
/-- The head descriptor of a class of a port changed. -/
def modDesc (p cls : Nat) (f : Desc → Desc) (b : Block) : Block :=
  modPort p (fun s => if cls = 3 then { s with d3 := modHead f s.d3 } else { s with d4 := modHead f s.d4 }) b
/-- A frame without its FCS, padded to the shortest Ethernet frame. -/
def padFrame (l : List Byte) : List Byte := l ++ zeros (60 - l.length)
/-- The frame kind of a large-send class. -/
def largeKind (cls : Nat) : TxKind := if cls = 3 then .host else .exp
/-- A frame of a descriptor as the lines carry it: plain, or with an RCT for each port of a PRP pair. -/
def forLan (b : Block) (p seq : Nat) (l : List Byte) : List Byte :=
  match prpPeer b p with
  | some _ => withRct (outerTpid b p) (0xA + p) seq l
  | none => padFrame l

/-- An own Pdelay_Req leaves a port (R129, R133): its PTP port, or the transparent clock's side of it, keeps its egress stamp. -/
def pdReqSent (p seq : Nat) (egress : Gt) (b : Block) : Block :=
  let put := fun (s : PtpPort) => { s with pdReq := some (seq, egress) }
  if passOn b && 2 ≤ p then modTime (fun t => { t with tc := if p = 3 then t.tc.set 1 (put t.tc[1]) else t.tc.set 0 (put t.tc[0]) }) b
  else if p = ptpPhys b 0 then modPtp 0 put b
  else if ptpHas b 1 && p = ptpPhys b 1 then modPtp 1 put b
  else b
/-- Starts the next frame of an idle port whose link is up (R170). -/
def txStartN : Nat → Nat → Block → Block
  | 0, _, b => b
  | n + 1, p, b =>
    let s := b.port p
    if s.sending.isSome || !s.link then b else
    let egress := stampNow b (pg 0x02 (0x0C0 + 4 * p))
    match txPick b p with
    | .none => b
    | .pause q =>
      b |> modPort p (fun s => { s with pauseOut := s.pauseOut.drop 1 })
        |> lineStart p { kind := .pause, bytes := pauseFrame b p q } egress
    | .buffered cls f =>
      let c := modPort p (fun s => match cls with
        | 0 => { s with q0 := s.q0.drop 1 }
        | 1 => { s with q1 := s.q1.drop 1 }
        | _ => { s with q2 := s.q2.drop 1 }) b
      if f.kind = .ptpPass && gtMs 10 < egress - f.ingress then
        c |> cnt32 (pg 0x02 0x0AC) |> txStartN n p
      else if f.kind = .ptpPass then lineStart p { f with bytes := ptpPatch (outerTpid b p) f egress } egress c
      else if f.kind = .ptp then
        match ptpSigned ((ptpPatch (outerTpid b p) f egress).drop 14) c with
        | (some msg, c2) =>
          let typ := beAt f.bytes 14 1 % 16
          let c3 := onlyIf (typ = 2) (pdReqSent p (beAt f.bytes 44 2) egress) c2
          lineStart p { f with bytes := padFrame (f.bytes.take 14 ++ msg) } egress c3
        | (none, c2) => txStartN n p c2
      else lineStart p f egress c
    | .copy cls f =>
      b |> modPort p (fun s => if cls = 3 then { s with c3 := s.c3.drop 1 } else { s with c4 := s.c4.drop 1 })
        |> lineStart p f egress
    | .large o cls d =>
      if d.payload.length < lsoNeed d d.sent then modDesc o cls (fun d => { d with status := some 0x05 }) b else
      let outer := outerTpid b o
      let v4 := tmplV4 outer d.template
      let id := b.f (pg (4 + o) 0x074) 15 0
      let newId := d.mode % 4 = 2 && d.sent = 0
      let takes := newId || (d.mode % 4 = 1 && v4)
      let d1 := if newId then { d with ident := id } else d
      let fr := lsoFrame outer d1 d.sent id
      let seq := b.prp.txSeq
      let fin : Option Nat := if d.sent + 1 = d.count then some 0 else none
      let c := b |> modDesc o cls (fun _ => { d1 with sent := d.sent + 1, status := fin })
        |> onlyIf takes (wn (pg (4 + o) 0x074) ((id + 1) % 65536))
        |> lineStart p { kind := largeKind cls, bytes := forLan b p seq fr } egress
      match prpPeer b p with
      | none => c
      | some q =>
        let f2 : TxFrame := { kind := largeKind cls, bytes := forLan b q seq fr, ord := d.ord }
        let c2 := { c with prp := { c.prp with txSeq := (seq + 1) % 65536 } }
        if (b.port q).link then
          c2 |> modPort q (fun s => if cls = 3 then { s with c3 := s.c3 ++ [f2] } else { s with c4 := s.c4 ++ [f2] })
            |> txStartN n q
        else c2
/-- Starts the next frame of a port. -/
def txStart (p : Nat) (b : Block) : Block := txStartN ((b.port p).q0.length + 2) p b
/-- Starts the next frame of a port and of its PRP partner, which sends a descriptor whose own port is down (R162). -/
def txKick (p : Nat) (b : Block) : Block :=
  match prpPeer b p with
  | some q => b |> txStart p |> txStart q
  | none => txStart p b
/-- Large sends join the class 4 queue of a port (R170). -/
def queueDescs (p : Nat) (ds : List Desc) (b : Block) : Block :=
  let n := b.prp.ord
  { b with prp := { b.prp with ord := n + ds.length } }
    |> modPort p fun s => { s with d4 := s.d4 ++ ds.zipIdx.map fun (d, i) => { d with ord := n + i } }

/-- Bytes queued in a buffered class. -/
def queued (l : List TxFrame) : Nat := sumN (l.map fun f => f.bytes.length)
/-- Room of the buffers of classes 0, 1 and 2 (R171). -/
def classRoom (cls : Nat) : Nat := if cls = 0 then 16384 else 65536
/-- A queue of a class. -/
def classQ (s : PortSt) (cls : Nat) : List TxFrame := if cls = 0 then s.q0 else if cls = 1 then s.q1 else s.q2
/-- A port with the queue of a class replaced. -/
def setClassQ (s : PortSt) (cls : Nat) (l : List TxFrame) : PortSt :=
  if cls = 0 then { s with q0 := l } else if cls = 1 then { s with q1 := l } else { s with q2 := l }
/-- The first queued frame of the same dataset replaced. -/
def replaceGoose (f : TxFrame) : List TxFrame → List TxFrame
  | [] => []
  | g :: l => if g.kind = f.kind then f :: l else g :: replaceGoose f l
/-- A frame offered to class 0, 1 or 2 of one port (R171): 0 it is queued, 1 it is dropped, 2 it replaces a queued one. -/
def txOffer (p cls : Nat) (f : TxFrame) (b : Block) : Nat × Block :=
  let s := b.port p
  let q := classQ s cls
  if !s.link then (1, b)
  else if queued q + f.bytes.length ≤ classRoom cls then (0, b |> modPort p (fun s => setClassQ s cls (q ++ [f])) |> txStart p)
  else if cls = 1 && q.any (fun g => g.kind = f.kind) then (2, modPort p (fun s => setClassQ s cls (replaceGoose f q)) b)
  else (1, b)
/-- A frame queued in class 0, 1 or 2 of one port; one dropped or replaced is counted (R171). -/
def txPut (p cls : Nat) (f : TxFrame) (b : Block) : Block :=
  let (r, c) := txOffer p cls f b
  onlyIf (r != 0) (pcnt p 45) c
/-- A frame sent to a port: on a PRP pair it goes out on both ports with an RCT (R162); PTP and PAUSE frames do not. On a
pair a frame counts as dropped only where neither port sends it (R171). -/
def txSend (p cls : Nat) (kind : TxKind) (l : List Byte) (b : Block) : Block :=
  match prpPeer b p with
  | some _ =>
    let seq := b.prp.txSeq
    let f := fun (q : Nat) => ({ kind := kind, bytes := withRct (outerTpid b q) (0xA + q) seq l } : TxFrame)
    let (r0, c) := txOffer 0 cls (f 0) { b with prp := { b.prp with txSeq := (seq + 1) % 65536 } }
    let (r1, d) := txOffer 1 cls (f 1) c
    onlyIf (r0 != 0 && r1 != 0) (pcnt p 45) d
  | none => txPut p cls { kind := kind, bytes := padFrame l } b
/-- An own PTP message in class 0 of one port. -/
def ptpSend (p : Nat) (peer : Bool) (msg : List Byte) (ingress : Gt) (b : Block) : Block :=
  txPut p 0 { kind := .ptp, bytes := ptpFrame b p peer msg, ingress := ingress } b

/-! Own PAUSE as the ingress buffer fills and empties (R158). -/

/-- PAUSE_TX_CTL fields. -/
def pauseCtl (b : Block) (p : Nat) : Word := b.r (pg (4 + p) 0x05C)
/-- An own PAUSE goes out at the next frame boundary. -/
def pauseSend (p q : Nat) (b : Block) : Block :=
  b |> modPort p (fun s => { s with pauseOut := s.pauseOut ++ [q], ownPause := if q = 0 then none else some b.mono }) |> txStart p
/-- The fill has grown from one value to another (R158). -/
def pauseRise (p before after : Nat) (b : Block) : Block :=
  let x := fld (pauseCtl b p) 31 24 * 1024
  if b.t (pg (4 + p) 0x040) 5 && before < x && x ≤ after then pauseSend p (fld (pauseCtl b p) 15 0) b else b
/-- The fill has fallen (R158). -/
def pauseFall (p before after : Nat) (b : Block) : Block :=
  let x := fld (pauseCtl b p) 23 16 * 1024
  if b.t (pg (4 + p) 0x040) 5 && x ≤ before && after < x then pauseSend p 0 b else b
/-- A frame leaves the ingress buffer of a port, and XON may follow (R158). -/
def bufLeave (p : Nat) (f : PortSt → PortSt) (b : Block) : Block :=
  let c := modPort p f b
  pauseFall p (b.port p).fill (c.port p).fill c

end Sys2Proof.Machine
end

