-- ==== Sys2Proof/Machine/Glean.lean ====
section
/-! DEFINITION. The Gleaner: what it accepts, its tables and commits, the conversion of values, rejection, the ingress
journal, mirroring, replay (R206–R237, R263, R475). -/

namespace Sys2Proof.Machine
open Sys2Proof

/-! Ethernet, IP and UDP as received (R154, R165, R214). -/

/-- EtherType and the offset after it, with tags parsed while VLAN_EN is 1 (R154). -/
def rxEth (b : Block) (port : Nat) (l : List Byte) : Nat × Nat :=
  let o := if b.t (pg (4 + port) 0x040) 3 then 14 + 4 * (tagsOf (outerTpid b port) l).1 else 14
  (beAt l (o - 2) 2, o)
/-- An IP packet as found: version, protocol, whether it is a fragment, malformed, its header sum, the payload's place. -/
structure IpView where
  ver : Nat
  proto : Nat
  frag : Bool
  bad : Bool
  sumOk : Bool
  l4 : Nat
  fin : Nat
deriving DecidableEq, Repr
/-- The IP packet of a frame (destination address to FCS), none where it is not IP (R165). -/
def ipView (b : Block) (port : Nat) (l : List Byte) : Option IpView :=
  let (et, o) := rxEth b port l
  let fin := l.length - 4
  let nib := beAt l o 1 / 16
  if fin ≤ o then none
  else if et = 0x0800 && nib = 4 then
    let ihl := beAt l o 1 % 16 * 4
    let total := beAt l (o + 2) 2
    let bad := ihl < 20 || fin < o + ihl || total < ihl || fin < o + total
    some ⟨4, beAt l (o + 9) 1, beAt l (o + 6) 2 % 2 ^ 14 != 0, bad, inetSum (sum16 (slice l o ihl)) = 0, o + ihl,
      if bad then fin else o + total⟩
  else if et = 0x86DD && nib = 6 then
    let n := beAt l (o + 4) 2
    let bad := fin < o + 40 + n
    some ⟨6, beAt l (o + 6) 1, beAt l (o + 6) 1 = 44, bad, true, o + 40, if bad then fin else o + 40 + n⟩
  else none
/-- The UDP payload, or the reject reason of checks 1 to 3: the structure alone is judged first (R214). -/
structure UdpView where
  payload : List Byte
  /-- reason of check 2 or 3, 0 where both pass -/
  sums : Nat
deriving DecidableEq, Repr
/-- The UDP datagram of a frame that the Gleaner supports; none where it is malformed. -/
def udpView (b : Block) (port : Nat) (l : List Byte) : Option UdpView :=
  match ipView b port l with
  | none => none
  | some v =>
    let n := beAt l (v.l4 + 4) 2
    if v.bad || v.frag || v.proto != 17 || v.fin < v.l4 + 8 || n < 8 || v.l4 + n != v.fin then none else
    let ck := beAt l (v.l4 + 6) 2
    let (_, o) := rxEth b port l
    let addr := if v.ver = 4 then slice l (o + 12) 8 else slice l (o + 8) 32
    let good := if ck = 0 then v.ver = 4 else inetSum (sum16 addr + 17 + n + sum16 (slice l v.l4 n)) = 0
    some ⟨slice l (v.l4 + 8) (n - 8), if !v.sumOk then 2 else if !good then 3 else 0⟩
/-- The source-address hash of R165. -/
def srcHash (l : List Byte) : Nat := crc16 (slice l 6 6)

/-! Conversion (R220, R222–R224). -/

/-- First address of a calibration entry: its four committed words (R221). -/
def calAddr (ch : Nat) : Nat := 0x2000000 + 16 * ch
/-- A number × 2^28 saturated to ±2^31 − 1, and whether it saturates. -/
def scalePh (v : F64) : Int × Bool :=
  let i := fToInt 64 (fmul v (fInt (2 ^ 28)))
  let m : Int := 2147483647
  (clampI (-m) m i, decide (i < -m ∨ m < i))
/-- Steps 2 to 5 of R220 on x + jy: the words, and whether INVALID is set. A NaN that the arithmetic itself makes has no
stated word: it is a free value. -/
def calPhasor (b : Block) (T : Gt) (ch k : Nat) (stored : Bool) (x y : F64) : (Int × Int) × Bool :=
  if fnan x || fnan y then ((0, 0), true) else
  let ws := wordsAt b T (calAddr ch) 4
  let w := fun (i : Nat) => nth ws i 0
  let s2 := fun (v : F64) => if stored then v else fdiv (fmul v (f64Of32 (w 0))) (f64Of32 (w 1))
  let g := fQ (w 2).toNat (2 ^ 30)
  let x3 := fmul (s2 x) g
  let y3 := fmul (s2 y) g
  let phi := fdiv (fmul (fInt (w 3).toInt) (fmul (fInt 2) fpi)) (fInt (2 ^ 32))
  let (sn, cs) := fsincos phi
  let x4 := fsub (fmul x3 cs) (fmul y3 sn)
  let y4 := fadd (fmul x3 sn) (fmul y3 cs)
  let put := fun (v : F64) (i : Nat) =>
    if fnan v then (clampI (-2147483647) 2147483647 (Config.freeInt (b.freeCtr + 2 * k + i)), Config.freeBool (b.freeCtr + 2 * k + i))
    else scalePh v
  let (a, sa) := put x4 0
  let (c, sc) := put y4 1
  ((a, c), sa || sc)
/-- Polar parts from magnitude and the sine and cosine of the angle. -/
def polar (m : F64) (sc : F64 × F64) : F64 × F64 := (fmul m sc.2, fmul m sc.1)
/-- A binary32 frequency in Hz as µHz of deviation; a NaN gives 0 (R222). -/
def freqOf32 (w : Word) (nom : Nat) : Int := (((flOf32 w).add (flI (-(nom : Int)))).mul (flI 1000000)).toInt 32
/-- A binary32 rate of change in Hz/s as µHz/s. -/
def rocofOf32 (w : Word) : Int := ((flOf32 w).mul (flI 1000000)).toInt 32
/-- A binary32 word is not a number. -/
def nan32 (w : Word) : Bool := flOf32 w == .nan
/-- An analog as received in binary32: stored as it is, or as fixed point (R222). -/
def analog32 (fix : Bool) (w : Word) : Nat := if fix then pat 32 (((flOf32 w).mul (flI 65536)).toInt 32) else w.toNat
/-- An integer analog. -/
def analog16 (fix : Bool) (i : Int) : Nat := if fix then pat 32 (i * 65536) else (f32 (flI i)).toNat
/-- TIME_CTL.SYNC_LOST_TQ. -/
def syncLostTq (b : Block) : Nat := b.f (pg 0x02 0x040) 7 4
/-- The quality word of R223 without the Granary's bits. -/
def qualityWord (invalid dataErr syncLost sortArr trig cfg : Bool) (tq : Nat) : Nat :=
  0x8000 + b01 invalid * 0x1000 + b01 dataErr * 0x800 + b01 syncLost * 0x400 + b01 sortArr * 0x200 + b01 trig * 0x100
    + b01 cfg * 0x80 + tq % 16

/-! C37.118.2 (R206, R219). -/

/-- Bytes of one PMU block. -/
def c37Len (e : Stream) : Nat :=
  2 + e.nph * (if e.fmt.testBit 1 then 8 else 4) + (if e.fmt.testBit 3 then 8 else 4)
    + e.nan * (if e.fmt.testBit 2 then 4 else 2) + 2 * e.ndg
/-- The values of a PMU block at its place in the message (R220–R224). -/
def c37Values (b : Block) (T : Gt) (e : Stream) (m : List Byte) (tqb : Nat) : Values :=
  let o := e.blkOfs
  let stat := beAt m o 2
  let fl := e.fmt.testBit 1
  let pw := if fl then 8 else 4
  let ph := (List.range e.nph).map fun p =>
    let q := o + 2 + pw * p
    let (x, y) :=
      if fl then
        let a := f64Of32 (w32 (beAt m q 4))
        let c := f64Of32 (w32 (beAt m (q + 4) 4))
        if e.fmt.testBit 0 then (if fnan a || fnan c then (a, c) else polar a (fsincos c)) else (a, c)
      else if e.fmt.testBit 0 then polar (fInt (beAt m q 2)) (fsincos (fQ (sgn 16 (beAt m (q + 2) 2)) 10000))
      else (fInt (sgn 16 (beAt m q 2)), fInt (sgn 16 (beAt m (q + 2) 2)))
    calPhasor b T (e.phBase + p) p false x y
  let of_ := o + 2 + pw * e.nph
  let ff := e.fmt.testBit 3
  let nom := if e.fmt.testBit 4 then 60 else 50
  let fw := w32 (beAt m of_ 4)
  let dw := w32 (beAt m (of_ + 4) 4)
  let freq := if ff then freqOf32 fw nom else sgn 16 (beAt m of_ 2) * 1000
  let rocof := if ff then rocofOf32 dw else sgn 16 (beAt m (of_ + 2) 2) * 10000
  let oa := of_ + (if ff then 8 else 4)
  let af := e.fmt.testBit 2
  let an := (List.range e.nan).map fun a =>
    if af then analog32 (e.anaFix.testBit a) (w32 (beAt m (oa + 4 * a) 4))
    else analog16 (e.anaFix.testBit a) (sgn 16 (beAt m (oa + 2 * a) 2))
  let anBad := (List.range e.nan).any fun a => af && e.anaFix.testBit a && nan32 (w32 (beAt m (oa + 4 * a) 4))
  let od := oa + e.nan * (if af then 4 else 2)
  let bad := ph.any (·.2) || (ff && (nan32 fw || nan32 dw)) || anBad
  let s2 := bits stat 8 6
  let tq := max (tqb % 16) (if s2 = 0 then 0 else if s2 = 7 then 0xF else s2 + 2)
  { quality := qualityWord (bits stat 15 14 = 3 || bad) (bits stat 15 14 != 0 || stat.testBit 9)
      (stat.testBit 13 || decide (syncLostTq b ≤ tq)) (stat.testBit 12) (stat.testBit 11) (stat.testBit 10) tq,
    freq := freq, rocof := rocof, phasors := ph.map (·.1), analogs := an,
    digitals := (List.range e.ndg).map fun d => beAt m (od + 2 * d) 2 }
/-- Δ in force at a grid second: the present one, or that from before the latest leap (R140). -/
def deltaAt (b : Block) (s : Int) : Option Int := b.delta.map fun d => match b.time.leapAt with
  | some (t, l59) => if s < t then (if l59 then d + 1 else d - 1) else d
  | none => d
/-- The grid second that a SOC names: none where it names none (R140, R219). -/
def socSecond (b : Block) (soc : Nat) (occurred : Bool) : Option Nat :=
  match b.delta with
  | none => none
  | some d =>
    let cands := ([d - 1, d, d + 1].map fun x => (soc : Int) + x).filter fun s =>
      0 ≤ s && (deltaAt b s).any fun x => s - x == soc
    let l := cands.map Int.toNat
    if occurred then l.getLast? else l.head?
/-- Distance of two times. -/
def gtDist (a c : Gt) : Nat := if a ≤ c then c - a else a - c
/-- The reporting instant of a rate nearest to a time (R219). -/
def nearestInst (f : Nat) (t : Gt) : Gt :=
  let k := nsOf t * f / 1000000000
  let c := fun (j : Nat) => if j < f then mkGt (secOf t) (instNs f j) else mkGt (secOf t + 1) 0
  if gtDist t (c (k + 1)) < gtDist t (c k) then c (k + 1) else c k
/-- What the Gleaner makes of a frame: rejected for a reason, forwarded to silo 19, or accepted with the values of each
block (slot, instant, values) and its sampled values. -/
inductive GlRes where
  | rej (reason : Nat)
  | fwd
  | ok (vals : List (Nat × Gt × Values)) (sv : List SvSample)
deriving DecidableEq, Repr
/-- Insertion by BLOCK, then slot. -/
def byBlock (l : List (Nat × Stream)) : List (Nat × Stream) :=
  l.mergeSort fun a c => a.2.block < c.2.block || (a.2.block == c.2.block && a.1 ≤ c.1)
/-- Enrolled entries that p picks, now and at an instant. -/
def entriesNow (b : Block) (p : Stream → Bool) : List (Nat × Stream) :=
  ((slotsNow b).map fun s => (s, streamNow b s)).filter fun e => e.2.enrolled && p e.2
/-- The same for values with instant T. -/
def entriesAt (b : Block) (T : Gt) (p : Stream → Bool) : List (Nat × Stream) :=
  ((slotsEver b).map fun s => (s, streamAt b T s)).filter fun e => e.2.enrolled && p e.2
/-- Checks 9 of R214 on a key use: the reason, 0 where it passes. A C37.118.2 frame has no place for a tag. -/
def authCheck (auth slot : Nat) (iv msg : List Byte) (tag : Option (List Byte)) (b : Block) : Nat × Block :=
  if auth = 0 then (0, b) else
  match keyUse slot (if auth = 1 then 3 else 4) b with
  | (none, c) => (9, c)
  | (some key, c) =>
    let want := if auth = 1 then Config.hmac256 key msg else Config.gmac key iv msg
    (if tag == some want then 0 else 8, c)
/-- The keys that entries need, in order: the first failure decides. -/
def authAll (iv msg : List Byte) (tag : Option (List Byte)) : List Stream → Block → Nat × Block
  | [], b => (0, b)
  | e :: l, b => match authCheck e.auth e.keySlot iv msg tag b with
    | (0, c) => authAll iv msg tag l c
    | (r, c) => (r, c)
/-- The values of a C37.118.2 data frame whose check field is good. -/
def c37Data (b : Block) (l m : List Byte) (stamp : Gt) (judged : Bool) : GlRes × Block :=
  let id := beAt m 4 2
  let tqb := beAt m 10 1
  let pick := fun (e : Stream) => e.kind = 0 && e.id = id
  match byBlock (entriesNow b pick) with
  | [] => (.rej 5, b)
  | e0 :: rest =>
    let tb := e0.2.timeBase
    let at_ := (socSecond b (beAt m 6 4) (tqb.testBit 5)).map fun s => mkGt s 0 + gtNs (rndNat (beAt m 11 3 * 1000000000) tb)
    let ents := match at_ with
      | some T => byBlock (entriesAt b T pick)
      | none => e0 :: rest
    if ents.isEmpty then (.rej 5, b)
    else if ents.any fun e => e.2.frameSize != m.length || m.length - 2 < e.2.blkOfs + c37Len e.2 then (.rej 6, b)
    else if ents.any fun e => e.2.srcChk && e.2.srcHash != srcHash l then (.rej 7, b)
    else
      let (r, b2) := if judged then authAll [] [] none (ents.map (·.2)) b else (0, b)
      if r != 0 then (.rej r, b2)
      else if b.delta.isNone then (.rej 0xC, b2)
      else match at_ with
      | none => (.rej 0xA, b2)
      | some T =>
        let near := ents.map fun e => (e, nearestInst e.2.rate T)
        let off := fun (t : Gt) => 1000000000 * 65536 < gtDist t T * tb && gtNs 1000 < gtDist t T
        match near.find? fun e => off e.2 || stamp < e.2 with
        | some e => (.rej (if off e.2 then 0xA else 0xB), b2)
        | none => (.ok (near.map fun (e, t) => (e.1, t, c37Values b t e.2 m tqb)) [], b2)
/-- Class 0 (R206, R214, R218). -/
def gleanC37 (b : Block) (port : Nat) (l : List Byte) (stamp : Gt) (judged : Bool) : GlRes × Block :=
  match udpView b port l with
  | none => (.rej 1, b)
  | some u =>
    let m := u.payload
    let typ := bits (beAt m 1 1) 6 4
    let ver := beAt m 1 1 % 16
    if m.length < 16 || beAt m 0 1 != 0xAA || 5 < typ || beAt m 2 2 != m.length then (.rej 1, b)
    else if ver != 1 && ver != 2 then (.rej 0xD, b)
    else if u.sums != 0 then (.rej u.sums, b)
    else if crc16 (m.take (m.length - 2)) != beAt m (m.length - 2) 2 then (.rej 4, b)
    else if typ != 0 then (.fwd, b)
    else c37Data b l m stamp judged

/-! ASN.1 of sampled values. -/

/-- A tag, its value's place and length. -/
def berAt (l : List Byte) (o : Nat) : Option (Nat × Nat × Nat) :=
  let n := beAt l (o + 1) 1
  let k := if n < 0x80 then 0 else n - 0x80
  let len := if n < 0x80 then n else beAt l (o + 2) k
  if l.length < o + 2 || 3 < k || l.length < o + 2 + k + len then none else some (beAt l o 1, o + 2 + k, len)
/-- The elements of a value: tag and bytes; none where it is malformed. -/
def berItems : Nat → List Byte → Option (List (Nat × List Byte))
  | 0, _ => none
  | n + 1, l =>
    if l.isEmpty then some [] else
    match berAt l 0 with
    | none => none
    | some (t, o, k) => (berItems n (l.drop (o + k))).map fun r => (t, slice l o k) :: r
/-- One ASDU: svID, smpCnt, confRev, smpSynch, data. -/
structure Asdu where
  sv : Nat
  cnt : Nat
  conf : Nat
  synch : Nat
  data : List Byte
deriving DecidableEq, Repr
/-- The element of a tag. -/
def berGet (l : List (Nat × List Byte)) (t : Nat) : Option (List Byte) := (l.find? fun e => e.1 = t).map (·.2)
/-- The ASDUs of an SV APDU (tag 0x60); none where it is malformed. -/
def asdusOf (l : List Byte) : Option (List Asdu) := do
  let (t, o, k) ← berAt l 0
  if t != 0x60 then none else
  let items ← berItems 64 (slice l o k)
  let seq ← berGet items 0xA2
  let noas ← berGet items 0x80
  let els ← berItems 64 seq
  if els.length != ofBe noas || els.any fun e => e.1 != 0x30 then none else
  els.mapM fun e => do
    let f ← berItems 32 e.2
    let id ← berGet f 0x80
    let cnt ← berGet f 0x82
    let conf ← berGet f 0x83
    let syn ← berGet f 0x85
    let dat ← berGet f 0x87
    pure ⟨crc16 id, ofBe cnt, ofBe conf, ofBe syn, dat⟩
/-- s + smpCnt / rate, with s the latest second for which that is not later than a stamp (R219). -/
def smpInst (rate cnt : Nat) (stamp : Gt) : Gt :=
  let t := mkGt (secOf stamp) (instNs rate cnt)
  if t ≤ stamp then t else mkGt (secOf stamp - 1) (instNs rate cnt)
/-- Validity of an IEC 61850 quality word: 0 good, 1 invalid, 2 reserved, 3 questionable. -/
def qValid (q : Nat) : Nat := q % 4
/-- Its test bit. -/
def qTest (q : Nat) : Bool := q.testBit 11
/-- The values of an R-SV ASDU (R207, R220–R224). -/
def rsvValues (b : Block) (T : Gt) (e : Stream) (a : Asdu) : Values :=
  let m := a.data
  let ph := (List.range e.nph).map fun p =>
    let x := f64Of32 (w32 (beAt m (12 * p) 4))
    let y := f64Of32 (w32 (beAt m (12 * p + 4) 4))
    let c := if fnan x || fnan y then (x, y) else polar x (fsincosDeg y)
    calPhasor b T (e.phBase + p) p false c.1 c.2
  let o := 12 * e.nph
  let fw := w32 (beAt m o 4)
  let dw := w32 (beAt m (o + 8) 4)
  let nom := if e.fmt.testBit 4 then 60 else 50
  let an := fun (i : Nat) => w32 (beAt m (o + 16 + 8 * i) 4)
  let anBad := (List.range e.nan).any fun i => e.anaFix.testBit i && nan32 (an i)
  let qPh := (List.range e.nph).map fun p => beAt m (12 * p + 8) 4
  let qAll := qPh ++ (List.range (2 + e.nan + e.ndg)).map fun i => beAt m (o + 8 * i + 4) 4
  let tq := if 1 ≤ a.synch then 0 else 0xF
  { quality := qualityWord (qPh.any (qValid · == 1) || ph.any (·.2) || nan32 fw || nan32 dw || anBad)
      (qAll.any fun q => qValid q == 3 || qTest q) (a.synch == 0 || decide (syncLostTq b ≤ tq)) false false false tq,
    freq := freqOf32 fw nom, rocof := rocofOf32 dw, phasors := ph.map (·.1),
    analogs := (List.range e.nan).map fun i => analog32 (e.anaFix.testBit i) (an i),
    digitals := (List.range e.ndg).map fun d => beAt m (o + 16 + 8 * e.nan + 8 * d) 4 % 65536 }
/-- A sample's instant and the entry in force at it: of the entries that p picks, in force at the arrival or before a commit since,
the latest that is in force at the instant its own RATE gives (R213, R219; DEDUCED 204). -/
def rsvEntry (b : Block) (p : Stream → Bool) (cnt : Nat) (stamp : Gt) : Option ((Nat × Stream) × Gt) :=
  ((stamp :: b.glean.past.map (·.1)).filterMap fun T => (entriesAt b T p).head?).findSome? fun v =>
    let i := smpInst v.2.rate (cnt % max v.2.rate 1) stamp
    if (entriesAt b i p).head? == some v then some (v, i) else none
/-- Class 1 (R207): session header, SV payload, signature. -/
def gleanRsv (b : Block) (port : Nat) (l : List Byte) (stamp : Gt) (judged : Bool) : GlRes × Block :=
  match udpView b port l with
  | none => (.rej 1, b)
  | some u =>
    let m := u.payload
    let apLen := beAt m 36 2
    let fin := 32 + beAt m 28 4
    if m.length < 38 || beAt m 0 2 != 0x0140 || beAt m 4 1 != 0x80 || m.length < fin then (.rej 1, b)
    else if beAt m 2 1 != 0xA2 || beAt m 14 2 != 1 || beAt m 22 1 != 0 || beAt m 32 1 != 0x82 then (.rej 0xD, b)
    else match asdusOf (slice m 38 (apLen - 2)) with
    | none => (.rej 1, b)
    | some [] => (.rej 1, b)
    | some (a0 :: rest) =>
      let as_ := a0 :: rest
      if u.sums != 0 then (.rej u.sums, b) else
      let pick := fun (e : Stream) => e.kind = 1 && e.id = beAt m 34 2 && e.svid = a0.sv
      let ents := as_.filterMap fun a => (rsvEntry b pick a.cnt stamp).map fun e => (a, e.2, e.1)
      if ents.length != as_.length then (.rej 5, b)
      else if 8 < as_.length || ents.any (fun x => x.1.sv != a0.sv
          || x.1.data.length != 12 * x.2.2.2.nph + 16 + 8 * x.2.2.2.nan + 8 * x.2.2.2.ndg) then (.rej 6, b)
      else if ents.any fun x => x.2.2.2.srcChk && x.2.2.2.srcHash != srcHash l then (.rej 7, b)
      else
        let tag := if beAt m fin 1 = 0x85 && fin + 2 + beAt m (fin + 1) 1 ≤ m.length
          then some (slice m (fin + 2) (beAt m (fin + 1) 1)) else none
        let (r, b2) := if judged then authAll (slice m 10 12) (slice m 2 (fin - 2)) tag (ents.map (·.2.2.2)) b else (0, b)
        if r != 0 then (.rej r, b2)
        else if ents.any fun x => x.2.2.2.rate ≤ x.1.cnt then (.rej 0xA, b2)
        else (.ok (ents.map fun x => (x.2.2.1, x.2.1, rsvValues b x.2.1 x.2.2.2 x.1)) [], b2)
/-- A word of SV source v. -/
def svWord (b : Block) (v w : Nat) : Word := b.r (pg 0x18 (0x400 + 16 * v + 4 * w))
/-- Samples per second of a source. -/
def svRate (b : Block) (v : Nat) : Nat := if bitAt (svWord b v 0) 30 then 4800 else 4000
/-- Class 2 (R208, R225, R226). -/
def gleanSv (b : Block) (port : Nat) (l : List Byte) (stamp : Gt) (judged : Bool) : GlRes × Block :=
  let (et, o) := rxEth b port l
  let n := beAt l (o + 2) 2
  if et != 0x88BA || l.length < o + 12 || n < 8 || l.length - 4 < o + n then (.rej 1, b)
  else match asdusOf (slice l (o + 8) (n - 8)) with
  | none => (.rej 1, b)
  | some [] => (.rej 1, b)
  | some (a0 :: rest) =>
    let as_ := a0 :: rest
    let sim := (beAt l (o + 4) 1).testBit 7
    match (List.range 64).find? fun v =>
        bitAt (svWord b v 0) 31 && fld (svWord b v 0) 15 0 == beAt l o 2 && fld (svWord b v 1) 31 16 == a0.sv with
    | none => (.rej 5, b)
    | some v =>
      let w0 := svWord b v 0
      let f := svRate b v
      if 8 < as_.length || as_.any (fun a => a.sv != a0.sv || a.data.length != 64 || a.conf != (svWord b v 2).toNat) then (.rej 6, b)
      else if fld (svWord b v 1) 15 0 != 0 && fld (svWord b v 1) 15 0 != srcHash l then (.rej 7, b)
      else
        let ext := o + n
        let tag := if beAt l ext 1 = 0x85 then some (slice l (ext + 2) (beAt l (ext + 1) 1)) else none
        let gm := fld w0 29 28 = 2
        let (r, b2) := if judged then authCheck (fld w0 29 28) (fld w0 23 16) (if gm then (tag.getD []).take 12 else [])
            (slice l o n) (if gm then tag.map (·.drop 12) else tag) b else (0, b)
        if r != 0 then (.rej r, b2)
        else if as_.any fun a => f ≤ a.cnt then (.rej 0xA, b2)
        else (.ok [] (as_.map fun a =>
          { src := v, stamp := stamp, inst := smpInst f a.cnt stamp, vals := (List.range 8).map fun i => sgn 32 (beAt a.data (8 * i) 4),
            bad := (List.range 8).map fun i =>
              sim || qValid (beAt a.data (8 * i + 4) 4) != 0 || qTest (beAt a.data (8 * i + 4) 4),
            sync := decide (1 ≤ a.synch) }), b2)
/-- A frame of a Gleaner class; `judged` is false for a record accepted before (replay and mirror): its tag is not
checked again. -/
def gleanParse (b : Block) (port cls : Nat) (l : List Byte) (stamp : Gt) (judged : Bool) : GlRes × Block :=
  if cls = 0 then gleanC37 b port l stamp judged
  else if cls = 1 then gleanRsv b port l stamp judged
  else gleanSv b port l stamp judged

/-! Local entries (R220, R311). -/

/-- f0: ACQ_CTL.FNOM (R308). -/
def fNom (b : Block) : Bool := b.t (pg 0x20 0x040) 8
/-- A committed word of an estimator channel: 0 PU_PEAK, 1 LOOKBACK and CLASS (R319). -/
def peWord (b : Block) (c i : Nat) : Word := b.r (0x3000000 + 16 * c + 4 * i)
/-- W of an M-class window at a reporting rate, in cycles (R309). -/
def mCycles (rate : Nat) : Nat := if rate ≤ 5 then 12 else if rate ≤ 15 then 9 else if rate ≤ 60 then 6 else 3
/-- D_loc in ns of a local stream (R19, R308, R309): half the largest W_e of its channels plus 0.5 ms, rounded up. -/
def dLoc (b : Block) (e : Stream) : Nat :=
  let f0 := if fNom b then 60 else 50
  let cyc := fun (c : Nat) => if bitAt (peWord b c 1) 0 then mCycles e.rate else 4
  let w := ((e.freqChan :: e.chans.take e.nph).map cyc).foldl max 0
  ceilDiv (w * 1000000000) (2 * f0) + 500000
/-- The values of a local entry, calibrated. -/
def localValues (b : Block) (e : Stream) (inst : Gt) (v : Values) : Values :=
  let ph := (v.phasors.take e.nph).zipIdx.map fun (p, i) =>
    calPhasor b inst (e.phBase + i) i true (fQ p.1 (2 ^ 28)) (fQ p.2 (2 ^ 28))
  { v with quality := v.quality ||| 0x8000 ||| (if ph.any (·.2) then 0x1000 else 0), phasors := ph.map (·.1) }

/-! The ingress journal (R227, R228). -/

/-- Bytes of the journal's ring, at the start of LPDDR5X (R35). -/
def jrnSize : Nat := 1073741824
/-- A record: header, body, padding to whole 64-byte lines. -/
def jrnRecord (b : Block) (stamp : Gt) (src slot : Nat) (body : List Byte) : List Byte :=
  let l := shortForm stamp ++ [BitVec.ofNat 8 src, BitVec.ofNat 8 b.glean.epoch] ++ leBytes 2 body.length ++ leBytes 2 slot ++ body
  l ++ freeBytes b (ceilDiv l.length 64 * 64 - l.length)
/-- The oldest records give way to a new one. -/
def jrnTrim : Nat → List JrnRec → List JrnRec
  | _, [] => []
  | n, e :: l => if jrnSize < n then jrnTrim (n - e.len) l else e :: l
/-- A record written at the head. -/
def jrnPut (stamp : Gt) (rec : List Byte) (b : Block) : Block :=
  let h := b.glean.head
  let cut := jrnSize - h
  let n := rec.length
  let b2 := { b with ddr := writeBytes (writeBytes b.ddr h (rec.take cut)) 0 (rec.drop cut) }
  let recs := b.glean.recs ++ [{ ofs := h, len := n, stamp := stamp, epoch := b.glean.epoch }]
  b2 |> modGlean (fun g => { g with head := (h + n) % jrnSize, recs := jrnTrim (sumN (recs.map (·.len))) recs })
    |> usedFreeN 64
/-- A record as it stands in the ring. -/
def jrnRead (b : Block) (e : JrnRec) : List Byte :=
  let cut := min e.len (jrnSize - e.ofs)
  readBytes b.ddr e.ofs cut ++ readBytes b.ddr 0 (e.len - cut)
/-- A new epoch (R228): writing resumes after the head flushed last. -/
def jrnEpoch (b : Block) : Block :=
  let e := (b.glean.epoch + 1) % 256
  b |> modGlean (fun g => { g with epoch := e, head := g.flushed, recs := [] }) |> wn (pg 0x18 0x08C) e |> irq 0x18 3
    |> evr 0x301 e (b.glean.flushed / 64)
/-- The watermark is told to the standby at each advance (R475). -/
def sendMark (b : Block) : Block :=
  if b.mirrors && b.pair.markTx < b.mark then
    b |> plSend (.wmark b.mark) |> modPair (fun p => { p with markTx := b.mark })
  else b
/-- A record is journalled, and mirrored by the active member (R227, R475). -/
def record (stamp : Gt) (src slot : Nat) (body : List Byte) (b : Block) : Block :=
  let rec_ := jrnRecord b stamp src slot body
  let c := sendMark b
  let c := jrnPut stamp rec_ c
  if c.mirrors && c.pair.mirrorFrom ≤ stamp then plSend (.mirror (rec_.take (16 + body.length))) c else c
/-- The watermark's lag in µs (R234). -/
def lagUs (b : Block) : Nat := satU 16 ((b.now - b.mark) / gtNs 1000)
/-- Keeps the peak of GL_BACKLOG. -/
def notePeak (b : Block) : Block :=
  if b.f (pg 0x18 0x048) 31 16 < lagUs b then wf (pg 0x18 0x048) 31 16 (lagUs b) b else b

/-! What a frame or entry does (R15, R214–R218, R227). -/

/-- GLEAN counter i (R235). -/
def glCnt (i : Nat) : Nat := pg 0x18 (0x100 + 8 * i)
/-- A copy of a frame to silo 17, 18 or 19 where COPY_EN allows it (R216, R607). -/
def glCopy (silo reason : Nat) (f : GlFrame) (b : Block) : Block :=
  if b.t (pg 0x18 0x040) (silo - 1) then
    b |> siloPut silo (frameItem b f.dflt f.port f.entry reason f.stamp f.bytes) |> usedFreeN 64
  else b
/-- A rejected frame (R216). -/
def glReject (r : Nat) (f : GlFrame) (b : Block) : Block :=
  let first := quiet b.glean.rejAt b
  b |> cnt (glCnt (r + 7)) |> onlyIf first (irq 0x18 1) |> modGlean (fun g => { g with rejAt := some b.mono })
    |> glCopy (if 5 ≤ r && r ≤ 7 then 18 else 17) r f
/-- Some rate holds the bale of a slot's instant, so that the value is written. -/
def canWrite (b : Block) (slot : Nat) (T : Gt) : Bool := (ratesOf b slot T).any fun r => (baleAt b r T).isSome
/-- One block's values: written once for its slot and instant (R217); a new configuration-change bit is flagged (R218). -/
def glBlock (stamp : Gt) (v : Nat × Gt × Values) (b : Block) : Block × Bool :=
  let (slot, T, x) := v
  if repeats b slot T then (cnt (glCnt 2) b, false) else
  let w := canWrite b slot T
  let c := storeValues slot T stamp x b
  if !w then (c, false) else
  let bit := x.quality.testBit 7
  let had := b.glean.cfgBit.contains slot
  let c := c |> cnt (glCnt 5)
    |> modGlean (fun g => { g with cfgBit := if bit then slot :: g.cfgBit.filter (· != slot) else g.cfgBit.filter (· != slot) })
  if bit && !had then (evr 0x302 slot 0 c, true) else (c, false)
/-- The blocks of a frame in order. -/
def glBlocks (stamp : Gt) : List (Nat × Gt × Values) → Block → Block × Bool
  | [], b => (b, false)
  | v :: l, b =>
    let (c, x) := glBlock stamp v b
    let (d, y) := glBlocks stamp l c
    (d, x || y)
/-- What follows acceptance: values, sampled values and flags. -/
def glWrite (f : GlFrame) (vals : List (Nat × Gt × Values)) (sv : List SvSample) (b : Block) : Block :=
  let (c, flag) := glBlocks (shortGrain f.stamp) vals b
  let c := { c with svIn := c.svIn ++ sv } |> usedFreeN 128
  if flag then c |> onlyIf (c.t (pg 0x18 0x040) 18) (cnt (glCnt 4)) |> irq 0x18 2 |> glCopy 19 0x80 f else c
/-- The Gleaner serves a frame (R214). -/
def glTake (f : GlFrame) (b : Block) : Block :=
  match gleanParse b f.port f.cls f.bytes (shortGrain f.stamp) true with
  | (.rej r, c) => glReject r f c
  | (.fwd, c) => c |> onlyIf (c.t (pg 0x18 0x040) 18) (cnt (glCnt 3)) |> glCopy 19 0 f
  | (.ok vals sv, c) =>
    c |> cnt (glCnt 0) |> record f.stamp (f.port * 64 + f.cls * 16) 0xFFFF f.bytes |> glWrite f vals sv

/-- The section view of a local record's body as values. -/
def localBody (body : List Byte) : Values :=
  let s := secView body 0
  { quality := s.quality, freq := s.freq, rocof := s.rocof, phasors := (List.range s.nph).map s.phasor,
    analogs := [], digitals := (List.range s.ndg).map s.digital }
/-- A local entry's values are written (R217, R220). -/
def glLocalWrite (slot : Nat) (inst stamp : Gt) (v : Values) (b : Block) : Block :=
  let e := streamAt b inst slot
  if !e.enrolled || e.kind != 2 then b
  else if repeats b slot inst then cnt (glCnt 2) b
  else
    let w := canWrite b slot inst
    b |> storeValues slot inst stamp (localValues b e inst v) |> onlyIf w (cnt (glCnt 1)) |> usedFreeN 64

/-! The order of the Gleaner (R16). -/

/-- What waits at each port: its stamp in the order's grain, and its port. -/
def portKeys (b : Block) : List (Gt × Nat) :=
  (List.range 4).filterMap fun p =>
    let s := b.port p
    match s.atGlean, s.rx with
    | some f, _ => some (shortGrain f.stamp, p)
    | none, f :: _ => some (shortGrain f.stamp, p)
    | none, [] => none
/-- The frame that comes next: the earliest of what waits, ports before local entries, A before B before C before D,
and no work of the ledger before it. -/
def nextFrame (b : Block) : Option (Nat × GlFrame) :=
  let k := (portKeys b).foldl (fun (o : Option (Gt × Nat)) e => match o with
    | none => some e
    | some m => if e.1 < m.1 then some e else o) none
  match k with
  | some (g, p) =>
    if b.glean.locq.any (fun e => e.stamp < g) || ledgerFirst b g then none
    else (b.port p).atGlean.map fun f => (p, f)
  | none => none
/-- The local entry that comes next. -/
def nextLocal (b : Block) : Option LocalEntry := match b.glean.locq with
  | e :: _ => if (portKeys b).any (fun k => k.1 ≤ e.stamp) || b.now < e.stamp || ledgerFirst b e.stamp then none else some e
  | [] => none
/-- The Gleaner can take something: state Run and no reset of its page (R233, R504). -/
def glRuns (b : Block) : Bool := b.running && !b.inReset 0x18

/-! The standby's Gleaner (R475). -/

/-- A commit of the active member is taken: by R213, or it waits by R345 and R365; the classifier's and the views' tables
take force at once. -/
def takeCommit (a : Nat) (t : Gt) (ws : List Word) (b : Block) : Block :=
  if a = pg 0x00 0x100 then settingsCommit b
  else if a / 0x1000 = 0x19 || (0x100000 ≤ a && a < 0x200000) || 0x2000000 ≤ a then commitWords t a ws b
  else if a < 0x100000 || 0x400000 ≤ a then commitLater t a ws b
  else wrList a ws b
/-- Drains what stands before the next mirrored record: watermark, commits, mode changes, replays, W-path samples. -/
def drainInq : Nat → Block → Block
  | 0, b => b
  | n + 1, b => match b.pair.inq with
    | [] => b
    | m :: l =>
      let c := modPair (fun p => { p with inq := l }) b
      match m.2 with
      | .wmark t => drainInq n (modGlean (fun g => { g with stby := some t }) c)
      | .wpath sig g v ok => drainInq n (modPair (fun p => { p with wq := p.wq ++ [(sig, g, v, ok)] }) c)
      | .commit a t ws => drainInq n (takeCommit a t ws c)
      | .mode g t => drainInq n (modePend g t c)
      | .replay r cause i => drainInq n (replayStart r i cause c)
      | _ => b
/-- The mirrored record that comes next on a linked standby: its stamp, SRC, slot and body. -/
def nextMirror (b : Block) : Option (Gt × Nat × Nat × List Byte) := match b.pair.inq with
  | (_, .mirror l) :: _ =>
    let stamp := widen b.now (leAt l 0 10)
    if ledgerFirst b stamp then none else some (stamp, leAt l 10 1, leAt l 14 2, slice l 16 (leAt l 12 2))
  | _ => none
/-- This member takes mirrored records: a linked standby, or a new holder that finishes them (R475, R493). -/
def Block.follows (b : Block) : Bool := !b.leads || !b.pair.inq.isEmpty
/-- A new holder that has taken the last mirrored record goes on with its own: local entries that were not mirrored stay
(R493). -/
def mirrorEnd (b : Block) : Block :=
  if !b.leads || !b.pair.inq.isEmpty || b.glean.stby.isNone then b
  else modGlean (fun g => { g with stby := none, locq := g.locq.filter fun e => !repeats b e.slot e.inst }) b
/-- The head of the received records has been taken. -/
def dropMirror (b : Block) : Block :=
  b |> modPair (fun p => { p with rxMirror := (p.inq.map (·.1)).headD p.rxMirror, inq := p.inq.drop 1 }) |> drainInq 4096 |> onlyIf b.leads (cnt (pg 0x60 0x268)) |> mirrorEnd
/-! The classifier (R164–R168). -/

/-- First address of a classifier entry. -/
def clsAddr (p e : Nat) : Nat := 0x200000 + 0x800 * p + 0x20 * e
/-- What the classifier sees of a frame. -/
structure ClsView where
  tags : Nat
  vid : Nat
  pcp : Nat
  et : Nat
  ipVer : Option Nat
  proto : Option Nat
  port : Option Nat
  hash : Nat
deriving DecidableEq, Repr
/-- The view of a frame (R154, R165). -/
def clsView (b : Block) (p : Nat) (l : List Byte) : ClsView :=
  let (et, o) := rxEth b p l
  let (n, more) := if b.t (pg (4 + p) 0x040) 3 then tagsOf (outerTpid b p) l else (0, false)
  let ip := ipView b p l
  let udp := ip.bind fun v =>
    if v.proto = 17 && !v.frag && (v.ver = 4 || v.l4 = o + 40) && v.l4 + 8 ≤ l.length - 4 then some (beAt l (v.l4 + 2) 2) else none
  { tags := if n = 0 then 0 else if n = 1 then 1 else 2 + b01 more, vid := if n = 0 then 0 else beAt l 14 2 % 4096,
    pcp := if n = 0 then 0 else beAt l 14 1 / 32, et := et, ipVer := ip.map (·.ver), proto := ip.map (·.proto), port := udp,
    hash := srcHash l }
/-- The enabled fields of an entry all match (R165). -/
def clsMatch (l : List Byte) (v : ClsView) : Bool :=
  let m := leAt l 0 2
  let on := fun (i : Nat) (p : Bool) => !m.testBit i || p
  let t := leAt l 2 1 % 4
  let tagged := v.tags != 0
  m.testBit 15
    && on 0 (if t = 0 then v.tags = 0 else if t = 1 then v.tags = 1 else if t = 2 then 2 ≤ v.tags else tagged)
    && on 1 (tagged && v.vid &&& leAt l 6 2 % 4096 == leAt l 4 2 % 4096 &&& leAt l 6 2 % 4096)
    && on 2 (tagged && leAt l 3 1 % 8 ≤ v.pcp && v.pcp ≤ bits (leAt l 3 1) 6 4)
    && on 3 (v.et = leAt l 8 2)
    && on 4 (v.ipVer == some (leAt l 10 1))
    && on 5 (v.proto == some (leAt l 11 1))
    && on 6 (match v.port with | some x => decide (leAt l 12 2 ≤ x ∧ x ≤ leAt l 14 2) | none => false)
    && on 7 (v.hash &&& leAt l 18 2 == leAt l 16 2 &&& leAt l 18 2)
/-- The decision: whether CLS_DEFAULT decided, the entry, and ACTION, TARGET, MIRROR_SILO as three bytes (R164, R167). -/
def classify (b : Block) (p : Nat) (l : List Byte) : Bool × Nat × Nat × Nat × Nat :=
  let v := clsView b p l
  match (List.range 64).find? fun e => clsMatch (bytesOfWords (wordsNow b (clsAddr p e) 8)) v with
  | some e =>
    let w := b.r (clsAddr p e + 20)
    (false, e, fld w 7 0, fld w 15 8, fld w 19 16)
  | none =>
    let w := b.r (pg (4 + p) 0x054)
    (true, 0, fld w 7 0, fld w 15 8, fld w 23 16 % 16)

/-- A mirrored frame is taken: it was accepted by the active member (R475); the classifier's decision, which no message of the
link carries, is formed again from the tables, which agree (R607; DEDUCED 203). -/
def mirrorFrame (stamp : Gt) (src : Nat) (body : List Byte) (b : Block) : Block :=
  let d := classify b (src / 64) body
  let f : GlFrame := { port := src / 64, cls := src / 16 % 4, dflt := d.1, entry := d.2.1, bytes := body, stamp := stamp }
  match gleanParse b f.port f.cls body stamp false with
  | (.ok vals sv, c) => c |> cnt (glCnt 0) |> glWrite f vals sv |> dropMirror
  | (_, _) => dropMirror b
/-- R214. -/
def execGleanFrame (s : State) : Out :=
  s.run fun b =>
    if !glRuns b then b
    else if b.follows then
      match nextMirror b with
      | some (stamp, src, _, body) => if src.testBit 3 then b else b |> notePeak |> mirrorFrame stamp src body
      | none => b
    else match nextFrame b with
    | some (p, f) => b |> notePeak |> bufLeave p (fun s => { s with atGlean := none }) |> glTake f |> sendMark
    | none => b
/-- The reporting instant of a mirrored local entry: its delivery stamp less D_loc of the entry in force at it (R19, R213). -/
def localInst (b : Block) (slot : Nat) (stamp : Gt) : Gt :=
  let at_ := fun (e : Stream) => stamp - gtNs (dLoc b e)
  (((stamp :: b.glean.past.map (·.1)).map fun T => streamAt b T slot).findSome? fun e =>
    if e.enrolled && streamAt b (at_ e) slot == e then some (at_ e) else none).getD (at_ (streamNow b slot))
/-- R19, R227: the next local entry. -/
def execGleanLocalEntry (s : State) : Out :=
  s.run fun b =>
    if !glRuns b then b
    else if b.follows then
      match nextMirror b with
      | some (stamp, src, slot, body) =>
        if src.testBit 3 then
          let inst := localInst b slot stamp
          b |> notePeak |> glLocalWrite slot inst stamp (localBody body) |> dropMirror
        else b
      | none => b
    else match nextLocal b with
    | some e =>
      let v : Values := { quality := e.quality ||| 0x8000, freq := e.freq, rocof := e.rocof, phasors := e.ph, analogs := [], digitals := e.dig }
      b |> notePeak |> modGlean (fun g => { g with locq := g.locq.drop 1 })
        |> record e.stamp 0x08 e.slot (sectionBytes e.slot v.quality e.stamp v)
        |> glLocalWrite e.slot e.inst e.stamp v |> sendMark
    | none => b

/-! Replay (R263). -/

/-- The values a record holds. -/
def recordValues (b : Block) (l : List Byte) : List (Nat × Gt × Values) :=
  let stamp := widen b.now (leAt l 0 10)
  let src := leAt l 10 1
  let body := slice l 16 (leAt l 12 2)
  if src.testBit 3 then
    let slot := leAt l 14 2
    let e := streamNow b slot
    let inst := stamp - gtNs (dLoc b e)
    [(slot, inst, localValues b e inst (localBody body))]
  else match gleanParse b (src / 64) (src / 16 % 4) body stamp false with
  | (.ok vals _, _) => vals
  | _ => []
/-- One value of a replay: only for the bale, only once for its slot (R217). -/
def replayValue (p : Replay) (stamp : Gt) (v : Nat × Gt × Values) (e : Bale × Block) : Bale × Block :=
  let (x, b) := e
  if v.2.1 != x.time || x.arrived.contains v.1 then e else
  match secOfSlot x.secs v.1 with
  | none => e
  | some s => ({ x with arrived := x.arrived ++ [v.1] },
      granWrite (baleOfs b p.rate x + s.ofs) (sectionBytes v.1 v.2.2.quality stamp v.2.2) b)
/-- The part has a live frame or entry ready, or mirrored records (R263). -/
def liveReady (b : Block) : Bool := if b.follows then (nextMirror b).isSome else (nextFrame b).isSome || (nextLocal b).isSome
/-- R263: one record is parsed in a replay slice. -/
def execReplaySlice (s : State) : Out :=
  s.run fun b =>
    if !glRuns b || b.inReset 0x19 || liveReady b then b else
    match b.gran.replay with
    | none => b
    | some p => match p.recs with
      | [] => b
      | e :: rest =>
        let l := jrnRead b e
        let (x, c) := (recordValues b l).foldl (fun a v => replayValue p (shortGrain e.stamp) v a) (p.bale, b)
        modGran (fun g => { g with replay := some { p with bale := x, recs := if x.full then [] else rest } }) c
/-- The replay closes: the bale, then the live late values that waited. -/
def replayClose (p : Replay) (b : Block) : Block :=
  let x := p.bale
  let late := fun (e : List Byte × Gt) (b : Block) => match (b.rate p.rate).bale x.idx with
    | some y =>
      let slot := leAt e.1 0 2
      if y.arrived.contains slot || y.late.contains slot then b else lateWrite p.rate y slot e.1 e.2 b
    | none => b
  b |> modGran (fun g => { g with replay := none })
    |> closeBale p.rate x ((if x.full then fCOMPLETE else fDEADLINE) + fREPLAYED)
    |> setReplaySts false p.rate 0 |> cnt (pg 0x19 0x510) |> irq 0x19 4 |> evr 0x313 p.rate x.idx |> forEach p.late late
/-- R263: GR_REPLAY_CMD. -/
def execReplayCmd (ag : Agent) (v : Word) (s : State) : Out :=
  s.run (cmdGate ag 0x19 0x070 fun b => replayStart (fld v 1 0) (b.n (pg 0x19 0x06C)) 0 b)

/-! Commits (R211–R213, R221, R225). -/

/-- Writable bits of a stream entry's word (R211, R13). -/
def streamMask (kind2 : Bool) (i : Nat) : Nat :=
  match i with
  | 0 => 0xFFFFF800
  | 1 => 0x1FFFFFFF
  | 2 => 0x03FFFFFF
  | 3 => 0xFFFF00FF
  | 4 => 0x00FFFFFF
  | 5 | 6 | 7 => 0xFFFFFFFF
  | _ => if kind2 && 16 ≤ i then 0xFFFFFFFF else 0
/-- Ranges of phasor channels overlap. -/
def phOverlap (a c : Stream) : Bool := a.nph != 0 && c.nph != 0 && a.phBase < c.phBase + c.nph && c.phBase < a.phBase + a.nph
/-- Why an entry is refused, 0 where it is not (R211, R212, R236): its fields' ranges hold for any entry, but that RATE may be 0
in one that is not enrolled (DEDUCED 205); the rest is checked of an enrolled one. -/
def streamCheck (b : Block) (slot : Nat) (e : Stream) : Nat :=
  let others := (slotsNow b).filterMap fun s => if s = slot then none else some (streamNow b s)
  if (e.kind = 2 && e.chans.any (528 ≤ ·)) || (e.kind = 2 && 528 ≤ e.freqChan) then 0x06
  else if 2 < e.kind || e.auth = 3 || ((e.enrolled || e.rate != 0) && !(rateList (e.fmt.testBit 4)).contains e.rate) then 0x22
  else if 32 < e.nph || (if e.kind = 2 then 0 else 16) < e.nan || (if e.kind = 2 then 1 else 8) < e.ndg then 0x21
  else if !e.enrolled then 0
  else if (e.kind = 2) != decide (8128 ≤ slot) then 0x24
  else if others.any fun o => (e.kind = 0 && o.kind = 0 && o.id = e.id && o.block = e.block)
      || (e.kind = 1 && o.kind = 1 && o.id = e.id && o.svid = e.svid) then 0x20
  else if 65536 < e.phBase + e.nph || others.any (phOverlap e) then 0x23
  else if e.kind = 0 && (e.timeBase = 0 || e.frameSize < e.blkOfs
      || others.any fun o => o.kind = 0 && o.id = e.id && (o.frameSize, o.timeBase) != (e.frameSize, e.timeBase)) then 0x25
  else 0
/-- R213: the staged entry is checked and committed whole. -/
def streamCommit (slot : Nat) (v : Word) (b : Block) : Block :=
  let a := strAddr slot
  let raw := v :: (stagedWords b (a + 4) 31)
  let kind2 := bits v.toNat 14 12 = 2
  let ws := raw.zipIdx.map fun (w, i) => w &&& w32 (streamMask kind2 i)
  let e := streamOf ws
  let code := streamCheck b slot e
  let c := wrList a ws b
  let cap := [0, 1, 2, 3].find? fun r => (b.rate r).on && b.n (brReg r 0x08C) < baleSize (layoutNow c r)
  if code != 0 then err 0x18 code b
  else if cap.isSome then b |> err 0x18 0x27 |> err 0x19 0x21
  else b |> commitWords b.mark a ws |> dropStaged a 32 |> evr 0x300 slot (b01 e.enrolled)
/-- R213. -/
def execStreamEntryCommit (ag : Agent) (slot : Fin 8192) (v : Word) (s : State) : Out :=
  s.run (cmdGateL ag 0x18 0 (streamCommit slot.val v))
/-- Staging registers of the calibration words: CAL_UNIT to CAL_ANG. -/
def calStage : Nat := pg 0x18 0x064
/-- R221: CAL_IDX loads the committed words of its channel into staging. -/
def calLoad (v : Word) (b : Block) : Block :=
  let i := fld v 15 0
  let ws := wordsNow b (calAddr i) 4
  b |> wn (pg 0x18 0x060) i |> forEach (ws.zipIdx) fun (w, k) => stage (calStage + 4 * k) w
/-- R221. -/
def execCalIdxLoad (ag : Agent) (v : Word) (s : State) : Out := s.run (cmdGate ag 0x18 0x060 (calLoad v))
/-- The staged calibration words. -/
def calWords (b : Block) : List Word :=
  let i := b.f (pg 0x18 0x060) 15 0
  (List.range 4).map fun k => mget (b.r (calAddr i + 4 * k)) b.staged (calStage + 4 * k)
/-- R221: the four words are committed to channel CAL_IDX. -/
def calCommit (v : Word) (b : Block) : Block :=
  let i := b.f (pg 0x18 0x060) 15 0
  b |> commitWords b.mark (calAddr i) ((calWords b).take 3 ++ [v]) |> stage (calStage + 12) v
/-- R221. -/
def execCalCommit (ag : Agent) (v : Word) (s : State) : Out := s.run (cmdGateL ag 0x18 0x070 (calCommit v))

end Sys2Proof.Machine
end

