-- ==== Sys2Proof/Machine/Export.lean ====
section
/-! DEFINITION. Output views: C37.118.2 frames, bale export and amendments (R229–R232, R256). -/

namespace Sys2Proof.Machine
open Sys2Proof

/-- The bytes of output view v (R229). -/
def viewBytes (b : Block) (v : Nat) : List Byte := bytesOfWords (wordsNow b (0x204000 + 256 * v) 64)
/-- VCTL of a view. -/
def vctl (l : List Byte) : Nat := leAt l 0 2
/-- A view's slots, in list order. -/
def viewSlots (l : List Byte) : List Nat :=
  (List.range (min (leAt l 10 1) 16)).flatMap fun i => (List.range (leAt l (194 + 4 * i) 2)).map (leAt l (192 + 4 * i) 2 + ·)
/-- Physical ports of a view: with PRP on, port A stands for the pair. -/
def viewPorts (b : Block) (l : List Byte) : List Nat := those 4 fun p => (vctl l).testBit p && !(prpOn b && p = 1)

/-! FRACSEC and the C37.118.2 frame (R140, R230). -/

/-- Leap bits of the FRACSEC byte at a grid second (R140). -/
def leapBits (b : Block) (sec : Nat) : Nat :=
  let pend := fun (l59 : Bool) => 0x10 + b01 l59 * 0x40
  match b.time.leapAt with
  | some (p, l59) =>
    let last := if l59 then p else p - 1
    let first := if l59 then p - 59 else p - 61
    if first ≤ sec && sec < last then pend l59
    else if p ≤ sec && sec < p + 86400 then 0x20 + b01 l59 * 0x40
    else match leapPending b, b.delta with
      | some l, some d =>
        let sod := ((sec : Int) - d) % 86400
        if 86340 ≤ sod && !(l && sod = 86399) then pend l else 0
      | _, _ => 0
  | none => match leapPending b, b.delta with
    | some l, some d =>
      let sod := ((sec : Int) - d) % 86400
      if 86340 ≤ sod && !(l && sod = 86399) then pend l else 0
    | _, _ => 0
/-- The FRACSEC time-quality byte (R140); its TQ code is the one in force when the frame is built (DESIGN CHOICE 208). -/
def fracTq (b : Block) (sec : Nat) : Nat := leapBits b sec + b.tq
/-- STAT of a block from its quality word (R230). -/
def statOf (q : Nat) : Nat :=
  let dead := !q.testBit 15 || q.testBit 12
  let tq := q % 16
  let back := if tq ≤ 2 then 1 else if tq ≤ 8 then tq - 2 else 7
  (if dead then 3 else if q.testBit 11 then 1 else 0) * 2 ^ 14 + bits q 10 7 * 2 ^ 10 + back * 2 ^ 6
/-- A binary32 of an exact number, big-endian. -/
def be32 (v : Fl) : List Byte := beBytes 4 (f32 v).toNat
/-- The quiet NaN of a block without values. -/
def nanBytes : List Byte := beBytes 4 0x7FC00000
/-- One PMU block of an output frame (R230). -/
def c37Block (b : Block) (T : Gt) (isPolar : Bool) (s : SecView) : List Byte :=
  let e := streamAt b T s.slot
  let st := statOf s.quality
  let dead := bits st 15 14 = 3
  let ph := (List.range s.nph).flatMap fun p =>
    if dead then nanBytes ++ nanBytes else
    let base := flOf32 (nth (wordsAt b T (calAddr (e.phBase + p)) 4) 1 0)
    let (x, y) := s.phasor p
    let sc := fun (v : Fl) => (v.mul base).mul (flQ 1 (2 ^ 28))
    if isPolar then be32 (sc (((flI x).mul (flI x)).add ((flI y).mul (flI y))).sqrt) ++ be32 (fl (fargRad (fInt x) (fInt y)))
    else be32 (sc (flI x)) ++ be32 (sc (flI y))
  let nom : Int := if e.fmt.testBit 4 then 60 else 50
  let fr := if dead then nanBytes ++ nanBytes else be32 (flQ (nom * 1000000 + s.freq) 1000000) ++ be32 (flQ s.rocof 1000000)
  let an := (List.range s.nan).flatMap fun a =>
    if dead then nanBytes
    else if e.anaFix.testBit a then be32 (flQ (sgn 32 (s.analog a)) 65536) else beBytes 4 (s.analog a)
  beBytes 2 st ++ ph ++ fr ++ an ++ (List.range s.ndg).flatMap fun d => beBytes 2 (s.digital d)
/-- The C37.118.2 data frame of a view (R230); none without a UTC offset. -/
def c37Frame (b : Block) (l : List Byte) (x : BaleRef) (secs : List SecView) : Option (List Byte) :=
  (deltaAt b (secOf x.time)).map fun d =>
    let tb := leAt l 4 3
    let blocks := (viewSlots l).flatMap fun s => match secs.find? fun y => y.slot == s with
      | some y => c37Block b x.time ((vctl l).testBit 10) y
      | none => []
    let n := 14 + blocks.length + 2
    let m := beBytes 2 0xAA02 ++ beBytes 2 n ++ beBytes 2 (leAt l 2 2) ++ beBytes 4 (pat 32 ((secOf x.time : Int) - d))
      ++ [BitVec.ofNat 8 (fracTq b (secOf x.time))] ++ beBytes 3 (nsOf x.time * tb / 1000000000) ++ blocks
    m ++ beBytes 2 (crc16 m)

/-! Bale export (R231, R232). -/

/-- Bale bytes in one chunk. -/
def chunkBytes : Nat := 262104
/-- The 32-byte header. -/
def gbxHeader (x : BaleRef) (kind : Nat) (chunked : Bool) : List Byte :=
  beBytes 4 0x47425831 ++ [1, BitVec.ofNat 8 kind, BitVec.ofNat 8 x.rate,
    BitVec.ofNat 8 (b01 chunked * 8 + leAt x.bytes 5 1 % 8 / 4 * 4 + leAt x.bytes 5 1 % 4 / 2 * 2 + leAt x.bytes 5 1 % 2)]
    ++ beBytes 4 x.idx ++ beBytes 8 (secOf x.time) ++ beBytes 4 (nsOf x.time) ++ beBytes 4 x.bytes.length
    ++ beBytes 4 (crc32c x.bytes)
/-- The payloads of a bale's export, one for each descriptor. -/
def gbxPayloads (x : BaleRef) (kind : Nat) : List (List Byte) :=
  if 32 + x.bytes.length ≤ 262144 then [gbxHeader x kind false ++ x.bytes] else
  (List.range (ceilDiv x.bytes.length chunkBytes)).map fun i =>
    let part := (x.bytes.drop (i * chunkBytes)).take chunkBytes
    gbxHeader x kind true ++ beBytes 4 (i * chunkBytes) ++ beBytes 4 part.length ++ part

/-- A descriptor of the export engine. -/
def exportDesc (l : List Byte) (mode : Nat) (T : Gt) (payload : List Byte) : Desc :=
  { src := .exp, addr := 0, len := payload.length, seg := leAt l 8 2, hdrLen := leAt l 11 1, mode := mode, space := 2, hdrAddr := 0,
    baleTime := shortNat T, tag := 0, payload := payload, template := slice l 64 (leAt l 11 1) }
/-- Descriptors go to the class 4 queue of each named port (R229). -/
def exportTo (l : List Byte) (ds : List Desc) (b : Block) : Block :=
  forEach (viewPorts b l) (fun p => queueDescs p ds) b
/-- Enabled views of a rate, ascending, that p picks. -/
def viewsOf (b : Block) (r : Nat) (p : Nat → Bool) : List (Nat × List Byte) :=
  ((List.range 64).map fun v => (v, viewBytes b v)).filter fun e =>
    (vctl e.2).testBit 15 && bits (vctl e.2) 13 12 = r && p (vctl e.2)
/-- One view's output for a closed bale. -/
def exportView (x : BaleRef) (secs : List SecView) (v : Nat) (l : List Byte) (b : Block) : Block :=
  if (vctl l).testBit 14 then exportTo l ((gbxPayloads x 0).map (exportDesc l 1 x.time)) b else
  match c37Frame b l x secs with
  | none =>
    let first := quiet b.glean.utcSkipAt b
    b |> onlyIf first (evr 0x304 v x.idx) |> modGlean (fun g => { g with utcSkipAt := some b.mono })
  | some m => if 65507 < m.length then evr 0x303 v m.length b else exportTo l [exportDesc l 2 x.time m] b
/-- R229: the export engine takes the next closed bale; a linked standby sends nothing (R477). -/
def execExportBale (bad : List Nat) (s : State) : Out :=
  s.run fun b =>
    if !b.up || b.inReset 0x19 then b else
    match b.gran.toExp with
    | [] => b
    | x :: rest =>
      let c := modGran (fun g => { g with toExp := rest }) b
      if !b.leads then c else
      let (l, c) := readBytesOf false x bad c
      let y := { x with bytes := l }
      forEach (viewsOf b x.rate fun _ => true) (fun e => exportView y (viewBale y.bytes) e.1 e.2) c
/-- A bale whose amendment time the watermark has passed (R256). -/
def amendDue (b : Block) : Option (Nat × Bale) :=
  pickBale b fun r x => x.closed && !x.amendDone && amendMs b r != 0 && x.deadline + gtMs (amendMs b r) ≤ b.mark
/-- R256; sections with an uncorrectable error go out INVALID (R262). -/
def execAmendmentExport (bad : List Nat) (s : State) : Out :=
  s.run fun b =>
    if !b.running || b.inReset 0x19 then b else
    match amendDue b with
    | none => b
    | some (r, x) =>
      let vs := viewsOf b r fun c => c.testBit 14 && c.testBit 11
      let c := putBale r { x with amendDone := true } b
      if x.late.isEmpty || vs.isEmpty then c else
      let a := baleOfs b r x
      let c := c |> putBale r { x with amendDone := true } |> granWrite (a + 50) [1]
      let ref : BaleRef := { rate := r, idx := x.idx, time := x.time, pos := x.pos, bytes := readBytes c.granMem a x.size }
      let (l, c) := if b.leads then readBytesOf false ref bad c else (ref.bytes, c)
      let ref := { ref with bytes := l }
      c |> onlyIf b.leads (forEach vs fun e => exportTo e.2 ((gbxPayloads ref 1).map (exportDesc e.2 1 x.time)))
        |> cnt (pg 0x19 (0x400 + 64 * r + 48))
        |> onlyIf (b.t (brReg r 0x080) 29) (fun d => siloPut (20 + r) (baleNotice d r x true) d)

end Sys2Proof.Machine
end

