-- ==== Sys2Proof/Machine/Ports.lean ====
section
/-! DEFINITION. The network ports: links, reception, PAUSE, PRP, the classifier, large send (R149–R184). -/

namespace Sys2Proof.Machine
open Sys2Proof

/-! Links (R151). -/

/-- The queued frames of classes 0 to 2 are dropped; of a PRP pair whose other port is up, those that it does not send (R171). -/
def dropQueued (p : Nat) (b : Block) : Block :=
  let s := b.port p
  let other := (prpPeer b p).any fun q => (b.port q).link
  let lost := (s.q0 ++ s.q1 ++ s.q2).filter fun f => !other || f.kind == .ptp || f.kind == .ptpPass
  b |> pcntBy p 45 lost.length
    |> modPort p (fun s => { s with q0 := [], q1 := [], q2 := [], c3 := [], c4 := [], pauseOut := [] })
/-- The link of a port goes down: cause 0 lock, 1 hi-BER, 2 local fault, 3 port disabled (R180). -/
def portDown (p cause : Nat) (b : Block) : Block :=
  if !(b.port p).link then b else
  b |> modPort p (fun s => { s with link := false }) |> pcnt p 18 |> irq (4 + p) 1 |> evr 0x201 p cause |> dropQueued p |> txKick p
/-- Training starts: the line has no lock yet (R179). -/
def portTrain (p : Nat) (b : Block) : Block :=
  modPort p (fun s => { s with blockLock := false, hiBer := false, localFault := false, remoteFault := false }) b
/-- The lines work from the restore of the settings on, but not while a cold or warm reset is held nor in Keep (R179). -/
def Block.linesOn (b : Block) : Bool :=
  b.aon && !b.dev.warm && b.balls.inact && b.dev.st != .keep
/-- What a transmitter sends between frames. -/
inductive LineIdle where
  | electricalIdle | idle | remoteFault
deriving DecidableEq, Repr
/-- A port's transmitter between frames (R151): electrical idle while disabled, remote fault while local fault persists with the
link down. -/
def lineIdle (b : Block) (p : Nat) : LineIdle :=
  if !b.linesOn || !b.enabled (4 + p) then .electricalIdle
  else if !(b.port p).link && (b.port p).localFault then .remoteFault
  else .idle
/-- R151: the levels the line shows now. -/
def execLinkChange (port : Fin 4) (blockLock hiBer localFault remoteFault : Bool) (s : State) : Out :=
  s.run fun b =>
    let p := port.val
    if !b.linesOn || b.inReset (4 + p) || !b.enabled (4 + p) then b else
    let rise := hiBer && !(b.port p).hiBer
    let c := b |> onlyIf rise (pcnt p 19)
      |> modPort p (fun s => { s with blockLock := blockLock, hiBer := hiBer, localFault := localFault, remoteFault := remoteFault })
    let up := blockLock && !hiBer && !localFault
    if up = (b.port p).link then c
    else if up then
      c |> modPort p (fun s => { s with link := true }) |> irq (4 + p) 1
        |> evr 0x200 p (b01 (b.t (pg (4 + p) 0x040) 2) * 2 + b01 (b.t (pg (4 + p) 0x040) 0)) |> txStart p
    else portDown p (if !blockLock then 0 else if hiBer then 1 else 2) c
/-- PG_CTL.ENABLE of a port changes (R151). -/
def portEnable (p : Nat) (en : Bool) (b : Block) : Block :=
  if en = b.enabled (4 + p) then b
  else if en then b |> wbit (pg (4 + p) 0x008) 0 true |> portTrain p
  else b |> wbit (pg (4 + p) 0x008) 0 false |> portDown p 3 |> portTrain p
/-- R151. -/
def execPortEnableChange (ag : Agent) (port : Fin 4) (en : Bool) (s : State) : Out :=
  s.run (hdrGate ag (4 + port.val) 0x008 fun b =>
    if b.sharedHeld (4 + port.val) 0x008 then err (4 + port.val) 0x01 b else portEnable port.val en b)

/-! PAUSE (R155–R158). -/

/-- Pause quanta as time: 20.48 ns at 25G, 51.2 ns at 10G. -/
def quantaTime (b : Block) (p q : Nat) : Gt :=
  if b.t (pg (4 + p) 0x040) 0 then ceilDiv (q * 2048 * 65536) 100 else ceilDiv (q * 512 * 65536) 10
/-- PAUSED ends: its time is counted and the queues go on. -/
def pauseOver (p : Nat) (at_ : Gt) (b : Block) : Block :=
  match (b.port p).pausedFrom with
  | some t => b |> pcntBy p 44 ((at_ - t) / 65536) |> modPort p (fun s => { s with pausedFrom := none })
  | none => b
/-- A valid PAUSE frame acts (R156); a pause runs on always-on time (DEDUCED 129). -/
def pauseRx (p q : Nat) (b : Block) : Block :=
  let s := b.port p
  let c := if s.pausedFrom.isSome && s.pauseEnd ≤ b.mono then pauseOver p s.pauseEnd b else b
  let c := modPort p (fun s => { s with pauseEnd := b.mono + quantaTime b p q }) c
  if q = 0 then c |> pauseOver p b.mono |> txStart p
  else if (c.port p).pausedFrom.isSome then c else modPort p (fun s => { s with pausedFrom := some b.mono }) c
/-- R156: the pause end is reached. -/
def execPauseEnd (port : Fin 4) (s : State) : Out :=
  s.run fun b =>
    let t := b.port port.val
    if t.pausedFrom.isSome && t.pauseEnd ≤ b.mono then b |> pauseOver port.val t.pauseEnd |> txStart port.val else b
/-- R158: half of the pause has run out. -/
def execPauseTxRepeat (port : Fin 4) (s : State) : Out :=
  s.run fun b =>
    let p := port.val
    let t := b.port p
    let q := fld (pauseCtl b p) 15 0
    match t.ownPause with
    | some at_ =>
      if b.t (pg (4 + p) 0x040) 5 && fld (pauseCtl b p) 23 16 * 1024 ≤ t.fill && at_ + quantaTime b p q / 2 ≤ b.mono
      then pauseSend p q b else b
    | none => b

/-! Reception (R152, R153, R155, R169). -/

/-- RX_BUF_STS keeps the peak fill in KiB. -/
def bufPeak (p : Nat) (b : Block) : Block :=
  let k := ceilDiv (b.port p).fill 1024
  if b.f (pg (4 + p) 0x078) 24 16 < k then wf (pg (4 + p) 0x078) 24 16 k b else b
/-- A MAC control frame (R155). -/
def macControl (p : Nat) (l : List Byte) (b : Block) : Block :=
  let own := slice l 0 6 == macOf b p || beAt l 0 6 == 0x0180C2000001
  if beAt l 14 2 = 1 && own then
    b |> pcnt p 13 |> onlyIf (b.t (pg (4 + p) 0x040) 4) (pauseRx p (beAt l 16 2))
  else pcnt p 14 b
/-- A good frame enters the ingress buffer with its stamp, or is lost (R118, R169). -/
def bufferFrame (p : Nat) (l : List Byte) (ago : Nat) (b : Block) : Block :=
  let s := b.port p
  if 262144 < s.fill + l.length then
    let first := quiet s.ovfAt b
    b |> pcnt p 15 |> modPort p (fun s => { s with ovfAt := some b.mono })
      |> onlyIf first (fun b => b |> irq (4 + p) 2 |> evr 0x202 p 0)
  else
    let st := stampAgo b (pg 0x02 (0x0B0 + 4 * p)) ago
    b |> modPort p (fun s => { s with rx := s.rx ++ [{ bytes := l, stamp := st }] }) |> bufPeak p
      |> pauseRise p s.fill (s.fill + l.length)
/-- A frame at the island: length and FCS (R153). -/
def frameIn (p : Nat) (l : List Byte) (errorBlock : Bool) (ago : Nat) (b : Block) : Block :=
  let n := l.length
  let good := !errorBlock && 4 ≤ n && crc32 (l.take (n - 4)) == leAt l (n - 4) 4
  let c := onlyIf errorBlock (pcnt p 12) b
  if n < 64 then pcnt p 9 c
  else if maxLen b p < n then pcnt p (if good then 10 else 11) c
  else if !good then pcnt p 8 c
  else
    let d0 := beAt l 0 1
    let c := c |> pcnt p 0 |> pcntBy p 1 n |> pcnt p (if beAt l 0 6 = 0xFFFFFFFFFFFF then 4 else if d0 % 2 = 1 then 3 else 2)
    if beAt l 12 2 = 0x8808 then macControl p l c else bufferFrame p l ago c
/-- FEC blocks corrected and uncorrectable, while FEC decoding is in use (R149, R178). -/
def fecCount (p corr uncorr : Nat) (b : Block) : Block :=
  let c := b.r (pg (4 + p) 0x040)
  if bitAt c 2 && bitAt c 0 then b |> pcntBy p 16 corr |> pcntBy p 17 uncorr else b
/-- R152: a frame arrives on a port whose link is up. -/
def execFrameReceive (port : Fin 4) (bytes : List Byte) (errorBlock : Bool) (ago : Nat) (fecCorr fecUncorr : Nat) (s : State) : Out :=
  s.run fun b =>
    if b.up && (b.port port.val).link then b |> fecCount port.val fecCorr fecUncorr |> frameIn port.val bytes errorBlock ago else b

/-! PRP reception (R159–R161). -/

/-- Changes the PRP pair. -/
def modPrp (f : PrpSt → PrpSt) (b : Block) : Block := { b with prp := f b.prp }
/-- The trailer of a frame (destination address to FCS): sequence and LanId, none where it carries no RCT (R159). -/
def rctOf (outer : Nat) (l : List Byte) : Option (Nat × Nat) :=
  let n := l.length - 4
  let size := (n - 14 - 4 * (tagsOf outer l).1) % 4096
  if n < 20 || beAt l (n - 2) 2 != 0x88FB || beAt l (n - 4) 2 % 4096 != size then none
  else some (beAt l (n - 6) 2, beAt l (n - 4) 1 / 16)
/-- A LAN has been heard (R161). -/
def lanHeard (p : Fin 2) (b : Block) : Block :=
  b |> modPrp (fun s => { s with seen := s.seen.set p b.mono, alive := s.alive.set p true })
    |> onlyIf (!b.prp.alive[p]) (evr 0x204 p.val 0)
/-- FORGET_MS. -/
def forgetTime (b : Block) : Gt := gtMs (b.f (pg 0x08 0x040) 25 16)
/-- The duplicate-discard table takes a frame: whether it passes (R160). -/
def prpTake (p : Fin 2) (src seq : Nat) (stamp : Gt) (b : Block) : Bool × Block :=
  if !(b.prp.alive[0] && b.prp.alive[1]) then (true, b) else
  let hit := b.prp.table.find? fun e => e.src = src && e.seq = seq
  let rest := b.prp.table.filter fun e => !(e.src = src && e.seq = seq)
  match hit with
  | some e =>
    if stamp ≤ e.stamp + forgetTime b then (false, b |> modPrp (fun s => { s with table := rest }) |> pcnt p.val 20)
    else (true, modPrp (fun s => { s with table := rest ++ [⟨src, seq, stamp⟩] }) b)
  | none =>
    if 16384 ≤ b.prp.table.length then
      (true, b |> modPrp (fun s => { s with table := s.table.drop 1 ++ [⟨src, seq, stamp⟩] }) |> pcnt p.val 24)
    else
      (true, modPrp (fun s => { s with table := s.table ++ [⟨src, seq, stamp⟩], peak := max s.peak (s.table.length + 1) }) b)
/-- Step 6 of R152 on port A or B: whether the frame goes on to the classifier. -/
def prpStep (p : Fin 2) (f : RxFrame) (et : Nat) (b : Block) : Bool × Block :=
  if et = 0x88FB && beAt f.bytes 0 5 = 0x01154E0001 then (false, b |> pcnt p.val 23 |> lanHeard p)
  else if et = 0x88F7 then (true, b)
  else match rctOf (outerTpid b p.val) f.bytes with
  | none => (true, pcnt p.val 21 b)
  | some (seq, lan) =>
    b |> onlyIf (lan != 0xA + p.val) (pcnt p.val 22) |> lanHeard p |> prpTake p (beAt f.bytes 6 6) seq f.stamp
/-- R160: the oldest entry has passed its age limit. -/
def execPrpEntryForget (s : State) : Out :=
  s.run fun b => match b.prp.table with
    | e :: l => if b.up && e.stamp + forgetTime b < b.now then modPrp (fun s => { s with table := l }) b else b
    | [] => b
/-- R161: a LAN has been silent for PRP_LAN_TO, on always-on time (DEDUCED 129). -/
def execPrpLanTimeout (lan : Fin 2) (s : State) : Out :=
  s.run fun b =>
    if b.up && prpOn b && b.prp.alive[lan] && b.prp.seen[lan] + gtMs (b.f (pg 0x08 0x048) 15 0) ≤ b.mono then
      b |> modPrp (fun s => { s with alive := s.alive.set lan false }) |> evr 0x203 lan.val 0
    else b
/-- The supervision frame of a node with duplicate discard (R162). -/
def supFrame (b : Block) : List Byte :=
  beBytes 5 0x01154E0001 ++ [BitVec.ofNat 8 (b.f (pg 0x08 0x044) 23 16)] ++ macOf b 0 ++ beBytes 2 0x88FB ++ beBytes 2 1
    ++ beBytes 2 b.prp.supSeq ++ [20, 6] ++ macOf b 0 ++ [0, 0]
/-- R162: every SUP_MS. -/
def execPrpSupTx (s : State) : Out :=
  s.run fun b =>
    let c := b.r (pg 0x08 0x044)
    if b.up && prpOn b && bitAt c 31 && b.prp.supAt + gtMs (fld c 15 0) ≤ b.mono then
      b |> txSend 0 2 .sup (supFrame b) |> modPrp (fun s => { s with supSeq := (s.supSeq + 1) % 65536, supAt := b.mono })
    else b
/-- PRP_EN changes: the table empties and both LANs count as not alive (R161, R183). -/
def prpSwitch (en : Bool) (b : Block) : Block :=
  if en = prpOn b then b
  else if en && b.t (pg 0x04 0x040) 0 != b.t (pg 0x05 0x040) 0 then err 0x08 0x20 b
  else b |> wbit (pg 0x08 0x040) 0 en |> modPrp (fun s => { s with table := [], alive := Vector.replicate 2 false })
/-- R183. -/
def execPrpEnChange (ag : Agent) (en : Bool) (s : State) : Out := s.run (cmdGateL ag 0x08 0x040 (prpSwitch en))

/-! The classifier (R164–R168). -/

/-- A frame reaches its target (R167). -/
def deliver (p : Nat) (f : RxFrame) (b : Block) : Block :=
  let (dflt, e, act, target, ms) := classify b p f.bytes
  let item := frameItem b dflt p (if dflt then 0 else e) 0 f.stamp f.bytes
  let c := b |> usedFreeN 64
    |> (fun b => if dflt then pcnt p 30 b else wn (clsAddr p e + 24) (b.n (clsAddr p e + 24) + 1) b)
    |> onlyIf (match ipView b p f.bytes with | some v => v.frag | none => false) (pcnt p 33)
  let a := act % 8
  let c := if act.testBit 7 && a != 1 && a != 3 && b.t (pg 0x00 0x050) 0 then c |> plSend (.clsMirror ms item) |> pcnt p 31 else c
  if a = 1 then
    let c := pcnt p 27 c
    if b.dev.st == .idle then cnt32 (pg 0x00 0x09C) c
    else if !b.leads || (b.pair.takeAt.any fun t => f.stamp < t) then cnt (pg 0x60 0x258) c
    else modPort p (fun s => { s with
      atGlean := some { port := p, cls := target, dflt := dflt, entry := if dflt then 0 else e, bytes := f.bytes, stamp := f.stamp } }) c
  else if a = 2 then
    c |> pcnt p 28 |> onlyIf (!b.siloFits target (ceilDiv item.length 64)) (pcnt p 32) |> siloPut target item
  else if a = 3 then
    c |> pcnt p 25 |> modTime (fun t => { t with ptpIn := t.ptpIn ++ [(p, f.stamp, f.bytes)] })
  else if dflt then c else pcnt p 29 c
/-- PTP on port C or D in pass-through (R163, R133). -/
def passThrough (p : Nat) (o : Nat) (f : RxFrame) (b : Block) : Block :=
  let typ := beAt f.bytes o 1 % 16
  if typ = 2 || typ = 3 || typ = 0xA then modTime (fun t => { t with tcIn := t.tcIn ++ [(p, f.stamp, f.bytes)] }) b
  else
    let d := if p = 2 then b.time.tc[0].pdelay else b.time.tc[1].pdelay
    b |> pcnt p 26
      |> txPut (5 - p) 0 { kind := .ptpPass, bytes := f.bytes.take (f.bytes.length - 4), ingress := f.stamp, extra := d }
/-- The head frame of a port's buffer may leave: the Gleaner has taken the last, and on a PRP pair the merge of A and B
by stamp, in the short form, has come to it (R115, R152, R160). -/
def headOf (b : Block) (p : Nat) : Option RxFrame :=
  match (b.port p).rx.head? with
  | some f =>
    if (b.port p).atGlean.isSome then none
    else if prpOn b && p < 2 then
      match (b.port (1 - p)).rx.head? with
      | some g =>
        let (x, y) := (shortGrain g.stamp, shortGrain f.stamp)
        if x < y || (x = y && p = 1) then none else some f
      | none => some f
    else some f
  | none => none
/-- Steps 4 to 7 of R152. -/
def dequeueTo (p : Nat) (f : RxFrame) (b : Block) : Block :=
  let c := modPort p (fun s => { s with rx := s.rx.drop 1 }) b
  let (et, o) := rxEth b p f.bytes
  let (n, more) := if b.t (pg (4 + p) 0x040) 3 then tagsOf (outerTpid b p) f.bytes else (0, false)
  let c := if more then pcnt p 7 c else if n = 2 then pcnt p 6 c else if n = 1 then pcnt p 5 c else c
  if passOn b && 2 ≤ p && et = 0x88F7 then passThrough p o f c
  else if prpOn b && p < 2 then
    match prpStep (if p = 0 then 0 else 1) f et c with
    | (true, c) => deliver p f c
    | (false, c) => c
  else deliver p f c
/-- The head frame goes on; where it leaves the buffer, XON may follow (R158). -/
def dequeue (p : Nat) (f : RxFrame) (b : Block) : Block :=
  let c := dequeueTo p f b
  pauseFall p (b.port p).fill (c.port p).fill c
/-- R152. -/
def execIngressDequeue (port : Fin 4) (s : State) : Out :=
  s.run fun b =>
    if !b.up || b.inReset (4 + port.val) then b else
    match headOf b port.val with
    | some f => dequeue port.val f b
    | none => b

/-- Writable bits of a classifier entry's words (R166). -/
def clsMask (i : Nat) : Nat :=
  match i with
  | 0 => 0x770380FF
  | 1 => 0x0FFF0FFF
  | 2 | 3 | 4 => 0xFFFFFFFF
  | 5 => 0x000FFF87
  | _ => 0
/-- ACTION and TARGET that R167 refuses. -/
def clsBad (act target : Nat) : Bool := (act % 8 = 1 && 2 < target) || (act % 8 = 2 && 15 < target)
/-- R168: bytes 0–3 apply the staged words and zero HIT_CNT. -/
def clsCommit (p e : Nat) (v : Word) (b : Block) : Block :=
  let a := clsAddr p e
  let ws := (v :: stagedWords b (a + 4) 7).zipIdx.map fun (w, i) => w &&& w32 (clsMask i)
  let w5 := nth ws 5 0
  if clsBad (fld w5 7 0) (fld w5 15 8) then err (4 + p) 0x06 b
  else b |> wrList a ws |> dropStaged a 8 |> onlyIf b.mirrors (plSend (.commit a b.mark ws))
/-- R168. -/
def execClsEntryCommit (ag : Agent) (port : Fin 4) (entry : Fin 64) (v : Word) (s : State) : Out :=
  s.run (cmdGateL ag (4 + port.val) 0 (clsCommit port.val entry.val v))

/-! Large send (R172–R177). -/

/-- R170: the frame on the line ends. -/
def txEnd (p : Nat) (b : Block) : Block :=
  match (b.port p).sending with
  | none => b
  | some f =>
    let c := b |> modPort p (fun s => { s with sending := none }) |> pcnt p 34 |> pcntBy p 35 (f.bytes.length + 4)
    let c := match f.kind with
      | .ptp => pcnt p 36 c
      | .ptpPass => c |> pcnt p 36 |> pcnt p 41
      | .goose _ => pcnt p 37 c
      | .sv => pcnt p 38 c
      | .host => pcnt p 39 c
      | .exp => pcnt p 40 c
      | .sup => c |> pcnt p 38 |> pcnt p 42
      | .pause => pcnt p 43 c
    txStart p c
/-- R170. -/
def execTxFrameEnd (port : Fin 4) (s : State) : Out := s.run (txEnd port.val)
/-- R177: the producer index. -/
def execLsoProdWrite (ag : Agent) (port : Fin 4) (v : Word) (s : State) : Out :=
  s.run (cmdGate ag (4 + port.val) 0x06C (wn (pg (4 + port.val) 0x06C) (fld v 11 0)))
/-- The status of a descriptor at its check, none where it may be sent (R176): a bad SPACE first, then codes ascending. -/
def descCheck (b : Block) (p : Nat) (d : Desc) (template : Option (List Byte)) : Option Nat :=
  let outer := outerTpid b p
  let prp := (prpPeer b p).isSome
  let limit := maxLen b p - (if prp then 6 else 0)
  let m := d.mode % 4
  let t := template.getD []
  let spaceBad := match d.src with
    | .host _ => d.space != 0
    | .engine _ => d.space != 1 && d.space != 2
    | _ => false
  if spaceBad then some 8
  else if d.len = 0 || 262144 < d.len || d.hdrLen < (if m = 0 then 14 else 42) || 128 < d.hdrLen then some 1
  else if template.isNone then some 5
  else if m = 3 || (m != 0 && !tmplV4 outer t && !tmplV6 outer t) then some 2
  else if (m = 0 && limit < d.hdrLen + d.len + 4)
      || (m = 1 && (d.seg = 0 || limit < d.hdrLen + 12 + d.seg + 4))
      || (m = 2 && (d.seg = 0 || d.seg % 8 != 0 || limit + 8 < d.hdrLen + d.seg + 4)) then some 3
  else if m = 2 && (tmplV6 outer t || 65507 < d.len) then some 4
  else if !((b.port p).link || (prp && (b.port (1 - p)).link)) then some 6
  else none
/-- A descriptor is checked, and its frames may start (R176). -/
def descChecked (b : Block) (p : Nat) (d : Desc) (template : Option (List Byte)) (payload : List Byte) : Desc :=
  let d := { d with template := template.getD [], payload := payload, checked := true }
  let limit := maxLen b p - (if (prpPeer b p).isSome then 6 else 0)
  match descCheck b p d template with
  | some code => { d with status := some code }
  | none => { d with count := lsoCount (outerTpid b p) limit d }
/-- A descriptor's 64 bytes (R172). -/
def descOf (src : DescSrc) (l : List Byte) : Desc :=
  { src := src, addr := leAt l 0 8, len := leAt l 8 4 % 2 ^ 19, seg := leAt l 12 2, hdrLen := leAt l 14 1, mode := leAt l 15 1 % 4,
    space := leAt l 15 1 / 4 % 4, hdrAddr := leAt l 16 8, baleTime := leAt l 24 10, tag := leAt l 36 4 }
/-- The memory of a descriptor's space (R172): 1 LPDDR5X, 2 the Granary. -/
def spaceBytes (b : Block) (space addr n : Nat) : List Byte := readBytes (if space = 2 then b.granMem else b.ddr) addr n
/-- The payload of a descriptor that passed its checks could not be read whole: the memory's own account of it (R523,
R538). -/
def descUe (d : Desc) (readable : Nat) (b : Block) : Block :=
  if d.status.isSome || d.len ≤ readable then b else
  match d.src with
  | .host _ => b
  | .exp => sramUe 0x19 b
  | .cap _ _ => ddrUe (0x40000000 + Config.freeNat b.freeCtr % 0x200000000) (usedFree b)
  | .engine _ => if d.space = 2 then sramUe 0x19 b else ddrUe (d.addr + readable) b
/-- R172: the next descriptor of the host's ring, or of the class 4 queue, is fetched and checked. -/
def execLsoDescriptor (src : LsoFetch) (s : State) : Out :=
  s.run fun b => match src with
    | .ring port desc payload template =>
      let p := port.val
      let cons := b.n (pg (4 + p) 0x070)
      if !b.hostUp || b.inReset (4 + p) || b.n (pg (4 + p) 0x06C) = cons || !(b.port p).d3.isEmpty then b else
      let d := descOf (.host cons) desc
      b |> modPort p (fun s => { s with d3 := [{ descChecked b p d (template.map (padTo d.hdrLen)) (payload.take d.len) with ord := b.prp.ord }] })
        |> modPrp (fun s => { s with ord := s.ord + 1 }) |> txKick p
    | .queue port readable =>
      let p := port.val
      match (b.port p).d4 with
      | d :: rest =>
        if !b.up || b.inReset (4 + p) || d.checked then b else
        let e := match d.src with
          | .exp | .cap _ _ => descChecked b p d (some d.template) (d.payload.take readable)
          | _ => descChecked b p d (some (spaceBytes b d.space d.hdrAddr d.hdrLen)) (spaceBytes b d.space d.addr (min d.len readable))
        b |> modPort p (fun s => { s with d4 := e :: rest }) |> descUe e readable |> txKick p
      | [] => b
/-- A finished descriptor is accounted for (R176); the host's is written back and its ring advances (R177). -/
def descDone (p : Nat) (host : Bool) (d : Desc) (code : Nat) (b : Block) : Block :=
  let size := b.n (pg (4 + p) 0x068)
  let base := b.n64 (pg (4 + p) 0x060)
  let c := if code = 0 then pcnt p 46 b else b |> pcnt p 47 |> irq (4 + p) 3
  let c := if host then modPort p (fun s => { s with d3 := s.d3.drop 1 }) c else modPort p (fun s => { s with d4 := s.d4.drop 1 }) c
  match d.src with
  | .host i =>
    c |> emit (.hostMem (base + 64 * i + 56) (leBytes 4 d.sent ++ leBytes 4 (2 ^ 31 + code)))
      |> wn (pg (4 + p) 0x070) ((i + 1) % max size 1) |> irq (4 + p) 0 |> txStart p
  | .cap q n => txStart p { c with cap := { c.cap with done := c.cap.done ++ [(q, n, code)] } }
  | _ => txStart p c
/-- R176. -/
def execLsoDescriptorDone (port : Fin 4) (host : Bool) (s : State) : Out :=
  s.run fun b =>
    let p := port.val
    match (if host then (b.port p).d3 else (b.port p).d4).head? with
    | some d => match d.status with
      | some code => descDone p host d code b
      | none => b
    | none => b

end Sys2Proof.Machine
end

