-- ==== Sys2Proof/Machine/Ptp.lean ====
section
/-! DEFINITION. PTP messages and the other time inputs and outputs: PPS, time of day, IRIG-B, REF_IN, leap seconds and
the sample-pulse generator's settings (R129–R144). -/

namespace Sys2Proof.Machine
open Sys2Proof

/-! PTP messages (R129–R133). The layout of messages is IEEE 1588-2019's. -/

/-- A PTP message as parsed: header fields, and the message's own bytes. -/
structure PtpMsg where
  typ : Nat
  domain : Nat
  twoStep : Bool
  seq : Nat
  /-- correctionField, 2^-16 ns -/
  corr : Int
  /-- sourcePortIdentity, 10 bytes -/
  source : List Byte
  /-- the second flag byte: bit 0 leap61, bit 1 leap59, bit 2 UTC offset valid -/
  flags : Nat
  bytes : List Byte
deriving DecidableEq, Repr

/-- The message of a frame (destination address to FCS), or none where it is not PTP (R129, R167). -/
def ptpParse (outer : Nat) (l : List Byte) : Option PtpMsg :=
  let o := ptpOfs outer l
  if beAt l (o - 2) 2 != 0x88F7 then none else
  let n := beAt l (o + 2) 2
  let m := slice l o n
  if n < 34 || l.length < o + n + 4 || beAt m 1 1 % 16 != 2 then none else
  some { typ := beAt m 0 1 % 16, domain := beAt m 4 1, twoStep := (beAt m 6 1).testBit 1, seq := beAt m 30 2,
         corr := sgn 64 (beAt m 8 8), source := slice m 20 10, flags := beAt m 7 1, bytes := m }
/-- A PTP timestamp of 10 bytes, in 2^-16 ns. -/
def ptpStamp (m : List Byte) (o : Nat) : Gt := mkGt (beAt m o 6) (beAt m (o + 6) 4)
/-- The message is authentic: without AUTH_EN always, else by its authentication TLV under the key of PTP_KEY (R129, R130). -/
def ptpAuth (m : PtpMsg) (b : Block) : Bool × Block :=
  if !b.t (pg 0x02 0x090) 3 then (true, b) else
  let n := m.bytes.length
  let tlv := n - 26
  if n < 34 + 26 || beAt m.bytes tlv 2 != 0x8009 || beAt m.bytes (tlv + 6) 4 != b.f (pg 0x02 0x094) 15 8 then (false, b) else
  match keyUse (b.f (pg 0x02 0x094) 7 0) 5 b with
  | (some key, b1) => (padTo 16 (Config.hmac256 key (m.bytes.take (n - 16))) == m.bytes.drop (n - 16), b1)
  | (none, b1) => (false, b1)
/-- The inaccuracy in ns that an Announce's profile TLV declares; 0 without one (R129). -/
def ptpInacc (m : List Byte) : Nat := if m.length < 64 + 22 || beAt m 64 2 != 3 then 0 else beAt m (64 + 16) 4
/-- The data set of an Announce. -/
def ptpAnnounceOf (m : PtpMsg) : Announce :=
  let l := m.bytes
  { prio1 := beAt l 47 1, cls := beAt l 48 1, acc := beAt l 49 1, variance := beAt l 50 2, prio2 := beAt l 52 1,
    gm := BitVec.ofNat 64 (beAt l 53 8), steps := beAt l 61 2,
    sender := BitVec.ofNat 64 (beAt m.source 0 8), senderPort := beAt m.source 8 2,
    utc := sgn 16 (beAt l 44 2), utcValid := m.flags.testBit 2, leap59 := m.flags.testBit 1, leap61 := m.flags.testBit 0,
    inacc := ptpInacc l }
/-- Length of an own message: with the authentication TLV while AUTH_EN is 1. -/
def ptpLen (b : Block) (n : Nat) : Nat := if b.t (pg 0x02 0x090) 3 then n + 26 else n
/-- An own one-step Pdelay_Resp to a request: the turnaround is added at its egress. -/
def pdelayRespMsg (b : Block) (p seq : Nat) (corr : Int) (requester : List Byte) : List Byte :=
  ptpHeader b p 3 (ptpLen b 54) seq corr ++ zeros 10 ++ padTo 10 requester
/-- A management RESPONSE with the data set asked for (R129): default, current, parent and time properties. -/
def ptpManage (b : Block) (p : Nat) (m : PtpMsg) : Option (List Byte) :=
  let id := beAt m.bytes 52 2
  let own := ownAnnounce b
  let best := (b.time.ptp[b.time.ptpActive].best).getD own
  let gmq := fun (a : Announce) => beBytes 1 a.cls ++ beBytes 1 a.acc ++ beBytes 2 a.variance
  let body : Option (List Byte) :=
    if id = 0x2000 then
      some ([BitVec.ofNat 8 (b01 (b.f (pg 0x02 0x090) 7 6 == 1) * 2), 0] ++ beBytes 2 1 ++ beBytes 1 own.prio1 ++ gmq own
        ++ beBytes 1 own.prio2 ++ clockId b p ++ beBytes 1 (b.f (pg 0x02 0x090) 31 24) ++ [0])
    else if id = 0x2001 then
      some (beBytes 2 best.steps ++ beBytes 8 (pat 64 (sgn 32 (b.n (pg 0x02 0x09C)) * 2 ^ 14))
        ++ beBytes 8 (pat 64 b.time.ptp[b.time.ptpActive].pdelay))
    else if id = 0x2002 then
      some (beBytes 8 best.sender.toNat ++ beBytes 2 best.senderPort ++ [0, 0] ++ beBytes 2 0xFFFF ++ beBytes 4 0x7FFFFFFF
        ++ beBytes 1 best.prio1 ++ gmq best ++ beBytes 1 best.prio2 ++ beBytes 8 best.gm.toNat)
    else if id = 0x2003 then
      some (beBytes 2 (pat 16 ((b.delta).getD 0))
        ++ beBytes 1 (8 + b01 (b.delta).isSome * 4 + b01 (leapPending b == some true) * 2 + b01 (leapPending b == some false))
        ++ [0x90])
    else none
  body.map fun d =>
    ptpHeader b p 0xD (ptpLen b (48 + 6 + d.length)) m.seq 0 ++ m.source ++ [0, 0, 2, 0] ++ beBytes 2 1 ++ beBytes 2 (2 + d.length)
      ++ beBytes 2 id ++ d
/-- The PTP port of the part on a physical port (R129, R132). -/
def ptpAt (b : Block) (p : Nat) : Option (Fin 2) :=
  if p = ptpPhys b 0 then some 0 else if ptpHas b 1 && p = ptpPhys b 1 then some 1 else none
/-- A peer-delay answer (R129): the exchange of one PTP port or of a transparent-clock port is completed or waits. -/
def pdelayAnswer (m : PtpMsg) (ingress : Gt) (own : List Byte) (s : PtpPort) : PtpPort :=
  let mine := slice m.bytes 44 10 == own
  match s.pdReq with
  | some (q, t1) =>
    if q != m.seq || !mine then s
    else if m.typ = 3 then
      if m.twoStep then { s with pdResp := some (q, ptpStamp m.bytes 34, ingress, m.corr) }
      else
        { s with pdReq := none, pdResp := none, pdelay := ((ingress : Int) - t1 - m.corr) / 2 }
    else match s.pdResp with
      | some (q2, t2, t4, c) =>
        if q2 != m.seq then s
        else
          { s with
            pdReq := none, pdResp := none,
            pdelay := (((t4 : Int) - t1) - ((ptpStamp m.bytes 34 : Int) - t2) - c - m.corr) / 2 }
      | none => s
  | none => s
/-- A PTP message of a PTP port of the part (R129, R130). -/
def ptpHandle (k : Fin 2) (p : Nat) (ingress : Gt) (m : PtpMsg) (b : Block) : Block :=
  let own := clockId b p ++ beBytes 2 1
  let s := b.time.ptp[k]
  if m.typ = 1 || m.typ = 9 then cnt32 (pg 0x02 0x0AC) b
  else if m.domain != b.f (pg 0x02 0x090) 31 24 then b
  else match ptpAuth m b with
  | (false, b1) => err 0x02 0x25 b1
  | (true, b1) =>
    if m.typ = 0 then
      if m.twoStep then modPtp k (fun s => { s with sync := some (m.seq, ingress, m.corr) }) b1
      else ptpOffset k ingress (ptpStamp m.bytes 34) m.corr b1
    else if m.typ = 8 then
      match s.sync with
      | some (q, t, c) =>
        if q = m.seq then b1 |> modPtp k (fun s => { s with sync := none }) |> ptpOffset k t (ptpStamp m.bytes 34) (c + m.corr)
        else b1
      | none => b1
    else if m.typ = 0xB then ptpAnnounce k (ptpAnnounceOf m) b1
    else if m.typ = 2 then ptpSend p true (pdelayRespMsg b1 p m.seq m.corr m.source) ingress b1
    else if m.typ = 3 || m.typ = 0xA then b1 |> modPtp k (pdelayAnswer m ingress own) |> ptpRegs
    else if m.typ = 0xD && beAt m.bytes 46 1 % 16 = 0 then
      match ptpManage b1 p m with
      | some l => ptpSend p false l 0 b1
      | none => b1
    else b1
/-- R129: the timebase discards a frame that is not PTP (R167) or comes on a port that PTP_CTL does not name. -/
def execPtpMessageRx (s : State) : Out :=
  s.run fun b => match b.time.ptpIn with
    | [] => b
    | (p, ingress, l) :: rest =>
      let b1 := modTime (fun t => { t with ptpIn := rest }) b
      match ptpParse (outerTpid b p) l, ptpAt b p with
      | some m, some k => utcTrack (ptpHandle k p ingress m b1)
      | _, _ => b1
/-- R133: the transparent clock answers a Pdelay_Req on C or D itself, and takes the answers to its own. -/
def execPdelayReqRx (s : State) : Out :=
  s.run fun b => match b.time.tcIn with
    | [] => b
    | (p, ingress, l) :: rest =>
      let b1 := modTime (fun t => { t with tcIn := rest }) b
      match ptpParse (outerTpid b p) l with
      | none => b1
      | some m =>
        if m.typ = 2 then ptpSend p true (pdelayRespMsg b1 p m.seq m.corr m.source) ingress b1
        else
          let own := clockId b p ++ beBytes 2 1
          let i : Fin 2 := if p = 3 then 1 else 0
          modTime (fun t => { t with tc := t.tc.set i (pdelayAnswer m ingress own t.tc[i]) }) b1

/-- The organisation-extension TLV of the profile, sent as master (R129). -/
def profileTlv (b : Block) : List Byte :=
  beBytes 2 3 ++ beBytes 2 18 ++ [0x1C, 0x12, 0x9D, 0, 0, BitVec.ofNat 8 (1 + b.f (pg 0x02 0x040) 1 0)] ++ zeros 6
    ++ beBytes 4 b.errEst ++ [0, 0]
/-- The flag bytes of an own Announce. -/
def annFlags (b : Block) : Nat :=
  8 + b01 (b.delta).isSome * 4 + b01 (leapPending b == some true) * 2 + b01 (leapPending b == some false)
    + b01 (clockClass b != 248) * 0x30
/-- An own Pdelay_Req, its sequenceId as given. -/
def pdelayReqMsg (b : Block) (p seq : Nat) : List Byte := ptpHeader b p 2 (ptpLen b 54) seq 0 ++ zeros 20
/-- The own message of a kind (R130, R131). -/
def ptpOwn (b : Block) (k : Fin 2) (p : Nat) : PtpTx → List Byte
  | .sync => ptpHeader b p 0 (ptpLen b 44) b.time.ptp[k].seqSync 0 ++ zeros 10
  | .announce =>
    let a := ownAnnounce b
    let tlv := profileTlv b
    splice (ptpHeader b p 0xB (ptpLen b (64 + tlv.length)) b.time.ptp[k].seqAnn 0) 7 [BitVec.ofNat 8 (annFlags b)] ++ zeros 10
      ++ beBytes 2 (pat 16 a.utc) ++ [0] ++ beBytes 1 a.prio1 ++ beBytes 1 a.cls ++ beBytes 1 a.acc ++ beBytes 2 a.variance
      ++ beBytes 1 a.prio2 ++ beBytes 8 a.gm.toNat ++ [0, 0, 0x90] ++ tlv
  | .pdelayReq => pdelayReqMsg b p b.time.ptp[k].seqPd
/-- An own message is due of a PTP port of the part: Sync and Announce as master, Pdelay_Req always (R129, R132). -/
def ptpTxPort (port : Fin 2) (kind : PtpTx) (b : Block) : Block :=
  let p := ptpPhys b port
  if !ptpHas b port || (kind != .pdelayReq && b.time.ptp[port].st != .master) then b else
  b |> ptpSend p (kind == .pdelayReq) (ptpOwn b port p kind) 0
    |> modPtp port fun s => match kind with
      | .sync => { s with seqSync := (s.seqSync + 1) % 65536 }
      | .announce => { s with seqAnn := (s.seqAnn + 1) % 65536 }
      | .pdelayReq => { s with seqPd := (s.seqPd + 1) % 65536 }
/-- The transparent clock measures the link of C or D: a Pdelay_Req of its own (R133). -/
def ptpTxPass (p : Nat) (i : Fin 2) (kind : PtpTx) (b : Block) : Block :=
  if !passOn b || kind != .pdelayReq then b else
  b |> ptpSend p true (pdelayReqMsg b p b.time.tc[i].seqPd) 0
    |> modTime fun t => { t with tc := t.tc.set i { t.tc[i] with seqPd := (t.tc[i].seqPd + 1) % 65536 } }
/-- R130, R133: a message interval of PTP port 0 or 1, or of the transparent clock on C (2) or D (3). -/
def execPtpIntervalTx (port : Fin 4) (kind : PtpTx) (s : State) : Out :=
  s.run fun b0 =>
    if !b0.running || b0.inReset 0x02 then b0 else
    let b := ptpDecide b0
    match port with
    | 0 => ptpTxPort 0 kind b
    | 1 => ptpTxPort 1 kind b
    | 2 => ptpTxPass 2 0 kind b
    | 3 => ptpTxPass 3 1 kind b

/-! PPS and time of day (R134, R135). -/

/-- The declared inaccuracy that a TQ code stands for, in ns (R141). -/
def tqBound (q : Nat) : Nat := if 1 ≤ q && q ≤ 0xB then 10 ^ (q - 1) else 0
/-- R134: the edge is stamped to 0.1 ns within the tick, corrected, and waits for its message. -/
def execPpsInEdge (tenths : Fin 8) (s : State) : Out :=
  s.run fun b => if !b.timeRuns || !b.time.xo then b else
    modTime (fun t => { t with
      ppsEdge := some ((b.now : Int) + (rndNat (tenths.val * 65536) 10 : Nat) + sgn 32 (b.n (pg 0x02 0x0D4)) * 65536).toNat }) b
/-- The edge stays unused (R134). -/
def todBad (b : Block) : Block := b |> modTime (fun t => { t with ppsEdge := none }) |> err 0x02 0x24
/-- Days from 1970-01-01 to the first day of a year (proleptic Gregorian). -/
def yearDays (y : Nat) : Nat :=
  let z := y - 1
  365 * (y - 1970) + (z / 4 - z / 100 + z / 400) - (1969 / 4 - 1969 / 100 + 1969 / 400)
/-- A leap year. -/
def leapYear (y : Nat) : Bool := y % 4 = 0 && (y % 100 != 0 || y % 400 = 0)
/-- Days of the year before a month, 1 to 12. -/
def monthDays (y m : Nat) : Nat :=
  nth [0, 31, 59, 90, 120, 151, 181, 212, 243, 273, 304, 334] (m - 1) 0 + b01 (leapYear y && 2 < m)
/-- The year of a number of days since 1970, by search from an estimate. -/
def yearOfDays (d : Nat) : Nat :=
  let y := 1970 + d / 366
  if yearDays (y + 2) ≤ d then y + 2 else if yearDays (y + 1) ≤ d then y + 1 else y
/-- The number that ASCII digits spell. -/
def digits (l : List Byte) : Option Nat :=
  if l.isEmpty then none else
  l.foldl (fun a c => a.bind fun n => if 48 ≤ c.toNat && c.toNat ≤ 57 then some (n * 10 + (c.toNat - 48)) else none) (some 0)
/-- Fields of a sentence, cut at commas. -/
def commaFields : List Byte → List (List Byte)
  | [] => [[]]
  | c :: l =>
    match commaFields l with
    | f :: fs => if c = 44 then [] :: f :: fs else (c :: f) :: fs
    | [] => [[c]]
/-- One hexadecimal digit. -/
def hexDigit (c : Byte) : Nat :=
  let n := c.toNat
  if 48 ≤ n && n ≤ 57 then n - 48 else if 65 ≤ n && n ≤ 70 then n - 55 else if 97 ≤ n && n ≤ 102 then n - 87 else 16
/-- The UTC second that a ZDA sentence names, when its checksum is good (R134). -/
def zdaUtc (l : List Byte) : Option Nat :=
  match l with
  | c :: m =>
    let body := m.takeWhile (· != 42)
    let sum := (m.drop (body.length + 1)).take 2
    let x := body.foldl (· ^^^ ·) 0
    let good := c = 36 && sum.length = 2 && (sum.map hexDigit).foldl (fun a d => a * 16 + d) 0 = x.toNat
    let f := commaFields body
    if !good || ((nth f 0 []).drop 2) != [90, 68, 65] then none else
    let t := nth f 1 []
    match digits (t.take 2), digits ((t.drop 2).take 2), digits ((t.drop 4).take 2), digits (nth f 2 []), digits (nth f 3 []),
      digits (nth f 4 []) with
    | some hh, some mm, some ss, some day, some mon, some y =>
      if y < 1970 || mon = 0 || 12 < mon || day = 0 then none
      else some ((yearDays y + monthDays y mon + (day - 1)) * 86400 + hh * 3600 + mm * 60 + ss)
    | _, _, _, _, _, _ => none
  | [] => none
/-- R134: the part's own message, or a ZDA sentence. -/
def execTodMessageRx (bytes : List Byte) (s : State) : Out :=
  s.run fun b =>
    if !b.timeRuns then b else
    match b.time.ppsEdge with
    | none => err 0x02 0x24 b
    | some e =>
      let inp := b.mono - (b.now - e)
      if e + gtMs 500 < b.now then todBad b
      else if b.t (pg 0x02 0x0DC) 8 then
        match zdaUtc bytes, b.delta with
        | some u, some d =>
          b |> modTime (fun t => { t with ppsEdge := none }) |> modSrc 1 (fun v => { v with inacc := 0 })
            |> offsetReading 1 ((e : Int) - ((u : Int) + d) * gtSec) inp |> utcTrack
        | some _, none => modTime (fun t => { t with ppsEdge := none }) b
        | none, _ => todBad b
      else
        let good := bytes.length = 16 && beAt bytes 0 2 == 0x4754 && beAt bytes 2 1 == 1 && beAt bytes 14 2 == crc16 (bytes.take 14)
        if !good then todBad b else
        let fl := beAt bytes 3 1
        b |> modTime (fun t => { t with ppsEdge := none }) |> modSrc 1 (fun v => { v with inacc := tqBound (fl / 16) })
          |> srcUtc 1 (if fl.testBit 0 then some (sgn 16 (beAt bytes 10 2)) else none)
            (if fl.testBit 0 then some (fl.testBit 2, fl.testBit 1) else none)
          |> offsetReading 1 ((e : Int) - (beAt bytes 4 6 * gtSec : Nat)) inp |> utcTrack
/-- R134: 500 ms pass with no valid message. -/
def execTodTimeout (s : State) : Out :=
  s.run fun b => match b.time.ppsEdge with
    | none => b
    | some e => if e + gtMs 500 ≤ b.now then todBad b else b
/-- The part's own ToD message for the second of an edge (R134, R135). -/
def todMessage (b : Block) (sec : Nat) : List Byte :=
  let d := b.delta
  let fl := b.tq * 16 + b01 b.time.locked * 8 + b01 (leapPending b == some true) * 4 + b01 (leapPending b == some false) * 2
    + b01 d.isSome
  let m := [0x47, 0x54, 0x01] ++ beBytes 1 fl ++ beBytes 6 sec ++ beBytes 2 (pat 16 (d.getD 0)) ++ [0, 0]
  m ++ beBytes 2 (crc16 m)
/-- R135, R73: in Keep as well. -/
def execPpsOutEdge (s : State) : Out :=
  s.run fun b =>
    if !b.time.valid || !b.aon then b else
    let sec := secOf ((((b.now : Int) - sgn 32 (b.n (pg 0x02 0x0D8)) * 65536).toNat) + gtMs 500)
    { b with balls := { b.balls with ppsOut := true } }
      |> modTime (fun t => { t with ppsEnd := some (b.now + gtMs (b.f (pg 0x02 0x0D0) 8 0)) })
      |> emit (.tod (todMessage b sec))
/-- R135: the pulse's width has passed. -/
def execPpsOutPulseEnd (s : State) : Out :=
  s.run fun b => match b.time.ppsEnd with
    | none => b
    | some e =>
      if b.now < e then b else
      { b with balls := { b.balls with ppsOut := false } } |> modTime (fun t => { t with ppsEnd := none })

/-! IRIG-B and REF_IN (R136, R137). -/

/-- R136. -/
def execIrigFrameRx (frame : IrigFrame) (s : State) : Out :=
  s.run fun b =>
    if !b.timeRuns || !b.time.xo then b
    else if !frame.good then err 0x02 0x26 b else
    let ext := b.t (pg 0x02 0x0E0) 31
    let inp := b.mono - (b.now - frame.edge)
    match b.delta with
    | none => modSrc 2 (fun v => { v with inputAt := inp }) b
    | some d =>
      let utcDays := (((secOf b.now : Int) - d) / 86400).toNat
      let y := frame.year.getD (yearOfDays utcDays)
      let loc : Int := if ext then frame.localHalfHours * 1800 else 0
      let utc : Int := ((yearDays y + (frame.day - 1)) * 86400 + frame.secOfDay : Nat) - loc
      let adj := sgn 16 (b.f (pg 0x02 0x0E0) 15 0)
      let b1 := if ext then
          b |> modSrc 2 (fun v => { v with inacc := tqBound frame.quality })
            |> srcUtc 2 none (some (frame.leapPending && frame.leapDelete, frame.leapPending && !frame.leapDelete))
        else b |> modSrc 2 (fun v => { v with inacc := 0 }) |> srcUtc 2 none none
      b1 |> offsetReading 2 ((frame.edge : Int) + adj * 65536 - (utc + d) * gtSec) inp |> utcTrack
/-- R137: in range within ±50 ppm of nominal and less than 0.01 ppm from the window before; a first window, with none before it, counts
as steady (DESIGN CHOICE 198). In holdover FREQ_ADJ then follows REF_IN (R126). -/
def execRefInMeasure (millihertz : Nat) (s : State) : Out :=
  s.run fun b =>
    if !b.t (pg 0x02 0x044) 16 || !b.timeRuns then modTime (fun t => { t with refOk := false, refLast := none }) b else
    let nom := refNominal b
    let near := decide (((millihertz : Int) - nom).natAbs * 1000000 ≤ nom * 50)
    let still := match b.time.refLast with
      | some l => decide (((millihertz : Int) - l).natAbs * 100000000 < nom)
      | none => true
    b |> modTime (fun t => { t with refLast := some millihertz, refOk := near && still })
      |> onlyIf (near && still && b.time.holdover) (setAdj (refSteer b millihertz))

/-! Leap seconds (R139). -/

/-- R139: leap61 counts from the second after UTC 23:59:60, leap59 from the TAI second that would be 23:59:59. -/
def execLeapApply (s : State) : Out :=
  s.run fun b => match b.delta, leapPending b with
    | some d, some l59 =>
      let sod := ((secOf b.now : Int) - d) % 86400
      if sod != (if l59 then 86399 else 1) then b else
      let d2 := if l59 then d - 1 else d + 1
      b |> modTime (fun t => { t with
            leapAdd := if b.t (pg 0x02 0x088) 31 then t.leapAdd + (d2 - d) else t.leapAdd,
            srcs := t.srcs.map fun v => { v with leapFix := v.leapFix + (d2 - d) },
            keptUtc := t.keptUtc.map (· + (d2 - d)), keptLeap59 := false, keptLeap61 := false,
            lastDelta := some d2, leapAt := some (secOf b.now, l59),
            leapDone := some (((secOf b.now : Int) - d2) / 86400).toNat })
        |> evr 0x105 (sarg d2) 0
    | _, _ => b

/-! Sample-pulse generator settings (R143, R144). -/

/-- R143: delays and SRC take effect at the next whole grid second; a change of SRC is a disturbance (R144). -/
def execSpgSettingApply (s : State) : Out :=
  s.run fun b => match b.time.spgPend with
    | none => b
    | some (at_, src, del) =>
      if b.now < at_ then b else
      let c := modTime (fun t => { t with spgPend := none, spgSrc := src, spgDelay := del }) b
      if src != b.time.spgSrc then chainDisturbAll c else c
/-- A SYNC_IN error (R144). -/
def syncInError (b : Block) : Block :=
  b |> modTime (fun t => { t with syncErr := true }) |> cnt32 (pg 0x02 0x0F4) |> err 0x02 0x23 |> evr 0x107 0 0 |> chainDisturbAll
/-- The sample instant nearest a time: seconds and k (R143). -/
def nearInstant (t : Gt) : Nat × Nat :=
  let k := (nsOf t * 65536 + fracOf t) * 2048000 / gtSec
  let r := (nsOf t * 65536 + fracOf t) * 2048000 % gtSec
  let k2 := if gtSec ≤ 2 * r then k + 1 else k
  if k2 = 2048000 then (secOf t + 1, 0) else (secOf t, k2)
/-- The distance of a time from an instant is at most 50 ns. -/
def nearEnough (t : Gt) : Bool :=
  let i := nearInstant t
  -- compared in units of 2^-16 ns / 2,048,000
  decide ((((t : Int) - i.1 * gtSec) * 2048000 - i.2 * gtSec).natAbs ≤ 50 * 65536 * 2048000)
/-- R144: an instant with no edge within 50 ns. -/
def execSyncInMissing (s : State) : Out :=
  s.run fun b => if b.time.spgSrc && b.spgOn && b.up then syncInError b else b

end Sys2Proof.Machine
end

