-- ==== Sys2Proof/Machine/Acquire.lean ====
section
/-! DEFINITION. Field conversions: accumulators, over-range and open wire, the Winnow chain, coefficient swaps, the
sampled-value resampler (R270–R280, R294–R307, R318). -/

namespace Sys2Proof.Machine
open Sys2Proof

/-! Windows (R273–R276). -/

/-- Conversions of a second (R143). -/
def convRate : Nat := 2048000
/-- Windows of a kind in a second (R273). -/
def winPerSec (b : Block) (win : Nat) : Nat := if win = 0 then (if fNom b then 60 else 50) else if win = 1 then 10 else 1
/-- The window of a kind that holds conversion g, counted from the epoch: its boundaries lie at ⌈j · 2,048,000 / n⌉ (R273). -/
def winOf (b : Block) (win g : Nat) : Nat := let n := winPerSec b win; g / convRate * n + g % convRate * n / convRate
/-- k is a boundary of windows of a kind (R273). -/
def winBoundary (b : Block) (win k : Nat) : Bool :=
  if win = 0 then
    let f := if fNom b then 60 else 50
    ceilDiv (k * f / convRate * convRate) f = k
  else if win = 1 then k % 204800 = 0 else k = 0
/-- The first register of a channel's result group. -/
def resReg (c o : Nat) : Nat := pg 0x20 (0x400 + 0x40 * c + o)
/-- A field reference failure shows on the channels (R285). -/
def Block.refFail (b : Block) : Bool := b.hk.refFail
/-- A window is published (R275, R276). -/
def winPublish (c : Nat) (paused : Bool) (b : Block) : Block :=
  let s := b.chan c
  let a := s.acc
  let al := fun (i : Int) => if a.cnt = 0 then pat 32 i else if bitAt s.ctl 2 then pat 18 i * 2 ^ 14 else pat 32 i
  let st := a.start.getD 0
  b |> wn64 (resReg c 0x00) (pat 64 a.sum) |> wn64 (resReg c 0x08) a.ssq |> wn (resReg c 0x10) a.cnt
    |> wn (resReg c 0x14) (al a.mn) |> wn (resReg c 0x18) (al a.mx)
    |> wn (resReg c 0x1C) (b01 (a.paused || paused) * 2 ^ 31 + b01 a.sawOpen * 2 ^ 30 + b01 a.sawSat * 2 ^ 29
        + b01 a.sawRef * 2 ^ 28 + a.gain * 2 ^ 26 + fld s.ctl 1 0 * 2 ^ 24 + min a.ovr (2 ^ 21 - 1))
    |> wn (resReg c 0x20) (b.n (resReg c 0x20) + 1) |> wn64 (resReg c 0x24) (st / convRate)
    |> wn (resReg c 0x2C) (st % convRate * 1000000000 / convRate) |> irq 0x20 0
/-- One sample in a window. -/
def accAdd (s : ChanSt) (ref : Bool) (g : Nat) (x : Int) (isOver counted : Bool) (a : AccSt) : AccSt :=
  if a.wait then a else
  let a := { a with start := some (a.start.getD g), gain := if a.start.isNone then fld s.ctl 9 8 else a.gain,
                    sawOpen := a.sawOpen || s.opened, sawSat := a.sawSat || s.sat, sawRef := a.sawRef || ref }
  if !counted || a.hold then { a with paused := true } else
  { a with sum := a.sum + x, ssq := a.ssq + (x * x).toNat, cnt := a.cnt + 1, mn := min a.mn x, mx := max a.mx x,
           ovr := a.ovr + b01 isOver }
/-- OPEN rises or falls (R279, R280). -/
def setOpen (c : Nat) (on : Bool) (kind : Nat) (meanMv : Int) (b : Block) : Block :=
  b |> modChan c (fun s => { s with opened := on, owKind := if on then kind else 0, owYes := 0, owNo := 0 })
    |> (if on then evr 0x400 c (pat 16 meanMv * 2 ^ 16 + kind) else evr 0x401 c 0) |> irq 0x20 1 |> disturb c
/-- A whole cycle window is judged for over-range recovery and for open wire (R277, R279). -/
def cycleJudge (c : Nat) (b : Block) : Block :=
  let s := b.chan c
  let w := s.cyc
  let b1 :=
    if s.sat && w.ovr = 0 then
      b |> modChan c (fun s => { s with sat := false, satCnt := 0 }) |> evr 0x403 c (satU 32 s.satCnt) |> disturb c
    else b
  if fld s.ctl 5 4 = 0 || b.f (pg 0x20 (0x100 + 4 * c)) 5 4 = 0 || w.cnt = 0 then b1 else
  let ow := b.r (pg 0x20 0x044)
  let n := w.cnt
  -- one code is 31.25 µV / G: sums are compared in 10^-2 µV
  let counts := decide ((fld ow 27 16 * 100000 * n * s.gain : Int) ≤ w.sum * 3125)
  let ac := (n : Int) * w.ssq - w.sum * w.sum
  let kind := if ac * 9765625 ≤ ((fld ow 11 4 * 100000 * n * s.gain) ^ 2 : Nat) then 2 else 1
  let need := fld ow 3 0
  let mv := rndHE (w.sum * 3125) (100000 * n * s.gain)
  let b2 := modChan c (fun s =>
    { s with owYes := if counts then s.owYes + 1 else 0, owNo := if counts then 0 else s.owNo + 1, owKind := if s.opened then kind else 0 }) b1
  let t := b2.chan c
  if !t.opened && need ≤ t.owYes then setOpen c true kind mv b2
  else if t.opened && need ≤ t.owNo then setOpen c false 0 0 b2
  else b2

/-! Settings of a channel (R272). -/

/-- A write of CH_CTL takes effect at conversion g. -/
def applyCtl (c g : Nat) (v : Word) (b : Block) : Block :=
  let s := b.chan c
  let old := s.ctl
  let gain := fld old 9 8 != fld v 9 8
  let rise := !bitAt old 31 && bitAt v 31
  b |> onlyIf (bitAt old 31 && fld old 1 0 != fld v 1 0) (fun b =>
        b |> onlyIf (!s.acc.wait) (winPublish c true)
          |> modChan c fun s => { s with acc := { wait := true, start := some (g - 1), hold := s.acc.hold } })
    |> modChan c (fun s =>
        { s with ctl := v, acc := if !bitAt v 31 || rise then {} else { s.acc with hold := s.acc.hold || gain },
                 cyc := if !bitAt v 31 || rise then {} else s.cyc,
                 owYes := if fld old 5 4 != fld v 5 4 then 0 else s.owYes, owNo := if fld old 5 4 != fld v 5 4 then 0 else s.owNo })
    |> onlyIf (gain || rise) (disturb c)
/-- Writes whose time has come take effect: at the first conversion at least 1 µs after each. -/
def applyPend (c g : Nat) (t : Gt) (b : Block) : Block :=
  let due := ((b.chan c).pend).filter fun e => e.1 + gtNs 1000 ≤ t
  if due.isEmpty then b else
  b |> modChan c (fun s => { s with pend := s.pend.filter fun e => !(e.1 + gtNs 1000 ≤ t) }) |> forEach due fun e => applyCtl c g e.2
/-- MEAN_MV is at or above the full scale of a channel with PULL on (R290). -/
def owTooHigh (ow ctl : Word) : Bool := fld ctl 5 4 != 0 && 4096 ≤ fld ow 27 16 * 2 ^ min (fld ctl 9 8) 2
/-- R272. -/
def chCtlWrite (c : Nat) (w : Word) (b : Block) : Block :=
  let v := w &&& 0x80000337#32
  if fld v 9 8 = 3 || fld v 5 4 = 3 || fld v 1 0 = 3 then err 0x20 0x06 b
  else if owTooHigh (b.r (pg 0x20 0x044)) v then err 0x20 0x20 b
  else
    b |> wr (pg 0x20 (0x100 + 4 * c)) v |> modChan c (fun s => { s with pend := s.pend ++ [(b.now, v)] })
      |> onlyIf (fld v 5 4 = 0 && (b.chan c).opened) (setOpen c false 0 0)
/-- R272. -/
def execChCtlWrite (ag : Agent) (ch : Fin 16) (v : Word) (s : State) : Out :=
  s.run (cmdGateL ag 0x20 (0x100 + 4 * ch.val) (chCtlWrite ch.val v))

/-! The chain (R294–R296). -/

/-- A list convolved with eight ones. -/
def box8 (l : List Int) : List Int :=
  (List.range (l.length + 7)).map fun i => sumI ((List.range 8).map fun j => if j ≤ i then nth l (i - j) 0 else 0)
/-- The 36 taps of the CIC: fifth order, decimation 8 (R294). -/
def cicTaps : List Int := box8 (box8 (box8 (box8 (box8 [1]))))
/-- Σ c[i] x[n − i]. -/
def dotI (c : List Int) (x : List (Int × Bool)) : Int := sumI (List.zipWith (fun a e => a * e.1) c x)
/-- Some input within the taps is flagged. -/
def anyFlag (n : Nat) (x : List (Int × Bool)) : Bool := (x.take n).any (·.2)
/-- Taps of stage n of a bank (R299). -/
def bankCoeffs (b : Block) (bank n : Nat) : List Int :=
  (List.range (bankTaps b bank n)).map fun i => sgn 24 (b.n (bank + 0x400 * (n - 2) + 4 * i))
/-- A word saturated to 32 bits, and whether it saturates. -/
def sat32 (i : Int) : Int × Bool := (satS 32 i, decide (satS 32 i ≠ i))
/-- Shifts right truncating towards minus infinity. -/
def shr (i : Int) (n : Nat) : Int := i / (2 ^ n : Nat)
/-- A saturation in a path is noted and recorded (R305): path 0 P, 1 W. -/
def satNote (c path : Nat) (p : Bool) (b : Block) : Block :=
  if p then b |> wbit (pg 0x22 0x05C) (16 * path + c) true |> irq 0x22 2 |> evr 0x415 c path else b
/-- What a stage passes on: P word and flag, W word and flag, suppressed. -/
structure StageOut where
  p : Int
  pf : Bool
  w : Int
  wf : Bool
  supp : Bool
deriving DecidableEq, Repr
/-- A FIR stage's output from its histories, after its newest input (R295, R296). -/
def firOut (c : Nat) (taps : List Int) (sh : Nat) (hp hw : List (Int × Bool)) (supp : Bool) (b : Block) : StageOut × Block :=
  let (p, ps) := sat32 (rndHE (dotI taps hp) (2 ^ 22))
  let (w, ws) := sat32 (shr (dotI taps hw) sh)
  ({ p := p, pf := anyFlag taps.length hp || ps, w := w, wf := anyFlag taps.length hw || ws, supp := supp },
    b |> satNote c 0 ps |> satNote c 1 ws)
/-- Counts an input down while it is not suppressed. -/
def countIn (supp : Bool) (n : Nat) : Nat := if supp then n else n - 1
/-- W_CH_SHIFT. -/
def wShift (b : Block) (c hi lo : Nat) : Nat := b.f (pg 0x22 (0x140 + 4 * c)) hi lo
/-- A P-path sample reaches the estimator (R297). One of an index that has been served before, after a backward step of time,
takes the place of that one and those after it (DEDUCED 200). -/
def estPush (c : Nat) (x : PSamp) (b : Block) : Block :=
  modEst c (fun e => { e with hist := (x :: e.hist.filter (·.g < x.g)).take 4096 }) b
/-- A W-path sample is kept for capture and the oscillation watch. -/
def wavePush (c : Nat) (x : WSamp) (b : Block) : Block :=
  modChain (fun s => { s with wrec := mins s.wrec c ((x :: mget [] s.wrec c).take 1280) }) b
/-- GD of a bank in 2^-6 ns (R298). -/
def bankGd (b : Block) (bank : Nat) : Nat :=
  546875 + 125000 * (bankTaps b bank 2 - 1) + 250000 * (bankTaps b bank 3 - 1) + 500000 * (bankTaps b bank 4 - 1)
/-- GD of a field channel with its present bank in 2^-16 ns (R297). -/
def chanGd (b : Block) (c : Nat) : Nat := bankGd b (chanBank b c) * 1024
/-- GD_W of a field channel with its present bank in 2^-16 ns (R297). -/
def chanGdW (b : Block) (c : Nat) : Nat := (bankGd b (chanBank b c) - 500000 * (bankTaps b (chanBank b c) 4 - 1)) * 1024
/-- GD_W travels with the W-path samples from 64 kS/s index g on (R297). -/
def noteGd (c g : Nat) (b : Block) : Block :=
  let l := (mget [] b.chain.gdLog c).filter fun e => e.1 < g
  if (l.head?.map (·.2)) == some (chanGdW b c) then b
  else modChain (fun s => { s with gdLog := mins s.gdLog c ((g, chanGdW b c) :: l) }) b
/-- GD_W of the W-path sample of a field channel at 64 kS/s index g (R297). -/
def gdWave (b : Block) (c g : Nat) : Nat := ((mget [] b.chain.gdLog c).find? fun e => e.1 ≤ g).elim (chanGdW b c) (·.2)
/-- Stage 4 and the P-path output. -/
def stage4 (c g : Nat) (o : StageOut) (b : Block) : Block :=
  let k := chanBank b c
  let b := modChan c (fun s => { s with p4 := ((o.p, o.pf) :: s.p4).take 256, s4 := countIn o.supp s.s4 }) b
  let s := b.chan c
  if g / 32 % 5 != 0 then b else
  let (p, ps) := sat32 (rndHE (dotI (bankCoeffs b k 4) s.p4) (2 ^ 22))
  let fl := anyFlag (bankTaps b k 4) s.p4 || ps
  let bad := b01 (0 < s.s4) + 4 * b01 fl + 8 * b01 (s.opened || b.refFail)
  b |> satNote c 0 ps |> modChan c (fun s => { s with pRel := s.pRel || s.s4 = 0 })
    |> estPush c { g := g / 160, t := (g * 32000000 : Nat) - (chanGd b c : Int), v := p, bad := bad }
/-- Stage 3, the W-path tap and what follows. -/
def stage3 (c g : Nat) (o : StageOut) (b : Block) : Block :=
  let k := chanBank b c
  let b := modChan c (fun s =>
    { s with p3 := ((o.p, o.pf) :: s.p3).take 256, w3 := ((o.w, o.wf) :: s.w3).take 256, s3 := countIn o.supp s.s3 }) b
  let s := b.chan c
  if g / 16 % 2 != 0 then b else
  let (y, b) := firOut c (bankCoeffs b k 3) (wShift b c 20 16) s.p3 s.w3 (0 < s.s3) b
  let keep := g / 32 % (b.f (pg 0x22 (0x100 + 4 * c)) 13 8 + 1) = 0
  b |> modChan c (fun s => { s with wRel := s.wRel || s.s3 = 0 }) |> noteGd c (g / 32)
    |> onlyIf keep (wavePush c { g := g / 32, v := y.w, flag := y.wf, supp := y.supp }) |> stage4 c g y
/-- Stage 2 and what follows. -/
def stage2 (c g : Nat) (o : StageOut) (b : Block) : Block :=
  let k := chanBank b c
  let b := modChan c (fun s =>
    { s with p2 := ((o.p, o.pf) :: s.p2).take 256, w2 := ((o.w, o.wf) :: s.w2).take 256, s2 := countIn o.supp s.s2 }) b
  let s := b.chan c
  if g / 8 % 2 != 0 then b else
  let (y, b) := firOut c (bankCoeffs b k 2) (wShift b c 12 8) s.p2 s.w2 (0 < s.s2) b
  stage3 c g y b
/-- A conversion enters the chain of a channel: stage 1, then what its output feeds. -/
def stage1 (c g : Nat) (x : Int) (fl : Bool) (b : Block) : Block :=
  let b := modChan c (fun s => { s with cic := ((x, fl) :: s.cic).take 36, s1 := s.s1 - 1 }) b
  let s := b.chan c
  if g % 8 != 0 then b else
  let t := dotI cicTaps s.cic
  let (p, ps) := sat32 (rndHE t 8)
  let (w, ws) := sat32 (shr t (wShift b c 4 0))
  let f := anyFlag 36 s.cic
  b |> satNote c 0 ps |> satNote c 1 ws
    |> stage2 c g { p := p, pf := f || ps, w := w, wf := f || ws, supp := 0 < s.s1 }

/-! Conversions (R143, R270, R274, R277). -/

/-- An over-range sample (R277). -/
def overRange (c : Nat) (x : Int) (b : Block) : Block :=
  let first := quiet b.chain.satAt b
  let rise := !(b.chan c).sat
  b |> cnt32 (pg 0x20 (0x180 + 4 * c)) |> onlyIf first (irq 0x20 2) |> modChain (fun s => { s with satAt := some b.mono })
    |> modChan c (fun s => { s with sat := true, satCnt := if rise then 1 else s.satCnt + 1 })
    |> onlyIf rise (evr 0x402 c (sarg x))
/-- The code of a differential input in nV at a gain: clipped, the nearest (R270; a tie is rounded to even, DEDUCED 201). -/
def codeOf (gain : Nat) (nv : Int) : Int := clampI (-131072) 131071 (rndHE (nv * gain * 131072) 4096000000)
/-- What the next window starts from: none of its samples counts if it starts while the channel settles after a change of gain. -/
def accNext (s : ChanSt) : AccSt := { hold := s.acc.hold && s.pSupp }
/-- A window started at st is over at conversion g. -/
def winOver (b : Block) (win g : Nat) (a : AccSt) : Bool := a.start.any fun st => winOf b win st != winOf b win g
/-- Windows whose boundary has passed without a conversion just before it end with what they hold, before conversion g (R273). -/
def windowsEnd (c g : Nat) (b : Block) : Block :=
  let s := b.chan c
  b |> onlyIf (winOver b (fld s.ctl 1 0) g s.acc) (fun b =>
        b |> onlyIf (!s.acc.wait) (winPublish c false) |> modChan c fun s => { s with acc := accNext s })
    |> onlyIf (winOver b 0 g s.cyc) fun b =>
        b |> onlyIf (!s.cyc.wait && !s.cyc.paused) (cycleJudge c) |> modChan c fun s => { s with cyc := { start := some g } }
/-- One channel's conversion g, counted from the epoch, of an input in nV. An input beyond the over-range flag's limit gives an
end code (R106). -/
def convertOne (g c : Nat) (nv : Int) (b : Block) : Block :=
  let b := applyPend c g (g * 32000000) b
  if !(b.chan c).on then b else
  let b := windowsEnd c g b
  let x := codeOf (b.chan c).gain nv
  let isOver := decide (x = -131072 ∨ x = 131071)
  let k := g % convRate
  let b := onlyIf isOver (overRange c x) b
  let was := (b.chan c).pSupp
  let win := fld (b.chan c).ctl 1 0
  let b := modChan c (fun s =>
    { s with acc := accAdd s b.refFail g x isOver (!was) s.acc,
             cyc := accAdd s b.refFail g x isOver true
               (if s.cyc.start.isNone then { paused := !winBoundary b 0 k } else s.cyc) }) b
  let b := onlyIf (!b.inReset 0x22) (stage1 c g x isOver) b
  let b := onlyIf (was && !(b.chan c).pSupp) (irq 0x22 0) b
  let b := if winBoundary b win ((k + 1) % convRate) then
      b |> onlyIf (!(b.chan c).acc.wait) (winPublish c false) |> modChan c fun s => { s with acc := accNext s }
    else b
  if winBoundary b 0 ((k + 1) % convRate) then
    b |> onlyIf (!(b.chan c).cyc.paused) (cycleJudge c) |> modChan c fun s => { s with cyc := { start := some g, wait := true } }
  else b

/-! Coefficient swaps (R298–R302). -/

/-- The instant of a field swap. -/
def swapTime (s : Swap) : Gt := s.sec * gtSec + s.k * 32000000
/-- The instant of a resampler swap. -/
def rsSwapTime (s : Swap) : Gt := s.sec * gtSec + s.k * 5120000000
/-- A field swap takes effect (R302). -/
def swapApply (s : Swap) (b : Block) : Block :=
  let now := activeBank b s.set
  b |> modChain (fun c => { c with swaps := c.swaps.filter fun x => x != s })
    |> wbit (pg 0x22 0x054) s.set (now = 0)
    |> onlyIf (!s.seamless) (forEach ((List.range 16).filter fun c => chanSet b c = s.set) disturb)
    |> irq 0x22 1 |> evr 0x410 s.set (b01 s.seamless * 2 + (1 - now))
/-- The active bank of a resampler table. -/
def rsBank (b : Block) (t : Nat) : Nat := b01 (b.t (pg 0x23 0x054) t)
/-- Table of an SV source: 0 for 4,000, 1 for 4,800 samples/s. -/
def svTable (b : Block) (v : Nat) : Nat := b01 (bitAt (svWord b v 0) 30)
/-- A resampler swap takes effect. -/
def rsSwapApply (s : Swap) (b : Block) : Block :=
  let now := rsBank b s.set
  b |> modChain (fun c => { c with rsSwaps := c.rsSwaps.filter fun x => x != s })
    |> wbit (pg 0x23 0x054) s.set (now = 0) |> modChain (fun c => { c with rsFrom := mins c.rsFrom s.set (s.sec * 12800 + s.k) })
    |> onlyIf (!s.seamless) (forEach ((svOn b).filter fun v => svTable b v = s.set) disturbSv)
    |> irq 0x23 1 |> evr 0x410 (8 + s.set) (b01 s.seamless * 2 + (1 - now))
/-- Every resampler swap whose instant is at or before a time takes effect. -/
def rsSwapsUpTo (t : Gt) (b : Block) : Block := forEach (b.chain.rsSwaps.filter fun s => rsSwapTime s ≤ t) rsSwapApply b
/-- Every swap whose instant is at or before a time takes effect. -/
def swapsUpTo (t : Gt) (b : Block) : Block :=
  b |> forEach (b.chain.swaps.filter fun s => swapTime s ≤ t) swapApply |> rsSwapsUpTo t
/-- R302: the instant of a scheduled swap is reached. -/
def execCoeffSwap (s : State) : Out := s.run fun b => if b.up then swapsUpTo b.now b else b
/-- A bank is odd and symmetric in every stage (R298). -/
def bankGood (b : Block) (bank : Nat) : Bool :=
  [2, 3, 4].all fun n =>
    let t := bankTaps b bank n
    let c := bankCoeffs b bank n
    1 ≤ t && t ≤ 256 && t % 2 = 1 && c == c.reverse
/-- R301: W_SWAP_CMD. -/
def wSwap (v : Word) (b : Block) : Block :=
  let set := fld v 2 0
  let act := bankAddr set (activeBank b set)
  let bank := bankAddr set (1 - activeBank b set)
  let sw : Swap := { set := set, sec := b.n64 (pg 0x22 0x040), k := b.n (pg 0x22 0x048), seamless := bitAt v 8 }
  let c := wn (bank + 0xC0C) (bankGd b bank) b
  if !bankGood b bank then err 0x22 0x21 c
  else if 25600000 < bankGd b bank then err 0x22 0x22 c
  else if convRate ≤ sw.k then err 0x22 0x23 c
  else if swapTime sw < b.now + gtMs 10 then err 0x22 0x24 c
  else if b.chain.swaps.any fun s => s.set = set then err 0x22 0x25 c
  else if sw.seamless && [2, 3, 4].any (fun n => bankTaps b bank n != bankTaps b act n) then err 0x22 0x26 c
  else modChain (fun s => { s with swaps := s.swaps ++ [sw] }) c
/-- R301. -/
def execWSwapCmd (ag : Agent) (v : Word) (s : State) : Out := s.run (cmdGate ag 0x22 0x04C (wSwap v))
/-- R301: RS_SWAP_CMD. -/
def rsSwap (v : Word) (b : Block) : Block :=
  let sw : Swap := { set := fld v 0 0, sec := b.n64 (pg 0x23 0x040), k := b.n (pg 0x23 0x048), seamless := bitAt v 8 }
  if 12800 ≤ sw.k then err 0x23 0x23 b
  else if rsSwapTime sw < b.now + gtMs 10 then err 0x23 0x24 b
  else if b.chain.rsSwaps.any fun s => s.set = sw.set then err 0x23 0x25 b
  else modChain (fun s => { s with rsSwaps := s.rsSwaps ++ [sw] }) b
/-- R301. -/
def execRsSwapCmd (ag : Agent) (v : Word) (s : State) : Out := s.run (cmdGate ag 0x23 0x04C (rsSwap v))

/-- One conversion of every channel, of index g. -/
def convertAll (g : Nat) (nv : List Int) (b : Block) : Block :=
  let b := b |> swapsUpTo (g * 32000000) |> modChain (fun s => { s with conv := some g })
  forEach (List.range 16) (fun c b => if b.inReset 0x20 then b else convertOne g c (nth nv c 0) b) b
/-- The index is later than the latest. -/
def newConv (b : Block) (g : Nat) : Bool := match b.chain.conv with
  | some l => l < g
  | none => true
/-- R143: the conversion of the latest sample instant. -/
def execConversion (nv : List Int) (s : State) : Out :=
  s.run fun b =>
    let g := b.now * convRate / gtSec
    if !b.up || !b.spgOn || b.time.spgSrc || !newConv b g then b else convertAll g nv b
/-- R144: a rising edge of SYNC_IN converts with the index of the nearest instant. -/
def execSyncInEdge (nv : List Int) (s : State) : Out :=
  s.run fun b =>
    let (sec, k) := nearInstant b.now
    let g := sec * convRate + k
    if !b.up || !b.spgOn || !b.time.spgSrc then b else
    b |> onlyIf (!nearEnough b.now) syncInError |> convertAll g nv
/-- R318. -/
def execCrossingOverflow (ch : Fin 16) (s : State) : Out :=
  s.run fun b => if b.up then b |> disturb ch.val |> setFault 0x22 |> evr 0x414 ch.val 0 else b

/-! The resampler (R306, R307). -/

/-- Writable bits of an SV source's words (R225). -/
def svMask (w : Nat) : Nat := match w with
  | 0 => 0xF0FFFFFF
  | 3 => 0
  | _ => 0xFFFFFFFF
/-- R225: a write of an SV source entry; a remap disturbs the source (R304). -/
def svWrite (v w : Nat) (x : Word) (b : Block) : Block :=
  let n := x &&& w32 (svMask w)
  let old := svWord b v w
  let dup := (List.range 64).any fun u => u != v && bitAt (svWord b u 0) 31 && fld (svWord b u 0) 15 0 = fld n 15 0
  if w = 0 && fld n 29 28 = 3 then err 0x18 0x22 b
  else if w = 0 && bitAt n 31 && dup then err 0x18 0x26 b
  else
    let remap := (w = 0 && (bitAt old 31 != bitAt n 31 || bitAt old 30 != bitAt n 30 || fld old 15 0 != fld n 15 0))
      || (w = 1 && fld old 31 16 != fld n 31 16)
    b |> wr (pg 0x18 (0x400 + 16 * v + 4 * w)) n |> onlyIf remap (fun b => b |> disturbSv v |> modSv v fun s => { s with ins := [], need := none })
/-- R225. -/
def execSvSourceWrite (ag : Agent) (src : Fin 64) (w : Fin 4) (v : Word) (s : State) : Out :=
  s.run (cmdGateL ag 0x18 0x400 (svWrite src.val w.val v))

/-- A received sample reaches the resampler: it is present, and counts towards the settling (R303, R307). -/
def svTake (x : SvSample) (b : Block) : Block :=
  let v := x.src
  if !b.t (pg 0x18 (0x400 + 16 * v)) 31 then b else
  let f := svRate b v
  let g := secOf x.inst * f + rndNat (nsOf x.inst * f) 1000000000
  let b := modSv v (fun s => { s with ins := ((g, x) :: s.ins).take 192, settle := s.settle - 1 }) b
  let supp := decide (0 < (b.svSt v).settle)
  forEach (List.range 8) (fun q =>
    wavePush (16 + 8 * v + q) { g := g, stamp := x.stamp, v := nth x.vals q 0, flag := nth x.bad q true, supp := supp }) b
/-- LOOKBACK of an estimator channel. -/
def lookback (b : Block) (c : Nat) : Nat := fld (peWord b c 1) 23 16
/-- The newest input index that output m (counted from the epoch) of a source needs, less 16. -/
def rsIndex (f m : Nat) : Nat := m / 12800 * f + m % 12800 * f / 12800
/-- The bank of a resampler table that output m uses (R302). -/
def rsBankAt (b : Block) (t m : Nat) : Nat := if m < mget 0 b.chain.rsFrom t then 1 - rsBank b t else rsBank b t
/-- One output of an SV channel at output index m (R306). -/
def rsOutput (v q m : Nat) (b : Block) : Block :=
  let s := b.svSt v
  let f := svRate b v
  let i := rsIndex f m
  let slow := f = 4000
  let phi := if slow then 5 * (m % 12800) % 16 else 3 * (m % 12800) % 8
  let tab := (if slow then 0x320000 else 0x322000) + rsBankAt b (b01 (!slow)) m * 0x1000 + 128 * phi
  let xs := (List.range 32).map fun j => (j, if 15 ≤ i + j then (s.ins.find? fun e => e.1 = i + j - 15).map (·.2) else none)
  let sum := sumI (xs.map fun (j, x) => match x with
    | some x => sgn 24 (b.n (tab + 4 * j)) * nth x.vals q 0
    | none => 0)
  let (y, ys) := sat32 (rndHE sum 1024)
  let gone := xs.any fun e => e.2.isNone
  let has := fun (p : SvSample → Bool) => xs.any fun e => match e.2 with | some x => p x | none => false
  let bad := b01 (0 < s.settle) + 2 * b01 gone + 4 * b01 (has (fun x => nth x.bad q true) || ys) + 16 * b01 (has fun x => !x.sync)
  estPush (16 + 8 * v + q) { g := m, t := (m * 5120000000 : Nat), v := y, bad := bad } b
/-- An input that an output needs has not arrived (R307). -/
def rsMiss (v i : Nat) (b : Block) : Block :=
  let first := quiet b.chain.missAt b
  b |> disturbSv v |> cntBy (pg 0x23 0x060) 1 |> wn (pg 0x23 0x068) v |> modChain (fun s => { s with missAt := some b.mono })
    |> onlyIf first (fun b => b |> irq 0x23 0 |> evr 0x413 v (i % svRate b v))
/-- The outputs of a source at output instant M. -/
def rsSource (M v : Nat) (b : Block) : Block :=
  let f := svRate b v
  let lbs := (List.range 8).map fun q => lookback b (16 + 8 * v + q)
  let need := rsIndex f (M - lbs.foldl min 255) + 16
  let from_ := match (b.svSt v).need with
    | some n => n + 1
    | none => need
  let newIdx := (List.range (need + 1 - from_)).map (from_ + ·)
  let gone := newIdx.filter fun i => !(b.svSt v).ins.any fun e => e.1 = i
  b |> forEach gone (rsMiss v) |> modSv v (fun s => { s with need := some need })
    |> forEach (List.range 8) fun q => rsOutput v q (M - nth lbs q 0)
/-- R306: the outputs of the latest output instant. -/
def execResamplerOutput (s : State) : Out :=
  s.run fun b =>
    let M := b.now * 12800 / gtSec
    let fresh := match b.chain.rsAt with
      | some l => l < M
      | none => true
    if !b.up || b.inReset 0x23 || !fresh then b else
    let b := forEach b.svIn svTake { b with svIn := [] }
    b |> rsSwapsUpTo (M * 5120000000) |> modChain (fun s => { s with rsAt := some M }) |> forEach (svOn b) (rsSource M) |> noteTime (pg 0x23 0x06C) 16
/-- The outputs of the latest instant are marked missing. -/
def rsLate (m v q : Nat) (b : Block) : Block :=
  let g := m - lookback b (16 + 8 * v + q)
  modEst (16 + 8 * v + q) (fun e =>
    { e with hist := e.hist.map fun x => if x.g = g then { x with bad := x.bad ||| 2 } else x }) b
/-- R306: an instant was not finished when the next was due. -/
def execResamplerOverrun (s : State) : Out :=
  s.run fun b => match b.chain.rsAt with
    | some M =>
      if !b.up then b else
      b |> forEach (svOn b) (fun v => forEach (List.range 8) (rsLate M v)) |> setFault 0x23 |> irq 0x23 2 |> evr 0x416 (M % 12800) 0
    | none => b

/-! Live registers of these pages. -/

/-- What an ACQ register shows where it follows from the state (R289). -/
def liveAcq (b : Block) (o : Nat) : Option Nat :=
  let m := fun (p : ChanSt → Bool) => maskOf 16 fun c => p (b.chan c)
  match o with
  | 0x04C => some (m (·.opened))
  | 0x050 => some (m (·.sat))
  | 0x054 => some (m fun s => s.on && s.pSupp)
  | 0x058 => some (b01 b.hk.hkFail * 2 + b01 b.hk.refFail)
  | _ =>
    if 0x140 ≤ o && o < 0x180 then
      let s := b.chan ((o - 0x140) / 4)
      some (s.owKind * 64 + b01 (s.on && b.refFail) * 8 + b01 (s.on && s.pSupp) * 4 + b01 s.sat * 2 + b01 s.opened)
    else none
/-- What a WIN register shows of the field chain (R322). -/
def liveWin (b : Block) (o : Nat) : Option Nat :=
  match o with
  | 0x050 => some (sumN (b.chain.swaps.map fun s => 2 ^ s.set + b01 s.seamless * 2 ^ (s.set + 8)))
  | 0x058 => some (maskOf 16 (fun c => (b.chan c).on && (b.chan c).wSupp) * 2 ^ 16 + maskOf 16 fun c => (b.chan c).on && (b.chan c).pSupp)
  | _ => none
/-- What a WIN register shows of the resampler (R323). -/
def liveRs (b : Block) (o : Nat) : Option Nat :=
  let supp := maskOf 64 fun v => (svOn b).contains v && 0 < (b.svSt v).settle
  match o with
  | 0x050 => some (sumN (b.chain.rsSwaps.map fun s => 2 ^ s.set + b01 s.seamless * 2 ^ (s.set + 8)))
  | 0x058 => some (supp % 2 ^ 32)
  | 0x05C => some (supp / 2 ^ 32)
  | _ => none

end Sys2Proof.Machine
end

