-- ==== Sys2Proof/Machine/Estimate.lean ====
section
/-! DEFINITION. The phasor estimator: windows, fits, trackers, local entries (R308–R319). -/

namespace Sys2Proof.Machine
open Sys2Proof

/-- One P-path sample period in 2^-16 ns. -/
def pStep : Nat := 5120000000
/-- A window class at a reporting rate in sixths of a cycle: phasor L, auxiliary L, δ, span W_e (R308, R309). -/
def winSixths (mClass : Bool) (rate : Nat) : Nat × Nat × Nat × Nat :=
  if mClass then (6 * mCycles rate, 4 * mCycles rate, mCycles rate, 6 * mCycles rate) else (12, 12, 6, 24)
/-- f0 in Hz. -/
def f0 (b : Block) : Nat := if fNom b then 60 else 50
/-- n sixths of a cycle as a fraction of 2^-16 ns: numerator over 6 f0. -/
def sixNum (n : Nat) : Nat := n * gtSec
/-- n sixths of a cycle in 2^-16 ns, to the nearest. -/
def sixths (b : Block) (n : Nat) : Nat := rndNat (sixNum n) (6 * f0 b)
/-- The windows of a report: the phasor window and the auxiliary windows −, 0 and + (R308). -/
inductive WinRole where
  | phasor | before | middle | after
deriving DecidableEq, Repr
/-- Centre, counted from the report's, and length of a window in sixths of a cycle (R308, R309). -/
def winShape (mClass : Bool) (rate : Nat) : WinRole → Int × Nat :=
  let (lp, la, d, _) := winSixths mClass rate
  fun r => match r with
    | .phasor => (0, lp)
    | .before => (-(d : Int), la)
    | .middle => (0, la)
    | .after => ((d : Int), la)
/-- The instant T plus n half-sixths of a cycle, in units of 2^-16 ns / (12 f0). -/
def halfSixths (b : Block) (T : Gt) (n : Int) : Int := (T : Int) * (12 * f0 b : Nat) + n * (gtSec : Nat)
/-- A window of the report at T opens at or before an instant. -/
def winOpens (b : Block) (rate : Nat) (T : Gt) (role : WinRole) (ctl : Word) (at_ : Int) : Bool :=
  let (ofs, len) := winShape (bitAt ctl 0) rate role
  decide (halfSixths b T (2 * ofs - len) ≤ at_ * (12 * f0 b : Nat))
/-- The words of a window of the report at T: those of the first commit that found it open, else the present ones (R319;
DEDUCED 202). -/
def peFor (b : Block) (c rate : Nat) (T : Gt) (role : WinRole) : Word × Word :=
  match (b.estCh c).past.reverse.find? fun e => winOpens b rate T role e.2.2.2 e.2.1 with
  | some e => e.2.2
  | none => (peWord b c 0, peWord b c 1)
/-- Samples of a window of n sixths centred at tc: the time from the centre and the sample; and whether none is absent: the
indices follow one another, and the neighbours at both ends lie outside. -/
def winSamples (b : Block) (c : Nat) (tc : Int) (n : Nat) : List (Int × PSamp) × Bool :=
  -- 2 τ · 6 f0 is compared with ± L · 6 f0
  let den : Int := (12 * f0 b : Nat)
  let L : Int := sixNum n
  let inWin := fun (tau : Int) => decide (-L ≤ tau * den ∧ tau * den < L)
  let all := (b.estCh c).hist
  let got := (all.map fun x => (x.t - tc, x)).filter fun e => inWin e.1
  let has := fun (g : Nat) => all.any fun x => x.g = g
  let whole := match got.head?, got.getLast? with
    | some hi, some lo =>
      (List.range (hi.2.g + 1 - lo.2.g)).all (fun i => has (lo.2.g + i))
        && (!inWin (lo.1 - (pStep : Nat)) || (0 < lo.2.g && has (lo.2.g - 1)))
        && (!inWin (hi.1 + (pStep : Nat)) || has (hi.2.g + 1))
    | _, _ => false
  (got.reverse, whole)
/-- Sums of a weighted fit (R310). -/
structure FitSums where
  dd : F64 := 0
  dp : F64 := 0
  dq : F64 := 0
  pp : F64 := 0
  pq : F64 := 0
  qq : F64 := 0
  rd : F64 := 0
  rp : F64 := 0
  rq : F64 := 0
deriving DecidableEq, Repr
/-- 2π as a binary64. -/
def f2pi : F64 := fmul (fInt 2) fpi
/-- A time of 2^-16 ns in seconds. -/
def fSec (t : Int) : F64 := fQ t gtSec
/-- One sample in the sums: weights of the class, phase at the tracked frequency (R308, R310). -/
def fitAdd (mClass : Bool) (len w : F64) (s : FitSums) (e : Int × PSamp) : FitSums :=
  let tau := fSec e.1
  let h :=
    if mClass then fadd (fQ 54 100) (fmul (fQ 46 100) (fsincos (fdiv (fmul f2pi tau) len)).2)
    else fsub (fInt 1) (fdiv (fmul (fInt 2) (fabs tau)) len)
  let (sn, cs) := fsincos (fmul w tau)
  let u := fneg sn
  let x := fQ e.2.v 4096
  let hx := fmul h x
  let hp := fmul h cs
  let hq := fmul h u
  { dd := fadd s.dd h, dp := fadd s.dp hp, dq := fadd s.dq hq, pp := fadd s.pp (fmul hp cs), pq := fadd s.pq (fmul hp u),
    qq := fadd s.qq (fmul hq u), rd := fadd s.rd hx, rp := fadd s.rp (fmul hx cs), rq := fadd s.rq (fmul hx u) }
/-- Gaussian elimination without pivoting in the order d, p, q: p and q (R310). -/
def fitSolve (s : FitSums) : F64 × F64 :=
  let m2 := fdiv s.dp s.dd
  let m3 := fdiv s.dq s.dd
  let a22 := fsub s.pp (fmul m2 s.dp)
  let a23 := fsub s.pq (fmul m2 s.dq)
  let r2 := fsub s.rp (fmul m2 s.rd)
  let a32 := fsub s.pq (fmul m3 s.dp)
  let a33 := fsub s.qq (fmul m3 s.dq)
  let r3 := fsub s.rq (fmul m3 s.rd)
  let m := fdiv a32 a22
  let q := fdiv (fsub r3 (fmul m r2)) (fsub a33 (fmul m a23))
  (fdiv (fsub r2 (fmul a23 q)) a22, q)
/-- A fitted window: P = p + jq and why it is not good (as PSamp.bad). -/
structure Fit where
  p : F64
  q : F64
  bad : Nat
deriving DecidableEq, Repr
/-- The fit of a window of n sixths of a cycle centred at tc, at ω̂ (R310). -/
def fitWin (b : Block) (c : Nat) (mClass : Bool) (tc : Int) (n : Nat) (w : F64) : Fit :=
  let (xs, whole) := winSamples b c tc n
  let len := fQ (sixNum n) (6 * f0 b * gtSec)
  let (p, q) := fitSolve (xs.foldl (fitAdd mClass len w) {})
  { p := p, q := q, bad := xs.foldl (fun a e => a ||| e.2.bad) (if whole then 0 else 2) }
/-- 2πρ: the nominal phase at a time, reduced exactly before its conversion (R311). -/
def nomPhase (b : Block) (tc : Int) : F64 := fmul f2pi (fQ (tc * f0 b % gtSec) gtSec)
/-- One turn taken off an angle outside (−π, π]. -/
def unturn (a : F64) : F64 :=
  if flt fpi a then fsub a f2pi else if fle a (fneg fpi) then fadd a f2pi else a
/-- A difference of two θ or of two wrapped differences, each below 3π in magnitude, wrapped to (−π, π]. -/
def wrapPi (a : F64) : F64 := unturn (unturn (unturn a))
/-- Δf and ROCOF as binary64 in Hz and Hz/s from three auxiliary windows, the outer ones d and d2 from the middle (R312). -/
def freqOf (b : Block) (d d2 : Nat) (m z p : Fit) (tc : Int) : F64 × F64 :=
  let th := fun (f : Fit) (t : Int) => fsub (fargRad f.p f.q) (nomPhase b t)
  let a := th m (tc - d)
  let o := th z tc
  let c := th p (tc + d2)
  let dl := fSec d
  let df := fdiv (wrapPi (fsub c a)) (fmul (fmul (fInt 4) fpi) dl)
  let ro := fdiv (wrapPi (fsub (wrapPi (fsub c o)) (wrapPi (fsub o a)))) (fmul f2pi (fmul dl dl))
  (df, ro)
/-- A tracker result at an instant: F_trk and its validity (R313). -/
def trkAt (b : Block) (c : Nat) (T : Gt) : Int × Bool :=
  match (b.estCh c).trk.find? fun e => e.1 ≤ T with
  | some e => (e.2.1, e.2.2 && e.1 = T)
  | none => (0, false)
/-- The tracker instant that a report at T relies on. -/
def trkInstant (T : Gt) : Gt := (T - gtMs 10) / gtMs 10 * gtMs 10
/-- What the estimator finds for a channel at T (R308–R315). -/
structure Estim where
  re : Int := 0
  im : Int := 0
  df : Int := 0
  rocof : Int := 0
  phOk : Bool := false
  fOk : Bool := false
  bad : Nat := 0
deriving DecidableEq, Repr
/-- A change of LOOKBACK lies within a span (R319). -/
def lbChanged (b : Block) (c : Nat) (lo hi : Int) : Bool :=
  let rec go : List (Gt × Int × Word × Word) → Word → Bool
    | [], _ => false
    | e :: l, after => (fld e.2.2.2 23 16 != fld after 23 16 && lo ≤ e.1 && e.1 ≤ hi) || go l e.2.2.2
  go (b.estCh c).past (peWord b c 1)
/-- A window of the report at T, which is centred at tc: the fit, and how far its centre lies from tc. -/
def fitRole (b : Block) (c rate : Nat) (T : Gt) (tc : Int) (w : F64) (role : WinRole) : Fit × Nat :=
  let mc := bitAt (peFor b c rate T role).2 0
  let (ofs, len) := winShape mc rate role
  let d := sixths b ofs.natAbs
  (fitWin b c mc (if ofs < 0 then tc - d else tc + d) len w, d)
/-- A change of LOOKBACK lies within the span of the report at T (R319). -/
def lbInSpan (b : Block) (c rate : Nat) (T : Gt) : Bool :=
  let edge := fun (role : WinRole) =>
    let (ofs, len) := winShape (bitAt (peFor b c rate T role).2 0) rate role
    sixths b (2 * ofs.natAbs + len) / 2
  lbChanged b c ((T : Int) - (edge .before : Nat)) ((T : Int) + (edge .after : Nat))
/-- The estimate of channel c at reporting instant T of a rate; slice m completes it. -/
def estimate (b : Block) (c rate : Nat) (T : Gt) (late : Bool) : Estim :=
  let (pu, ctl) := peFor b c rate T .phasor
  let lb := fld ctl 23 16
  let tc : Int := (T : Int) - lb * pStep
  let (ftrk, tOk) := trkAt b c (trkInstant T)
  let w := fmul f2pi (fQ (f0 b * 1000000 + ftrk) 1000000)
  let fit := fitRole b c rate T tc w
  let (fm, d) := fit .before
  let (fz, _) := fit .middle
  let (fp, d2) := fit .after
  let (ph, _) := fit .phasor
  let (df, ro) := freqOf b d d2 fm fz fp tc
  let aux := fm.bad ||| fz.bad ||| fp.bad
  let puF := f64Of32 pu
  let (sn, cs) := fsincos (nomPhase b tc)
  let x := fdiv ph.p puF
  let y := fdiv ph.q puF
  let re := fadd (fmul x cs) (fmul y sn)
  let im := fsub (fmul y cs) (fmul x sn)
  let sv := 16 ≤ c
  let lbS := fSec (lb * pStep)
  -- R314: the synchrophasor of an SV channel is advanced to T
  let ang := fmul f2pi (fadd (fmul df lbS) (fdiv (fmul ro (fmul lbS lbS)) (fInt 2)))
  let (s2, c2) := fsincos ang
  let re2 := if sv then fsub (fmul re c2) (fmul im s2) else re
  let im2 := if sv then fadd (fmul re s2) (fmul im c2) else im
  let dfT := if sv then fadd df (fmul ro lbS) else df
  let word := fun (v : F64) => satS 32 (fToInt 64 (fmul v (fInt (2 ^ 28))))
  let micro := fun (v : F64) => satS 32 (fToInt 64 (fmul v (fInt 1000000)))
  let base := !late && tOk && !lbInSpan b c rate T
  let bad := if sv then ph.bad ||| aux else ph.bad
  { re := word re2, im := word im2, df := micro dfT, rocof := micro ro, phOk := base && bad = 0, fOk := base && aux = 0,
    bad := ph.bad ||| aux }
/-- The tracker result of a channel at T_j (R313): Δf in µHz at the window row of 100/s or 120/s, and its validity. -/
def trackerFind (b : Block) (c : Nat) (T : Gt) (late : Bool) : Int × Bool :=
  let rate := if fNom b then 120 else 100
  let tc : Int := (T : Int) - fld (peFor b c rate T .middle).2 23 16 * pStep
  let (ftrk, _) := trkAt b c (T - gtMs 10)
  let w := fmul f2pi (fQ (f0 b * 1000000 + ftrk) 1000000)
  let fit := fitRole b c rate T tc w
  let (fm, d) := fit .before
  let (fz, _) := fit .middle
  let (fp, d2) := fit .after
  let (df, _) := freqOf b d d2 fm fz fp tc
  let ok := !late && fm.bad = 0 && fz.bad = 0 && fp.bad = 0 && !lbInSpan b c rate T
  (clampI (-7000000) 7000000 (satS 32 (fToInt 64 (fmul df (fInt 1000000)))), ok)

/-! Slices (R317). -/

/-- Channels that convert or come from a source in use, ascending (R24). -/
def estChans (b : Block) : List Nat :=
  ((List.range 16).filter fun c => (b.chan c).on) ++ (svOn b).flatMap fun v => (List.range 8).map (16 + 8 * v + ·)
/-- How far the windows of channel c are served once slice m has taken its sample: the instant of the sample after it (R317). -/
def servedTo (b : Block) (c m : Nat) : Int :=
  if 16 ≤ c then ((m + 1) * pStep : Nat)
  else match (b.estCh c).hist.find? fun x => x.g = m with
    | some x => x.t + (pStep : Nat)
    | none => ((m + 1) * pStep : Nat) - (chanGd b c : Int)
/-- The same of every channel: the field channels, then the SV channels together. -/
def servedAll (b : Block) (m : Nat) : List Int := (List.range 17).map fun c => servedTo b c m
/-- A channel's entry of such a list. -/
def servedOf (l : List Int) (c : Nat) : Int := nth l (min c 16) 0
/-- Every window of a channel for the report at T is complete. -/
def winsDone (b : Block) (l : List Int) (c rate : Nat) (T : Gt) : Bool :=
  [WinRole.phasor, .before, .middle, .after].all fun role =>
    let (ofs, len) := winShape (bitAt (peFor b c rate T role).2 0) rate role
    decide (halfSixths b T (2 * ofs + len) ≤ servedOf l c * (12 * f0 b : Nat))
/-- Instants of a rate within the longest half span before a time and up to a later time. -/
def instantsIn (f : Nat) (lo hi : Int) : List Gt :=
  let start := lo - (gtMs 121 : Nat)
  let rec go : Nat → Gt → List Gt
    | 0, _ => []
    | n + 1, t => if (t : Int) ≤ hi then t :: go n (nextInst f t) else []
  go 128 (if start ≤ 0 then 0 else nextInst f start.toNat)
/-- The instants of a rate whose windows, of every one of some channels, a slice completes: all are complete with it, and some
were not before. -/
def doneNow (b : Block) (was now : List Int) (cs : List Nat) (f rate : Nat) : List Gt :=
  let top := cs.foldl (fun a c => max a (servedOf now c)) 0
  let low := cs.foldl (fun a c => min a (servedOf was c)) top
  (instantsIn f low top).filter fun T => cs.all (fun c => winsDone b now c rate T) && cs.any fun c => !winsDone b was c rate T
/-- The trackers that a slice completes (R313). -/
def trackers (was now : List Int) (c : Nat) (late : Bool) (b : Block) : Block :=
  forEach (doneNow b was now [c] 100 (if fNom b then 120 else 100)) (fun T b =>
    let (f, ok) := trackerFind b c T late
    let prev := ((b.estCh c).trk.head?.map (·.2.1)).getD 0
    modEst c (fun e => { e with trk := ((T, if ok then f else prev, ok) :: e.trk.filter (·.1 < T)).take 64,
                                sts := e.sts % 16 + 16 * b01 ok }) b) b
/-- PE_CH_STS of an estimate. -/
def estSts (e : Estim) (ok : Bool) : Nat :=
  b01 (e.bad.testBit 2 || e.bad.testBit 3 || e.bad.testBit 4) * 8 + b01 (e.bad.testBit 1) * 4 + b01 (e.bad.testBit 0) * 2 + b01 ok
/-- The local entry of a slot at T (R316). -/
def buildEntry (slot : Nat) (e : Stream) (T : Gt) (late : Bool) (b : Block) : Block :=
  let wrong := e.fmt.testBit 4 != fNom b
  let est := fun (c : Nat) => estimate b c e.rate T late
  let phs := (e.chans.take e.nph).map fun c => (c, est c)
  let fr := est e.freqChan
  let ok := fun (x : Estim) => x.phOk && !wrong
  let bad := (phs.filter fun x => !ok x.2).length
  let tq := tqAt b T
  let fOk := fr.fOk && !wrong
  let q := qualityWord (!fOk) (0 < bad) (tq = 0xF || syncLostTq b ≤ tq) false false false tq
  let stamp := T + gtNs (dLoc b e)
  let ent : LocalEntry :=
    { slot := slot, inst := T, stamp := stamp, quality := q, freq := if fOk then fr.df else 0, rocof := if fOk then fr.rocof else 0,
      ph := phs.map fun x => if ok x.2 then (x.2.re, x.2.im) else (0, 0),
      dig := if e.ndg = 0 then [] else [maskOf 16 fun i => match phs[i]? with | some x => !ok x.2 | none => false] }
  let first := quiet b.chain.invAt b
  let c := b |> onlyIf wrong (err 0x24 0x22)
    |> forEach phs (fun x => modEst x.1 fun s => { s with sts := s.sts / 16 * 16 + estSts x.2 (ok x.2) })
    |> modEst e.freqChan (fun s => { s with sts := s.sts / 16 * 16 + estSts fr fOk })
    |> onlyIf (0 < bad) (fun b => b |> cntBy (pg 0x24 0x05C) bad |> onlyIf first (irq 0x24 0) |> modChain fun s => { s with invAt := some b.mono })
  if b.dev.st == .idle then cnt32 (pg 0x00 0x09C) c
  else
    let older := fun (x : LocalEntry) => decide (x.stamp < stamp ∨ (x.stamp = stamp ∧ x.slot < slot))
    let keep := fun (x : LocalEntry) => match b.glean.stby with
      | some t => decide (t ≤ x.stamp)
      | none => true
    modGlean (fun g => { g with locq := (g.locq.filter fun x => keep x && older x) ++ ent :: g.locq.filter fun x => keep x && !older x }) c
/-- Slice m (R317): trackers in channel order, then local entries in slot order. -/
def sliceRun (m : Nat) (b : Block) : Block :=
  let late := b.chain.late.contains m
  let top := servedAll b m
  let was : List Int := if b.chain.ends.isEmpty then top.map fun t => t - (pStep : Int) else b.chain.ends
  let now := List.zipWith max was top
  let b := b |> modChain (fun s => { s with slice := some m, ends := now, late := s.late.filter (m < ·) })
  let b := forEach (estChans b) (fun c => trackers was now c late) b
  let locs := ((slotsEver b).filter fun s => 8128 ≤ s && (streamNow b s).enrolled && (streamNow b s).kind = 2)
  forEach locs (fun s b =>
    let e := streamNow b s
    forEach (doneNow b was now (e.freqChan :: e.chans.take e.nph) e.rate e.rate) (fun T => buildEntry s (streamAt b T s) T late) b) b |> noteTime (pg 0x24 0x054) 17
/-- The slice that is due: that of the latest conversion while a field channel converts, else that of the timebase instant
12 µs ago, by which time a conversion's sample has left stage 4 (R317). -/
def sliceDue (b : Block) : Option Nat :=
  let field := (List.range 16).any fun c => (b.chan c).on
  let grid := (b.now - gtNs 12000) * 12800 / gtSec
  let m := if field then max grid (b.chain.conv.elim 0 (· / 160)) else grid
  match b.chain.slice with
  | some l => if l < m then some (if m ≤ l + 3072 then l + 1 else m) else none
  | none => some m
/-- R317. -/
def execEstimatorSlice (s : State) : Out :=
  s.run fun b =>
    if !b.up || b.inReset 0x24 then b else
    match sliceDue b with
    | some m => sliceRun m b
    | none => b

/-! Channel settings (R319). -/

/-- A binary32 pattern is a positive normal number. -/
def posNormal (w : Word) : Bool := !bitAt w 31 && 1 ≤ fld w 30 23 && fld w 30 23 ≤ 254
/-- R319: the staged PU_PEAK and the written CLASS and LOOKBACK are committed. -/
def peCommit (v : Word) (b : Block) : Block :=
  let c := b.f (pg 0x24 0x040) 9 0
  let a := 0x3000000 + 16 * c
  let pu := mget (peWord b c 0) b.staged a
  let ctl := v &&& 0x00FF0001#32
  if c < 16 && fld ctl 23 16 != 0 then err 0x24 0x20 b
  else if !posNormal pu then err 0x24 0x21 b
  else
    b |> modEst c (fun e => { e with past := ((b.now, servedOf b.chain.ends c - (pStep : Nat), peWord b c 0, peWord b c 1) :: e.past).take 256 })
      |> wr a pu |> wr (a + 4) ctl |> dropStaged a 1
/-- R319. -/
def execPeChCommit (ag : Agent) (v : Word) (s : State) : Out := s.run (cmdGateL ag 0x24 0x048 (peCommit v))
/-- What a PHEST register shows where it follows from the state (R325). -/
def livePhest (b : Block) (o : Nat) : Option Nat :=
  let c := b.f (pg 0x24 0x040) 9 0
  match o with
  | 0x044 => some (peWord b c 0).toNat
  | 0x048 => some (peWord b c 1).toNat
  | 0x04C => some (b.estCh c).sts
  | 0x050 => some (pat 32 (((b.estCh c).trk.head?.map (·.2.1)).getD 0))
  | _ => none

end Sys2Proof.Machine
end

