-- ==== Sys2Proof/Machine/Silos.lean ====
section
/-! DEFINITION. Commands of the silos (R185–R205). -/

namespace Sys2Proof.Machine
open Sys2Proof

/-- The host pops from this silo (R185). -/
def hostPops (q : Nat) : Bool := q < 48 || (56 ≤ q && q < 63)
/-- The host pushes to this silo (R185). -/
def hostPushes (q : Nat) : Bool := (48 ≤ q && q < 56) || q = 63
/-- An entry as the register words show it. -/
def keepPopped (ag : Agent) (q : Nat) (e : List Byte) (b : Block) : Block :=
  modAgent ag (fun g => { g with popped := mput [] g.popped q e }) b
/-- The entry an agent popped last from a silo. -/
def AgentSt.lastPop (g : AgentSt) (q : Nat) : List Byte := mget [] g.popped q

/-- A host read of word 0 of a pop window (R195, R196). -/
def popWindow (q : Nat) (b : Block) : Block :=
  if !hostPops q then b |> err (siloPage q) 0x22 |> answer .host 0 else
  match siloTake q b with
  | (some e, b2) => b2 |> keepPopped .host q e |> answer .host (w32 (wordAt e 0))
  | (none, b2) => answer .host (w32 (wordAt (b.host.lastPop q) 0)) b2
/-- R196. -/
def execSiloPopHost (silo : Fin 64) (s : State) : Out := s.run (byAgent .host (popWindow silo.val))

/-- A push at the grant point: a success at silos 48–55 raises the command-arrival event of the silo (R199). -/
def siloPush (q : Nat) (item : List Byte) (b : Block) : Block :=
  let fits := b.siloFits q (ceilDiv item.length 64)
  b |> siloPut q item |> onlyIf (fits && 48 ≤ q && q < 56) (thrRaise (0x10 + (q - 48)) b.now 0)
/-- R191. -/
def execSiloPush (silo : Fin 64) (item : List Byte) (s : State) : Out :=
  s.run fun b => if b.up && !b.inReset (siloPage silo.val) then siloPush silo.val item b else b
/-- R198: word 0 pushes the staged words; they return to 0. -/
def hostPush (q : Nat) (v : Word) (b : Block) : Block :=
  let p := siloPage q
  if !hostPushes q then err p 0x23 b else
  let ws := (v &&& 0xFFFF00FF#32) :: (List.range 15).map fun i => mget 0 (b.silo q).stage (i + 1)
  b |> modSilo q (fun s => { s with stage := [] }) |> siloPush q (bytesOfWords ws)
/-- R198. -/
def execSiloPushHost (silo : Fin 64) (v : Word) (s : State) : Out :=
  s.run (cmdGate .host (siloPage silo.val) 0x800 (hostPush silo.val v))

/-- A silo's EN or DEPTH written (R186, R187): entries held before an enable are not there after it. -/
def siloCtl (q : Nat) (v : Word) (b : Block) : Block :=
  let p := siloPage q
  let d := fld v 3 0
  let old := b.r (sqCtl q)
  let on := bitAt old 31
  if d < 4 || 14 < d then err p 0x06 b
  else if on && d != fld old 3 0 then err p 0x20 b
  else if !on && bitAt v 31 then
    if 65536 < poolUsed b + 2 ^ d then err p 0x21 b
    else b |> siloEmpty q |> wr (sqCtl q) (v &&& 0x8000000F#32)
  else if on && !bitAt v 31 then b |> wr (sqCtl q) (v &&& 0x8000000F#32) |> siloEmpty q
  else wr (sqCtl q) (v &&& 0x8000000F#32) b
/-- R187. -/
def execSiloEnable (ag : Agent) (silo : Fin 64) (v : Word) (s : State) : Out :=
  s.run (cmdGateL ag (siloPage silo.val) (0x100 + 0x20 * (silo.val % 16)) (siloCtl silo.val v))

/-- At a start the silos of the settings are enabled in ascending order; one that does not fit stays disabled (R187). -/
def silosStart (b : Block) : Block :=
  let want := those 64 fun q => b.siloOn q
  let off := forEach (List.range 64) (fun q b => b |> wbit (sqCtl q) 31 false |> siloEmpty q) b
  forEach want (fun q b =>
    if poolUsed b + b.siloDepth q ≤ 65536 then wbit (sqCtl q) 31 true b else evr 0x0A0 q 0 b) off

end Sys2Proof.Machine
end

