-- ==== Sys2Proof/Machine/Alm.lean ====
section
/-! DEFINITION. The alarm composer: sources, threshold checks, decisions, balls, GOOSE datasets (R365–R373, R384–R386). -/

namespace Sys2Proof.Machine
open Sys2Proof

/-! Tables (R373, R385). -/

/-- Address of a source entry. -/
def srcAddr (s : Nat) : Nat := 0x540000 + 32 * s
/-- Address of a ball entry. -/
def ballAddr (n : Nat) : Nat := 0x542000 + 64 * n
/-- Address of a dataset entry. -/
def dsAddr (d : Nat) : Nat := 0x550000 + 256 * d
/-- Bytes of an entry in force. -/
def bytesInForce (b : Block) (a n : Nat) : List Byte := bytesOfWords (inForce b a n)
/-- Bytes of an entry as committed last. -/
def bytesLatest (b : Block) (a n : Nat) : List Byte := bytesOfWords (wordsNow b a n)
/-- The alarm composer's state changed. -/
def modAlm (f : AlmSt → AlmSt) (b : Block) : Block := { b with alm := f b.alm }
/-- ALM counter i. -/
def almCnt (i : Nat) : Nat := pg 0x2A (0x200 + 8 * i)
/-- EN of a source entry's words. -/
def srcEn (l : List Byte) : Bool := (leAt l 0 2).testBit 15
/-- OWNER. -/
def srcOwner (l : List Byte) : Nat := bits (leAt l 0 2) 14 12
/-- RATE. -/
def srcRate (l : List Byte) : Nat := bits (leAt l 0 2) 11 10
/-- OWNER as the latest entry has it (R365). -/
def ownerNow (b : Block) (s : Nat) : Nat := srcOwner (bytesLatest b (srcAddr s) 6)
/-- A slot is a member of a rate and due at every instant of it, by the latest tables (R240, R355): its stream. -/
def alwaysDue (b : Block) (r slot : Nat) : Option Stream :=
  let e := streamNow b slot
  let rg := rangesOf (wordsNow b (brReg r 0x200) 16)
  let f := b.rateHz r
  if e.enrolled && inRanges rg slot && f != 0 && e.rate % f = 0 then some e else none

/-! Source changes (R365, R367). -/

/-- A source asks for a state; it reaches the composer's grant point where the entry in force has EN and this owner. -/
def srcReq (owner src : Nat) (on : Bool) (t : Gt) (replayed : Bool) (b : Block) : Block :=
  let l := bytesInForce b (srcAddr src) 6
  if srcEn l && srcOwner l = owner then modAlm (fun a => { a with reqs := a.reqs ++ [⟨src, on, t, replayed⟩] }) b else b
/-- A source's state as its owner shows it: some tracker in alarm drives it (R338), or some declared group names it (R361). -/
def srcDriven (b : Block) (owner src : Nat) : Bool :=
  if owner = 1 then b.osc.trks.any fun e => e.2.drive = some src
  else if owner = 2 then (List.range 64).any fun g =>
    let a := 0x500000 + 2048 * g
    b.t a 15 && b.f (a + 24) 31 31 = 1 && b.f (a + 24) 23 16 = src && b.t (a + 40) 7
  else false
/-- The words that show a source's state (R385). -/
def srcShow (s : Nat) (b : Block) : Block :=
  wn (srcAddr s + 24) (b01 (b.alm.active.getLsbD s) * 2 ^ 31 + b01 (b.alm.valid.getLsbD s) * 2 ^ 30 + mget 0 b.alm.cnt s % 256) b
/-- A source entry takes force (R365). -/
def srcTake (s : Nat) (b : Block) : Block :=
  let old := bytesInForce b (srcAddr s) 6
  let c := takeForce (srcAddr s) b
  let new := bytesInForce c (srcAddr s) 6
  let keepThr := srcEn new && srcEn old && srcOwner new = 3 && srcOwner old = 3
  let m : BitVec 256 := 1#256 <<< s
  let c := modAlm (fun a => { a with cnt := mput 0 a.cnt s 0, thr := if keepThr then a.thr else a.thr &&& ~~~m }) c
  let t := c.now
  let off := modAlm (fun a => { a with reqs := a.reqs ++ [⟨s, false, t, false⟩] })
  (if !(srcEn new && srcOwner new = srcOwner old) then off c
   else if srcDriven c (srcOwner new) s then srcReq (srcOwner new) s true t false c else c) |> srcShow s
/-- Source entries that take force: those of a rate before a bale time, and those of rates that are not enabled. -/
def srcsTake (bale : Option (Nat × Gt)) : Nat → Block → Block
  | 0, b => b
  | n + 1, b =>
    let ripe := b.later.find? fun e =>
      0x540000 ≤ e.2.1 && e.2.1 < 0x542000 &&
        (let r := srcRate (bytesOfWords (nextForce b e.2.1 1))
         !(b.rate r).on || (match bale with | some (q, T) => r = q && decide (e.1 < T) | none => false))
    match ripe with
    | some e => srcsTake bale n (srcTake ((e.2.1 - 0x540000) / 32) b)
    | none => b

/-! Threshold checks (R366). -/

/-- Bits of a binary32 field as a binary64. -/
def f32At (l : List Byte) (o : Nat) : F64 := f64Of32 (w32 (leAt l o 4))
/-- A section is valid: ARRIVED and not INVALID (R355). -/
def SecView.good (s : SecView) : Bool := s.arrived && !s.invalid
/-- The quantity of a threshold check or a bale trigger (R366): a number, or a digital bit as 0 or 1; none where the
report is invalid. -/
def quantity (b : Block) (T : Gt) (secs : List SecView) (slot kind idx bit : Nat) : Option F64 := do
  let s ← secs.find? fun x => x.slot == slot
  if !s.good then none
  else match kind with
  | 0 =>
    let (x, y) := s.phasor idx
    if s.nph ≤ idx || (x = 0 && y = 0) then none else
    let re := fQ x (2 ^ 28)
    let im := fQ y (2 ^ 28)
    some (fsqrt (fadd (fmul re re) (fmul im im)))
  | 1 => some (fQ s.freq 1000000)
  | 2 => some (fQ s.rocof 1000000)
  | 3 =>
    if s.nan ≤ idx then none
    else if (streamAt b T slot).anaFix.testBit idx then some (fQ (sgn 32 (s.analog idx)) 65536)
    else some (f64Of32 (w32 (s.analog idx)))
  | _ => if s.ndg ≤ idx then none else some (fInt (b01 ((s.digital idx).testBit bit)))
/-- A threshold source is judged on a bale: none where its state stays. -/
def thrJudge (s : Nat) (T : Gt) (secs : List SecView) (b : Block) : Option Bool × Block :=
  let l := bytesInForce b (srcAddr s) 6
  let ctl := leAt l 0 2
  let kind := bits (leAt l 4 1) 7 5
  let v := quantity b T secs (leAt l 2 2 % 8192) kind (leAt l 4 1 % 32) (leAt l 5 1 % 16)
  let m : BitVec 256 := 1#256 <<< s
  let b := modAlm (fun a => { a with valid := if v.isSome then a.valid ||| m else a.valid &&& ~~~m }) b
  let b := onlyIf v.isNone (cnt (almCnt 2)) b
  let hi := f32At l 8
  let lo := f32At l 12
  let hy := f32At l 16
  let meet := match v with
    | none => true
    | some x => if kind = 4 then x != 0 else (ctl.testBit 8 && flt hi x) || (ctl.testBit 7 && flt x lo)
  let quiet := match v with
    | none => false
    | some x => if kind = 4 then x == 0 else !((ctl.testBit 8 && flt (fsub hi hy) x) || (ctl.testBit 7 && flt x (fadd lo hy)))
  if v.isNone && !ctl.testBit 9 then (none, srcShow s b) else
  let now := b.alm.thr.getLsbD s
  let n := if (if now then quiet else meet) then mget 0 b.alm.cnt s + 1 else 0
  let lim := if now then leAt l 7 1 else leAt l 6 1
  if lim ≤ n then
    (some (!now), b |> modAlm (fun a => { a with cnt := mput 0 a.cnt s 0, thr := a.thr ^^^ m }) |> srcShow s)
  else (none, b |> modAlm (fun a => { a with cnt := mput 0 a.cnt s n }) |> srcShow s)
/-- Bales of a list that still stand in their rings. -/
def stillHeld (b : Block) (l : List (Nat × Nat)) : List (Nat × Nat) := l.filter fun e => ((b.rate e.1).bale e.2).isSome
/-- The composer takes a closed bale: the threshold sources of its rate in ascending order, and its decision follows. A
replayed bale is evaluated again (R263). -/
def almBale (x : BaleRef) (bad : List Nat) (b : Block) : Block :=
  let b := srcsTake (some (x.rate, x.time)) 4096 b
  let (secs, b) := readBale x bad b
  let b := modAlm (fun a => { a with bales := a.bales ++ [(x.time, x.replayed)] }) b
  let on := those 256 fun s => let l := bytesInForce b (srcAddr s) 1; srcEn l && srcOwner l = 3 && srcRate l = x.rate
  forEach on (fun s b =>
    match thrJudge s x.time secs b with
    | (some v, c) => modAlm (fun a => { a with reqs := a.reqs ++ [⟨s, v, x.time, x.replayed⟩] }) c
    | (none, c) => c) b
/-- The composer works: state Run, page enabled and not in reset (R504, R380). -/
def almRuns (b : Block) : Bool := b.running && !b.inReset 0x2A
/-- R366. -/
def execComposerEvaluate (bad : List Nat) (s : State) : Out :=
  s.run fun b =>
    if !almRuns b then b else
    match b.gran.toAlm with
    | [] => b
    | x :: rest => b |> modGran (fun g => { g with toAlm := rest }) |> almBale x bad

/-! Balls (R368, R369, R380). -/

/-- OUT of the sixteen balls. -/
def almOuts (b : Block) : Nat := maskOf 16 fun i => (nth b.alm.balls.toList i {}).out
/-- A ball. -/
def Block.ball (b : Block) (i : Nat) : BallSt := (b.alm.balls[i]?).getD {}
/-- Changes one ball and shows it (R385). -/
def modBall (i : Nat) (f : BallSt → BallSt) (b : Block) : Block :=
  if h : i < 16 then
    let c := modAlm (fun a => { a with balls := a.balls.set i (f a.balls[i]) }) b
    let s := c.ball i
    wn (ballAddr i + 24) (b01 s.out * 128 + b01 s.latched * 64 + b01 s.l * 32) c
  else b
/-- This member's outputs follow its decisions: single, or the active member (R379). -/
def Block.decides (b : Block) : Bool := !b.member || b.pair.role == .active
/-- This member drives outputs: as it decides, or held since it stopped being active (R379). -/
def Block.acts (b : Block) : Bool := !b.member || b.pair.role == .active || b.pair.acting
/-- The level of a ball (R69, R70, R368, R380, R384): PD, the inactive level, the forced or the driven level. -/
def almLevel (b : Block) (i : Nat) : Bool :=
  let l := bytesInForce b (ballAddr i) 6
  let ctl := leAt l 0 2
  let pol := ctl.testBit 13
  let test := b.n (pg 0x2A 0x04C)
  if !b.balls.inact || b.dev.st == .keep || b.dev.st == .off then false
  else if !b.running || !b.enabled 0x2A || b.inReset 0x2A || !ctl.testBit 15 || !b.acts then !pol
  else if test.testBit (16 + i) then test.testBit i == pol
  else b.alm.drive.getLsbD i == pol
/-- The balls take their levels. -/
def almPins (b : Block) : Block :=
  { b with balls := { b.balls with alm := BitVec.ofNat 16 (maskOf 16 (almLevel b)) } }
/-- The drive follows OUT while this member decides. -/
def almDrive (b : Block) : Block :=
  almPins (if b.decides then modAlm (fun a => { a with drive := BitVec.ofNat 16 (almOuts b) }) b else b)
/-- The mode of the composer's decisions (R28, R29): that of the latest bale decided on. -/
def almGov (b : Block) : Bool := match leadRate b, b.alm.modeT with
  | none, _ => modeAt b b.now
  | some _, some T => modeAt b T
  | some _, none => b.mode.govern
/-- L of a ball (R368). -/
def ballLogic (b : Block) (i : Nat) : Bool :=
  let l := bytesInForce b (ballAddr i) 6
  let ctl := leAt l 0 2
  let n := ctl % 32
  let v := (List.range n).map fun k => b.alm.active.getLsbD (leAt l (4 + k) 1) != (leAt l 20 2).testBit k
  if !ctl.testBit 15 || n = 0 then false else if ctl.testBit 14 then v.all id else v.any id
/-- The sources a ball names. -/
def ballSrcs (b : Block) (i : Nat) : List Nat :=
  let l := bytesInForce b (ballAddr i) 6
  (List.range (leAt l 0 2 % 32)).map fun k => leAt l (4 + k) 1
/-- A DET_NOTICE of the composer (R370). -/
def almNotice (silo ev idx : Nat) (t : Gt) (replayed : Bool) (decider : Nat) (b : Block) : Block :=
  if !b.t (pg 0x2A 0x040) 0 then b else
  siloPush silo (entry ([0x05, 0, 3, BitVec.ofNat 8 ev] ++ leBytes 2 idx ++ [BitVec.ofNat 8 (b01 (almGov b) * 2 + b01 replayed), 0]
    ++ shortForm t ++ leBytes 2 decider ++ leBytes 2 (almOuts b))) b
/-- A change that capture may trigger on (R394). -/
def capTell (kind num : Nat) (on : Bool) (t : Gt) (b : Block) : Block :=
  { b with cap := { b.cap with evs := b.cap.evs ++ [⟨kind, num, on, t⟩] } }
/-- OUT of a ball changes (R368–R370). -/
def ballChange (i : Nat) (v : Bool) (dec : Nat) (t : Gt) (replayed : Bool) (b : Block) : Block :=
  let l := bytesInForce b (ballAddr i) 6
  let ctl := leAt l 0 2
  let latch := v && almGov b && ctl.testBit 12 && ctl.testBit 15
  b |> modBall i (fun s => { s with out := v, hold := b.mono + gtNs (leAt l 2 2 * 1000), ask := none, latched := s.latched || latch })
    |> cntWrap (ballAddr i + 28) |> cnt (almCnt 0) |> irq 0x2A 0
    |> onlyIf latch (fun b => b |> evr 0x520 i dec |> irq 0x2A 2)
    |> almDrive |> almNotice 30 (if v then 1 else 2) i t replayed dec
    |> onlyIf (b.t (pg 0x2A 0x040) 1) (thrRaise 0x0A t 0) |> capTell 6 i v t
/-- A latch is released (R368, R370): why: 0 ALM_ACK, 1 a mode boundary, 2 a ball commit, which writes no record. -/
def latchRelease (i why : Nat) (t : Gt) (replayed : Bool) (b : Block) : Block :=
  b |> modBall i (fun s => { s with latched := false }) |> onlyIf (why < 2) (evr 0x521 i why) |> irq 0x2A 2
    |> almNotice 30 5 i t replayed 0xFFFF
/-- A ball is evaluated at a decision: the decider and time of the decision, the sources that changed, whether a commit
of the ball took force, and the decision's bale time. -/
def ballEval (i dec : Nat) (t : Gt) (replayed : Bool) (changed : List Nat) (com : Bool) (bt : Gt) (b : Block) : Block :=
  let ctl := leAt (bytesInForce b (ballAddr i) 6) 0 2
  let gov := almGov b
  let latching := gov && ctl.testBit 12 && ctl.testBit 15
  let own := changed.any fun s => (ballSrcs b i).contains s
  let (dec, t) := if com && !own then (0xFFFF, bt) else (dec, t)
  let b := modBall i (fun s => { s with l := ballLogic b i }) b
  let rel := (b.ball i).latched && !latching
  let b := onlyIf rel (latchRelease i (if gov then 2 else 1) bt replayed) b
  let (dec, t) := if rel then (0xFFFF, bt) else (dec, t)
  let s := b.ball i
  let want := s.l || s.latched
  if want = s.out then
    let b := modBall i (fun s => { s with ask := none }) b
    if s.out && s.l && latching && !s.latched then
      b |> modBall i (fun s => { s with latched := true }) |> evr 0x520 i 0xFFFF |> irq 0x2A 2
    else b
  else
    let ask := if s.ask.isNone || own || com || rel then some (dec, t, replayed) else s.ask
    if b.mono < s.hold then modBall i (fun s => { s with ask := ask }) b
    else match ask with
    | some (d, u, r) => ballChange i want d u r b
    | none => b

/-! GOOSE (R371–R373). -/

/-- A dataset. -/
def Block.ds (b : Block) (d : Nat) : GooseSt := mget {} b.alm.goose d
/-- Changes a dataset and shows its numbers (R373). -/
def modDs (d : Nat) (f : GooseSt → GooseSt) (b : Block) : Block :=
  modAlm (fun a => { a with goose := mput {} a.goose d (f (mget {} a.goose d)) }) b
/-- The members' states (R371, R373). -/
def dsVals (b : Block) (l : List Byte) : List Bool :=
  (List.range (leAt l 0 2 % 64 + 1)).map fun k =>
    let w := leAt l (24 + 2 * k) 2
    (if w.testBit 15 then (b.ball (w % 256)).out else b.alm.active.getLsbD (w % 256)) != w.testBit 14
/-- A BER length. -/
def berLen (n : Nat) : List Byte := if n < 128 then beBytes 1 n else if n < 256 then 0x81 :: beBytes 1 n else 0x82 :: beBytes 2 n
/-- A BER element. -/
def berTlv (tag : Nat) (l : List Byte) : List Byte := BitVec.ofNat 8 tag :: berLen l.length ++ l
/-- A BER integer of an unsigned number: fewest bytes with a sign bit of 0. -/
def berUint (n : Nat) : List Byte := beBytes ((if n = 0 then 0 else lg n + 1) / 8 + 1) n
/-- A NUL-padded string. -/
def nulStr (l : List Byte) : List Byte := l.takeWhile (· != 0)
/-- The TimeQuality byte: LeapSecondsKnown, bit 5, and the accuracy class as whole bits of a second (R372). -/
def gooseTq (b : Block) (t : Gt) : Nat :=
  let tq := tqAt b t
  let known := (deltaAt b (secOf t)).isSome
  let bound := if tq = 0 then max (b.n (pg 0x02 0x050)) 1 else 10 ^ (min tq 0xB - 1)
  b01 known * 128 + b01 (tq = 0xF || !known) * 32 + (if tq = 0xF then 31 else min (lg (1000000000 / bound)) 24)
/-- The message of a dataset: the frame from destination address on, as a port sends it (R371). -/
def gooseFrame (b : Block) (p d : Nat) : List Byte :=
  let l := bytesInForce b (dsAddr d) 64
  let s := b.ds d
  let ctl := leAt l 0 2
  let delta := (deltaAt b (secOf s.t)).getD 0
  let utc := beBytes 4 (pat 32 ((secOf s.t : Int) - delta)) ++ beBytes 3 (s.t % gtSec * 2 ^ 24 / gtSec) ++ beBytes 1 (gooseTq b s.t)
  let qual := if ctl.testBit 13 then berTlv 0x84 [3, 0, 0] else []
  let data := s.vals.flatMap fun v => berTlv 0x83 [if v then 0xFF else 0] ++ qual
  let pdu := berTlv 0x61 (berTlv 0x80 (nulStr (slice l 88 64)) ++ berTlv 0x81 (berUint (leAt l 20 1 * s.ms))
    ++ berTlv 0x82 (nulStr (slice l 152 64)) ++ berTlv 0x83 (nulStr (slice l 216 32)) ++ berTlv 0x84 utc
    ++ berTlv 0x85 (berUint s.st) ++ berTlv 0x86 (berUint s.sq) ++ berTlv 0x87 [if ctl.testBit 14 then 0xFF else 0]
    ++ berTlv 0x88 (berUint (leAt l 12 4)) ++ berTlv 0x89 [0] ++ berTlv 0x8A (berUint s.vals.length) ++ berTlv 0xAB data)
  let tag := if leAt l 10 2 = 0 then [] else 0x81 :: 0x00 :: beBytes 2 (leAt l 10 2)
  slice l 4 6 ++ macOf b p ++ tag ++ [0x88, 0xB8] ++ beBytes 2 (leAt l 2 2) ++ beBytes 2 (8 + pdu.length)
    ++ beBytes 2 (b01 (ctl.testBit 14) * 0x8000) ++ [0, 0] ++ pdu
/-- Sending is possible: Run, page enabled and not in reset. -/
def gooseCan (b : Block) : Bool := almRuns b && b.enabled 0x2A && b.balls.inact
/-- The message of the present state goes out, in class 1 to every port of the mask; a standby sends none (R379). The
port A of a PRP pair stands for both. -/
def gooseSend (d : Nat) (b : Block) : Block :=
  let ctl := leAt (bytesInForce b (dsAddr d) 1) 0 2
  let ports := those 4 fun p => ctl.testBit (8 + p) && !(prpOn b && p = 1 && ctl.testBit 8)
  let c := if b.acts then
      b |> forEach ports (fun p b => txSend p 1 (.goose d) (gooseFrame b p d) b) |> cnt (almCnt 3)
    else b
  c |> modDs d (fun s => { s with due := some (b.mono + gtMs s.ms), sent := true })
    |> wn (dsAddr d + 248) (b.ds d).st |> wn (dsAddr d + 252) (b.ds d).sq
/-- A message of a new state: at once, and again after T_MIN (R372); where sending is not possible it waits. -/
def gooseBurst (d : Nat) (b : Block) : Block :=
  let tmin := leAt (bytesInForce b (dsAddr d) 5) 16 2
  let b := modDs d (fun s => { s with sq := 0, ms := tmin, due := none, sent := false }) b
  if gooseCan b then gooseSend d b else b
/-- A dataset entry takes force: stNum 1 and its first message where it is enabled (R372, R373). -/
def dsTake (d : Nat) (t : Gt) (b : Block) : Block :=
  let c := takeForce (dsAddr d) b
  let l := bytesInForce c (dsAddr d) 64
  if (leAt l 0 2).testBit 15 then
    c |> modDs d (fun _ => { on := true, vals := dsVals c l, t := t }) |> gooseBurst d
  else modDs d (fun _ => {}) c
/-- Datasets whose members changed at a decision with this time (R372). -/
def gooseChanged (t : Gt) (b : Block) : Block :=
  forEach (b.alm.goose.map (·.1)) (fun d b =>
    let s := b.ds d
    let v := dsVals b (bytesInForce b (dsAddr d) 64)
    if !s.on || v = s.vals then b else
    b |> modDs d (fun s => { s with vals := v, t := t, st := if s.st = 0xFFFFFFFF then 1 else s.st + 1 })
      |> cnt (almCnt 4) |> gooseBurst d) b
/-- R372: a dataset's interval has elapsed, or sending has become possible again. -/
def gooseAgain (d : Nat) (b : Block) : Block :=
  let s := b.ds d
  let tmax := leAt (bytesInForce b (dsAddr d) 5) 18 2
  if !s.on || !gooseCan b then b
  else if !s.sent then gooseSend d b
  else if (match s.due with | some t => decide (b.mono < t) | none => false) then b
  else b |> modDs d (fun s => { s with sq := if s.sq = 0xFFFFFFFF then 1 else s.sq + 1, ms := min (2 * s.ms) tmax }) |> gooseSend d
/-- R372. -/
def execGooseRetransmit (dataset : Fin 64) (s : State) : Out := s.run (gooseAgain dataset.val)

/-! Decisions (R367). -/

/-- Ball or dataset entries that take force before a bale time; all where no rate is enabled. -/
def comRipe (b : Block) (bt : Option Gt) (lo hi : Nat) : List (Gt × Nat × List Word) :=
  b.later.filter fun e => lo ≤ e.2.1 && e.2.1 < hi &&
    ((leadRate b).isNone || (match bt with | some T => decide (e.1 < T) | none => false))
/-- A source changes at a decision. -/
def srcChange (q : SrcReq) (b : Block) : Block :=
  let m : BitVec 256 := 1#256 <<< q.src
  if b.alm.active.getLsbD q.src = q.on then b else
  b |> modAlm (fun a => { a with active := if q.on then a.active ||| m else a.active &&& ~~~m })
    |> cntWrap (srcAddr q.src + 28) |> cnt (almCnt 1) |> irq 0x2A 1 |> srcShow q.src |> capTell 5 q.src q.on q.t
    |> onlyIf (srcOwner (bytesInForce b (srcAddr q.src) 1) = 3) (almNotice 31 (if q.on then 3 else 4) q.src q.t q.replayed q.src)
/-- Requests in source order, as they came within a source. -/
def bySrc (l : List SrcReq) : List SrcReq := (List.range 256).flatMap fun s => l.filter fun q => q.src = s
/-- Everything pending at the grant point is applied, and each ball and dataset evaluated once. -/
def almDecide (b : Block) : Block :=
  let b := srcsTake none 4096 b
  let reqs := bySrc b.alm.reqs
  let bales := b.alm.bales
  let bt := bales.foldl (fun a e => max a e.1) 0
  let btO := if bales.isEmpty then none else some bt
  let was := b.alm.active
  let b := modAlm (fun a =>
    { a with reqs := [], bales := [], modeT := match btO, a.modeT with
        | some x, some y => some (max x y)
        | some x, none => some x
        | none, y => y }) b
  let balls := comRipe b btO 0x542000 0x550000
  let dss := comRipe b btO 0x550000 0x560000
  let b := forEach balls (fun e => takeForce e.2.1) b
  let b := forEach reqs srcChange b
  let changed := those 256 fun s => b.alm.active.getLsbD s != was.getLsbD s
  let q := reqs.find? fun q => changed.contains q.src
  let (dec, t, rep) := match q with
    | some q => (q.src, q.t, q.replayed)
    | none => (0xFFFF, if bales.isEmpty then b.now else bt, bales.any (·.2))
  let before := almOuts b
  let nbt := if bales.isEmpty then b.now else bt
  let b := forEach (List.range 16) (fun i => ballEval i dec t rep changed (balls.any fun e => e.2.1 = ballAddr i) nbt) b
  let b := forEach dss (fun e => dsTake ((e.2.1 - 0x550000) / 256) t) b
  almPins (if !changed.isEmpty || almOuts b != before then gooseChanged t b else b)
/-- R367. -/
def execComposerDecision (s : State) : Out := s.run fun b => if almRuns b then almDecide b else b
/-- R369: MIN_PW of a ball ends; the change still asked for is made. -/
def execMinPwExpire (ball : Fin 16) (s : State) : Out :=
  s.run fun b =>
    let t := b.ball ball.val
    let want := t.l || t.latched
    match t.ask with
    | some (d, u, r) =>
      if !almRuns b || b.mono < t.hold || want = t.out then b
      else b |> ballChange ball.val want d u r |> gooseChanged u
    | none => b
/-- R368: a write of 1 releases a ball's latch where its logic is 0; OUT then follows. -/
def almAck (v : Word) (b : Block) : Block :=
  let rel := those 16 fun i => bitAt v i && (b.ball i).latched && !(b.ball i).l
  let t := b.now
  b |> forEach rel (fun i => latchRelease i 0 t false)
    |> forEach rel (fun i => ballEval i 0xFFFF t false [] false t) |> gooseChanged t
/-- R368. -/
def execAlmAck (ag : Agent) (v : Word) (s : State) : Out := s.run (cmdGate ag 0x2A 0x048 (almAck v))
/-- R384: forced balls; a record at each change. -/
def almTest (v : Word) (b : Block) : Block :=
  let c := wr (pg 0x2A 0x04C) v b
  almPins (if b.r (pg 0x2A 0x04C) = v then c else evr 0x522 v.toNat 0 c)
/-- R384. -/
def execAlmTestWrite (ag : Agent) (v : Word) (s : State) : Out := s.run (cmdGateL ag 0x2A 0x04C (almTest v))

/-! Commits (R365, R373, R385, R386). -/

/-- Writable bits of a source entry's word. -/
def srcMask (i : Nat) : Nat := match i with
  | 0 => 0x1FFFFF80
  | 1 => 0xFFFF0FFF
  | 2 | 3 | 4 => 0xFFFFFFFF
  | _ => 0
/-- A staged entry as it would be committed. -/
def stagedEntry (b : Block) (a n : Nat) (mask : Nat → Nat) (v : Word) : List Word :=
  (v :: stagedWords b (a + 4) (n - 1)).zipIdx.map fun (w, i) => w &&& w32 (mask i)
/-- A binary32 field is a number of at least 0. -/
def nonNeg (w : Word) : Bool := match flOf32 w with
  | .nan => false
  | v => v == .fin false 0 1 || !(v.sign) || w = 0x80000000
/-- Some enabled group or tracker names a source. -/
def srcNamed (b : Block) (s : Nat) : Bool :=
  ((List.range 64).any fun g =>
    let a := 0x500000 + 2048 * g
    b.t a 15 && b.t (a + 24) 31 && b.f (a + 24) 23 16 = s) ||
  (List.range 4096).any fun t =>
    let a := 0x410000 + 64 * t
    b.t a 15 && b.t (a + 4) 31 && b.f (a + 4) 23 16 = s
/-- Why a source entry is refused, 0 where it is not (R386). -/
def srcCheck (b : Block) (s : Nat) (l : List Byte) : Nat :=
  let kind := bits (leAt l 4 1) 7 5
  let idx := leAt l 4 1 % 32
  if 4 < srcOwner l then 0x06
  else if srcOwner l != ownerNow b s && srcNamed b s then 0x21
  else if !srcEn l || srcOwner l != 3 then 0
  else if leAt l 6 1 = 0 || leAt l 7 1 = 0 || !nonNeg (w32 (leAt l 16 4)) || 5 ≤ kind then 0x22
  else match alwaysDue b (srcRate l) (leAt l 2 2 % 8192) with
  | none => 0x20
  | some e =>
    let lim := match kind with | 0 => e.nph | 3 => e.nan | 4 => e.ndg | _ => 32
    if lim ≤ idx then 0x20 else 0
/-- R365: the staged source entry is committed; at once where its rate is not enabled. -/
def srcCommit (s : Nat) (v : Word) (b : Block) : Block :=
  let a := srcAddr s
  let ws := stagedEntry b a 6 srcMask v
  let code := srcCheck b s (bytesOfWords ws)
  if code != 0 then err 0x2A code b else b |> commitLater b.mark a ws |> dropStaged a 8 |> srcsTake none 4096
/-- R365. -/
def execAlmSourceCommit (ag : Agent) (src : Fin 256) (v : Word) (s : State) : Out := s.run (cmdGateL ag 0x2A 0 (srcCommit src.val v))
/-- Writable bits of a ball entry's word. -/
def ballMask (i : Nat) : Nat := match i with
  | 0 => 0xFFFFF01F
  | 1 | 2 | 3 | 4 => 0xFFFFFFFF
  | 5 => 0xFFFF
  | _ => 0
/-- R385: the staged ball entry is committed; at once where no rate is enabled. -/
def ballCommit (i : Nat) (v : Word) (b : Block) : Block :=
  let a := ballAddr i
  let ws := stagedEntry b a 6 ballMask v
  if 16 < fld v 4 0 then err 0x2A 0x22 b
  else
    let c := b |> commitLater b.mark a ws |> dropStaged a 16
    if (leadRate b).isNone then
      c |> takeForce a |> ballEval i 0xFFFF b.now false [] true b.now |> almPins |> gooseChanged b.now
    else c
/-- R385. -/
def execAlmBallCommit (ag : Agent) (ball : Fin 16) (v : Word) (s : State) : Out := s.run (cmdGateL ag 0x2A 0 (ballCommit ball.val v))
/-- Writable bits of a dataset entry's word. -/
def dsMask (i : Nat) : Nat := match i with
  | 0 => 0xFFFFEF3F
  | 5 => 0x000000FF
  | 62 | 63 => 0
  | n => if 6 ≤ n && n < 22 then 0xC0FFC0FF else 0xFFFFFFFF
/-- Why a dataset entry is refused, 0 where it is not (R373, R386). -/
def dsCheck (l : List Byte) : Nat :=
  let n := leAt l 0 2 % 64 + 1
  let tmin := leAt l 16 2
  let tmax := leAt l 18 2
  if 32 < n || tmin = 0 || 1000 < tmin || 60000 < tmax || leAt l 20 1 < 2 || 8 < leAt l 20 1
    || (List.range n).any (fun k => (leAt l (24 + 2 * k) 2).testBit 15 && 15 < leAt l (24 + 2 * k) 1) then 0x22
  else if tmax < tmin then 0x23 else 0
/-- R373: the staged dataset entry is committed; at once where no rate is enabled. -/
def dsCommit (d : Nat) (v : Word) (b : Block) : Block :=
  let a := dsAddr d
  let ws := stagedEntry b a 62 dsMask v
  let code := dsCheck (bytesOfWords ws)
  if code != 0 then err 0x2A code b
  else
    let c := b |> commitLater b.mark a ws |> dropStaged a 64
    if (leadRate b).isNone then dsTake d b.now c else c
/-- R373. -/
def execGooseDatasetCommit (ag : Agent) (dataset : Fin 64) (v : Word) (s : State) : Out := s.run (cmdGateL ag 0x2A 0 (dsCommit dataset.val v))

/-! Resets (R380) and live registers. -/

/-- Sources inactive, OUT and latches 0, counts 0. -/
def almClear (b : Block) : Block :=
  let c := modAlm (fun a => { a with active := 0, thr := 0, valid := 0, cnt := [], reqs := [], bales := [],
                                     balls := Vector.replicate 16 {}, drive := 0 }) b
  c |> forEach (List.range 256) srcShow |> forEach (List.range 16) (fun i => modBall i id) |> almPins
/-- Every dataset starts anew: stNum 1 at the first send. -/
def gooseFresh (b : Block) : Block :=
  let on := those 64 fun d => (leAt (bytesInForce b (dsAddr d) 1) 0 2).testBit 15
  forEach on (fun d b =>
    let l := bytesInForce b (dsAddr d) 64
    modDs d (fun _ => { on := true, vals := dsVals b l, t := b.now, ms := leAt l 16 2 }) b)
    (modAlm (fun a => { a with goose := [] }) b)
/-- The commits of ALM tables that still wait take force. -/
def almForce (b : Block) : Block := { b with later := b.later.filter fun e => !(0x540000 ≤ e.2.1 && e.2.1 < 0x560000) }
/-- A warm or cold reset, or the entry to Keep: the state is lost. -/
def almReset (b : Block) : Block := b |> almForce |> almClear |> modAlm (fun a => { a with modeT := none }) |> gooseFresh
/-- An ALM block reset: stNum is kept; sending restarts after it. -/
def almBlockReset (b : Block) : Block :=
  b |> almClear |> modAlm fun a => { a with goose := a.goose.map fun e => (e.1, { e.2 with sent := false }) }
/-- After an ALM block reset each source that a detector drives is asked for as its owner has it (R338, R361; DEDUCED 217). -/
def almBlockStart (b : Block) : Block :=
  let drives := fun (s : Nat) =>
    let l := bytesInForce b (srcAddr s) 6
    srcEn l && srcDriven b (srcOwner l) s
  almPins (modAlm (fun a => { a with reqs := (those 256 drives).map fun s => ⟨s, true, b.now, false⟩ }) b)
/-- What an ALM register shows where it follows from the state (R384). -/
def liveAlm (b : Block) (o : Nat) : Option Nat :=
  if o = 0x044 then some (maskOf 16 (fun i => (b.ball i).latched) * 2 ^ 16 + almOuts b)
  else if 0x100 ≤ o && o < 0x120 then some (b.alm.active.toNat / 2 ^ (32 * ((o - 0x100) / 4)) % 2 ^ 32)
  else none

end Sys2Proof.Machine
end

