-- ==== Sys2Proof/Machine/Cap.lean ====
section
/-! DEFINITION. Disturbance capture: definitions, triggers, rows, Stooks, areas, export (R391–R416). -/

namespace Sys2Proof.Machine
open Sys2Proof

/-! Definitions (R391, R392, R412). -/

/-- A trigger slot (R394, R412). -/
structure CapSlot where
  type : Nat
  edge : Nat
  cubic : Bool
  ch : Nat
  num : Nat
  rate : Nat
  kind : Nat
  idx : Nat
  bit : Nat
  a : Int
  b : Int
  hyst : Int
  aF : F64
deriving DecidableEq, Repr
/-- A definition's settings. -/
structure CapCfg where
  en : Bool
  area : Nat
  holdMode : Nat
  export_ : Bool
  autoDbl : Bool
  partnerOut : Bool
  trigOut : Bool
  nch : Nat
  dec : Nat
  pre : Nat
  post : Nat
  lateMs : Nat
  hold : Nat
  chans : List Nat
  slots : List CapSlot
deriving DecidableEq, Repr
/-- A slot from the definition's bytes. -/
def capSlotOf (l : List Byte) (i : Nat) : CapSlot :=
  let o := 64 + 32 * i
  { type := leAt l o 1 % 16, edge := leAt l (o + 1) 1 / 64, cubic := (leAt l (o + 1) 1).testBit 5, ch := leAt l (o + 1) 1 % 16,
    num := leAt l (o + 2) 2, rate := leAt l (o + 4) 1 / 64, kind := bits (leAt l (o + 4) 1) 5 3, idx := leAt l (o + 5) 1,
    bit := leAt l (o + 6) 1, a := sgn 32 (leAt l (o + 8) 4), b := sgn 32 (leAt l (o + 12) 4), hyst := sgn 32 (leAt l (o + 16) 4),
    aF := f32At l (o + 8) }
/-- The settings of 48 words. -/
def capOf (ws : List Word) : CapCfg :=
  let l := bytesOfWords ws
  let c := leAt l 0 2
  let n := c % 16 + 1
  { en := c.testBit 15, area := bits c 14 13, holdMode := bits c 12 11, export_ := c.testBit 10, autoDbl := c.testBit 9,
    partnerOut := c.testBit 8, trigOut := c.testBit 7, nch := n, dec := leAt l 2 2 % 2048, pre := leAt l 4 4, post := leAt l 8 4,
    lateMs := leAt l 12 2, hold := leAt l 14 2, chans := (List.range n).map fun i => leAt l (16 + 2 * i) 2 % 1024,
    slots := (List.range 4).map (capSlotOf l) }
/-- Address of a definition. -/
def capAddr (d : Nat) : Nat := 0x600000 + 256 * d
/-- A definition's settings now. -/
def capCfg (b : Block) (d : Nat) : CapCfg := capOf (wordsNow b (capAddr d) 48)
/-- Changes the capture engine. -/
def modCap (f : CapSt → CapSt) (b : Block) : Block := { b with cap := f b.cap }
/-- A definition's state. -/
def Block.cdef (b : Block) (d : Nat) : CapDef := (b.cap.defs[d]?).getD {}
/-- A phase in which triggers are accepted or a Stook is being recorded. -/
def CapDef.live (s : CapDef) : Bool := s.ph == .armed || s.ph == .recording
/-- The STATE word (R412). -/
def capState (s : CapDef) : Nat :=
  b01 (s.ph == .armed) * 2 ^ 31 + b01 (s.ph == .recording) * 2 ^ 30 + b01 (s.ph == .wait) * 2 ^ 29
    + (if s.live then min s.rows 0xFFFFFF else 0)
/-- Changes a definition and shows its state. -/
def modDef (d : Nat) (f : CapDef → CapDef) (b : Block) : Block :=
  if h : d < 32 then
    let c := modCap (fun s => { s with defs := s.defs.set d (f s.defs[d]) }) b
    wn (capAddr d + 192) (capState (c.cdef d)) c
  else b
/-- CAP counter i. -/
def capCnt (i : Nat) : Nat := pg 0x30 (0x200 + 8 * i)
/-- Input samples in so many seconds, where the channels share one rate (R391). -/
def capRate (b : Block) (c : CapCfg) : Option (Nat × Nat) :=
  let rs := c.chans.map fun ch => if ch < 16 then (64000, wdecOf b ch) else (svRate b ((ch - 16) / 8), 1)
  let field := c.chans.all (· < 16)
  match rs with
  | [] => none
  | r :: l => if (field || c.chans.all (16 ≤ ·)) && l.all (· == r) then some r else none
where
  /-- WDEC + 1. -/
  wdecOf (b : Block) (ch : Nat) : Nat := b.f (pg 0x22 (0x100 + 4 * ch)) 13 8 + 1
/-- L (R396). -/
def capL (c : CapCfg) (r : Nat × Nat) : Nat := ceilDiv (c.lateMs * r.1) (r.2 * c.dec * 1000)
/-- R (R396). -/
def capR (c : CapCfg) (r : Nat × Nat) : Nat := c.pre + capL c r
/-- Bytes of a row (R393). -/
def rowBytes (c : CapCfg) : Nat := 4 + 4 * c.nch
/-- Bytes of an extent (R403). -/
def capExtent (c : CapCfg) : Nat := ceilDiv (256 + 64 * c.nch + (c.pre + c.post) * rowBytes c) 4096 * 4096
/-- The instant that an input sample of a channel represents (R392). -/
def capInst (b : Block) (r : Nat × Nat) (ch n : Nat) : Gt :=
  if ch < 16 then n * r.2 * 1024000000 - gdWave b ch (n * r.2) else mkGt (n / r.1) (instNs r.1 (n % r.1))
/-- The input sample of a channel with index n. -/
def capSamp (b : Block) (r : Nat × Nat) (ch n : Nat) : Option WSamp := (mget [] b.chain.wrec ch).find? fun w => w.g = n * r.2
/-- Its value where it is neither suppressed, missing nor flagged (R394). -/
def capX (b : Block) (r : Nat × Nat) (ch n : Nat) : Option Int :=
  (capSamp b r ch n).bind fun w => if w.supp || w.flag then none else some w.v
/-- The first input index at or after a time (R396): of a field channel, among the first at or after it under each GD_W that
its samples have had, and the first samples under each. -/
def capFirst (b : Block) (r : Nat × Nat) (ch : Nat) (t : Gt) : Nat :=
  if ch < 16 then
    let log := mget [] b.chain.gdLog ch
    let at_ := fun (gd : Nat) => ceilDiv (t + gd) (r.2 * 1024000000)
    let l := (log.map (fun e => at_ e.2) ++ log.map fun e => ceilDiv e.1 r.2).filter fun n => t ≤ capInst b r ch n
    l.foldl min (at_ (chanGdW b ch))
  else
    let T := nextInst r.1 (t - 1)
    if t = 0 then 0 else secOf T * r.1 + rndNat (nsOf T * r.1) 1000000000
/-- The newest input index that every channel of a definition has delivered or missed (R307). -/
def capAvail (b : Block) (c : CapCfg) (r : Nat × Nat) (n : Nat) : Bool :=
  c.chans.all fun ch =>
    if ch < 16 then (match b.chain.conv with | some g => decide (n * r.2 * 32 ≤ g) | none => false)
    else
      let v := (ch - 16) / 8
      (capSamp b r ch n).isSome || (if (svOn b).contains v then (match (b.svSt v).need with | some k => decide (n ≤ k) | none => false)
        else decide (capInst b r ch n + gtMs 8 ≤ b.now))
/-- The index of the next input sample after the present time. -/
def capNow (b : Block) (r : Nat × Nat) (ch : Nat) : Nat :=
  if ch < 16 then (match b.chain.conv with | some g => g / 32 / r.2 + 1 | none => b.now / (r.2 * 1024000000) + 1)
  else b.now * r.1 / gtSec + 1

/-! Areas and arming (R396, R403, R404). -/

/-- Base and length in bytes of an area in Stook memory. -/
def areaBase (b : Block) (a : Nat) : Nat := b.f (pg 0x30 (0x080 + 16 * a)) 6 0 * 0x4000000
/-- Its length. -/
def areaLen (b : Block) (a : Nat) : Nat := b.f (pg 0x30 (0x080 + 16 * a)) 15 8 * 0x4000000
/-- MODE 1, stop. -/
def areaStop (b : Block) (a : Nat) : Bool := b.t (pg 0x30 (0x080 + 16 * a)) 31
/-- An area by its number. -/
def Block.carea (b : Block) (a : Nat) : CapArea := (b.cap.areas[a]?).getD {}
/-- Changes an area. -/
def modArea (a : Nat) (f : CapArea → CapArea) (b : Block) : Block :=
  if h : a < 4 then modCap (fun s => { s with areas := s.areas.set a (f s.areas[a]) }) b else b
/-- TAIL of an area. -/
def CapArea.tail (x : CapArea) : Nat := match x.exts with
  | e :: _ => e.ofs
  | [] => x.head
/-- Bytes free. -/
def areaFree (b : Block) (a : Nat) : Nat :=
  let x := b.carea a
  if x.exts.isEmpty then areaLen b a
  else if x.tail < x.head then areaLen b a - (x.head - x.tail) else x.tail - x.head
/-- An extent that a reservation never passes (R404). -/
def extKept (b : Block) (e : CapExt) : Bool :=
  e.owner.isSome || (match e.seq with | some q => b.cap.queue.any (·.seq = q) | none => false)
/-- Extents left after the oldest ones are passed until a reservation fits; none where it cannot. -/
def passOld (b : Block) (s len : Nat) : List CapExt → Option (List CapExt)
  | [] => some []
  | e :: l =>
    if ((e :: l).any fun x => x.ofs < s + len && s < x.ofs + x.len) then
      if extKept b e then none else passOld b s len l
    else some (e :: l)
/-- The place of a reservation in an area, and the extents it leaves (R403, R404). -/
def areaFind (b : Block) (a len : Nat) : Option (Nat × List CapExt) :=
  let x := b.carea a
  let s := if x.head + len ≤ areaLen b a then x.head else 0
  if areaLen b a < len then none
  else if areaStop b a then
    (if x.exts.any fun e => e.ofs < s + len && s < e.ofs + e.len then none else some (s, x.exts))
  else (passOld b s len x.exts).map fun l => (s, l)
/-- The first row index from an input index on. -/
def rowFrom (c : CapCfg) (n : Nat) : Nat := ceilDiv n c.dec * c.dec
/-- A definition arms where its area has room, or waits (R396, R404). -/
def capArm (d : Nat) (b : Block) : Block :=
  let c := capCfg b d
  match capRate b c with
  | none => b |> modDef d (fun s => { s with ph := .uneven }) |> onlyIf ((b.cdef d).ph != .uneven) (evr 0x604 d 0)
  | some r =>
    match areaFind b c.area (capExtent c) with
    | some (s, left) =>
      b |> modArea c.area (fun x => { x with head := s + capExtent c, exts := left ++ [⟨s, capExtent c, some d, none⟩] })
        |> modDef d (fun x =>
            let n := x.nx.getD (capNow b r (nth c.chans 0 0))
            { ph := .armed, nx := some n, rate := r, ext := s, r0 := rowFrom c n, lock := x.lock, met := x.met })
    | none =>
      let first := quiet b.cap.waitAt b
      let fresh := (b.cdef d).ph != .wait
      b |> modDef d (fun x => { ph := .wait, nx := some (x.nx.getD (capNow b r (nth c.chans 0 0))), rate := r, lock := x.lock, met := x.met })
        |> onlyIf fresh (fun b => b |> onlyIf first (evr 0x603 c.area 0) |> modCap fun s => { s with waitAt := some b.mono })
/-- The extent of a definition is no longer reserved; where its Stook is complete it carries the SEQ. -/
def capFreeExt (d : Nat) (seq : Option Nat) (b : Block) : Block :=
  let a := (capCfg b d).area
  modArea a (fun x => { x with exts := x.exts.map fun e => if e.owner = some d then { e with owner := none, seq := seq } else e }) b

/-! Notices and TRIG_OUT (R399, R407). -/

/-- Offset of a definition's extent in Stook memory. -/
def capOfs (b : Block) (d : Nat) : Nat := areaBase b (capCfg b d).area + (b.cdef d).ext
/-- A STOOK_NOTICE (R407). -/
def stookNotice (x : CapExport) (ev : Nat) (b : Block) : Block :=
  if !b.t (pg 0x30 0x040) 0 then b else
  siloPush (32 + x.area) (entry ([0x06, 0, BitVec.ofNat 8 x.defn, BitVec.ofNat 8 ev] ++ leBytes 4 x.seq ++ leBytes 4 (x.ofs / 4096)
    ++ leBytes 4 x.len ++ shortForm x.t ++ [BitVec.ofNat 8 x.type, BitVec.ofNat 8 x.flags] ++ leBytes 4 x.post)) b
/-- TRIG_OUT takes its level (R399, R70). -/
def capPins (b : Block) : Block :=
  let pol := b.t (pg 0x30 0x040) 2
  let on := b.cap.outEnd.isSome && b.up && b.enabled 0x30 && !b.inReset 0x30
  { b with balls := { b.balls with trigOut := if !b.balls.inact || b.dev.st == .keep || b.dev.st == .off then false else on == pol } }
/-- TRIG_OUT pulses; a replacement gives no second pulse while the first lasts (R399). -/
def capPulse (d : Nat) (again : Bool) (b : Block) : Block :=
  if again && b.cap.outEnd.isSome then b
  else b |> modCap (fun s => { s with outEnd := some (b.mono + gtNs (b.f (pg 0x30 0x044) 15 0 * 1000), d) }) |> capPins
/-- R399. -/
def execTrigOutEnd (s : State) : Out :=
  s.run fun b => match b.cap.outEnd with
    | some (t, _) => if t ≤ b.mono then capPins (modCap (fun s => { s with outEnd := none }) b) else b
    | none => b
/-- FLAGS that follow from the trigger (R405). -/
def trigFlags (g : CapTrig) : Nat := b01 g.gov * 64 + b01 (g.type = 8 && g.slot != 0xFE) * 32 + b01 (g.slot = 0xFE) * 16

/-! Completion (R400, R405, R406). -/

/-- A row as read back: input index, words. -/
structure CapRow where
  g : Nat
  flags : Nat
  x : List Int
deriving DecidableEq, Repr
/-- A channel's sample of a row counts in the measurements (R406). -/
def CapRow.used (w : CapRow) (c : Nat) : Bool := !w.flags.testBit c && !w.flags.testBit (16 + c)
/-- The rising crossings of a level, as positions in input samples from a start (R406). -/
def crossings (c : Nat) (dc : F64) (g0 : Nat) : List CapRow → List F64
  | w0 :: w1 :: l =>
    let x0 := fInt (nth w0.x c 0)
    let x1 := fInt (nth w1.x c 0)
    let rest := crossings c dc g0 (w1 :: l)
    if w0.used c && w1.used c && flt x0 dc && fle dc x1 then
      fadd (fInt (w0.g - g0 : Nat)) (fmul (fdiv (fsub dc x0) (fsub x1 x0)) (fInt (w1.g - w0.g : Nat))) :: rest
    else rest
  | _ => []
/-- The measurements of a channel: bytes 8–39 of its block (R406). With no row used the values are not stated. -/
def capMeasure (b : Block) (r : Nat × Nat) (c : Nat) (rows : List CapRow) : List Byte :=
  let xs := (rows.filter (·.used c)).map fun w => nth w.x c 0
  let n := xs.length
  if n = 0 then (freeBytes b 20) ++ zeros 12 else
  let dc := fdiv (xs.foldl (fun a x => fadd a (fInt x)) 0) (fInt n)
  let dev := xs.map fun x => fsub (fInt x) dc
  let rms := fsqrt (fdiv (dev.foldl (fun a d => fadd a (fmul d d)) 0) (fInt n))
  let peak := dev.foldl (fun a d => fmax a (fabs d)) 0
  let cr := crossings c dc (match rows with | w :: _ => w.g | [] => 0) rows
  let per := match cr with
    | p :: q :: l =>
      fdiv (fmul (fdiv (fsub ((q :: l).getLast?.getD q) p) (fInt (cr.length - 1 : Nat))) (fInt r.2)) (fInt r.1)
    | _ => 0
  let fr := if per = 0 then 0 else fdiv (fInt 1) per
  let w := fun (v : F64) => leBytes 4 (f32Of v).toNat
  w dc ++ w rms ++ w peak ++ leBytes 4 (pat 32 (xs.foldl min 0x7FFFFFFF)) ++ leBytes 4 (pat 32 (xs.foldl max (-0x80000000)))
    ++ w per ++ w fr ++ leBytes 4 n
/-- The index of logical row k from the trigger row's ordinal and the change points. -/
def rowIndex (s : CapDef) (c : CapCfg) (row0 k : Nat) : Nat :=
  let base := s.r0 + row0 * c.dec
  match s.chg with
  | [] => base + k * c.dec
  | (k1, d1, _) :: l =>
    if k < k1 then base + k * c.dec else
    let g1 := ceilDiv (base + k1 * c.dec) d1 * d1
    match l with
    | [] => g1 + (k - k1) * d1
    | (k2, d2, _) :: _ => if k < k2 then g1 + (k - k1) * d1 else ceilDiv (g1 + (k2 - k1) * d1) d2 * d2 + (k - k2) * d2
/-- The Stook of a definition as it ends: truncated or not, its rows those of the ring and the linear part so far. -/
def capFinish (d : Nat) (trunc : Bool) (b : Block) : Block :=
  let c := capCfg b d
  let s := b.cdef d
  match s.held with
  | none => b
  | some g =>
    let rb := rowBytes c
    let R := capR c s.rate
    let at_ := 0x40000000 + capOfs b d
    let body := at_ + 256 + 64 * c.nch
    let whole := s.ph == .recording
    let row0 := g.row - c.pre
    -- a row still in staging goes out first
    let b := match s.last with
      | some l => { b with ddr := writeBytes b.ddr (body + (if whole then R + s.lin - 1 else (s.rows - 1) % R) * rb) l }
      | none => b
    let total := if whole then R + s.lin else s.rows - row0
    let ring := row0 % R
    let addr := fun (k : Nat) => body + (if whole && R ≤ k then k else (ring + k) % R) * rb
    let raw := (List.range total).map fun k => readBytes b.ddr (addr k) rb
    let rows := raw.zipIdx.map fun (l, k) =>
      { g := rowIndex s c row0 k, flags := leAt l 0 4, x := (List.range c.nch).map fun i => sgn 32 (leAt l (4 + 4 * i) 4) : CapRow }
    let gaps := (rows.filter fun w => 65536 ≤ w.flags).length
    let flags := trigFlags g + b01 (rows.any fun w => w.flags % 65536 != 0) * 8 + b01 (gaps != 0) * 4 + b01 trunc * 2 + 1
    let len := 256 + 64 * c.nch + (if whole then total else R) * rb
    let post := total - c.pre
    let inRate := if s.rate.1 % s.rate.2 = 0 then s.rate.1 / s.rate.2 else Config.freeNat b.freeCtr % 2 ^ 32
    let t0 := capInst b s.rate (nth c.chans 0 0) (rowIndex s c row0 0)
    let chg := s.chg.flatMap fun e => leBytes 4 e.1 ++ leBytes 2 e.2.1 ++ [BitVec.ofNat 8 e.2.2, 0]
    let blocks := (List.range c.nch).flatMap fun i =>
      let ch := nth c.chans i 0
      let gn := nth g.gains i (0, 0)
      padTo 64 (leBytes 2 ch ++ [BitVec.ofNat 8 (b01 (16 ≤ ch)), BitVec.ofNat 8 gn.1] ++ leBytes 4 gn.2.toNat ++ capMeasure b s.rate i rows)
    let head := padTo 256 (leBytes 4 0x53544B31 ++ [1, BitVec.ofNat 8 d, BitVec.ofNat 8 c.nch, BitVec.ofNat 8 flags]
      ++ leBytes 4 (s.seq.getD 0) ++ leBytes 4 (capExtent c) ++ leBytes 4 len ++ leBytes 4 rb ++ leBytes 4 c.pre ++ leBytes 4 post
      ++ leBytes 4 R ++ leBytes 4 ring ++ leBytes 4 c.dec ++ leBytes 4 inRate ++ fullForm g.t ++ fullForm t0
      ++ [BitVec.ofNat 8 g.slot, BitVec.ofNat 8 g.type] ++ leBytes 2 g.frac ++ leBytes 4 g.index ++ leBytes 2 s.mask ++ leBytes 2 s.retrig
      ++ shortForm s.retrigAt ++ leBytes 2 s.chg.length ++ padTo 16 chg ++ leBytes 4 gaps ++ [BitVec.ofNat 8 g.tq])
    let b := { b with ddr := writeBytes (writeBytes b.ddr at_ head) (at_ + 256) blocks } |> usedFreeN 20
    let crc := crc32c (readBytes b.ddr at_ len)
    let x : CapExport := { defn := d, area := c.area, seq := s.seq.getD 0, ofs := capOfs b d, len := len, t := g.t, type := g.type,
                           flags := flags, post := post }
    { b with ddr := writeBytes b.ddr (at_ + 128) (leBytes 4 crc) }
      |> capFreeExt d s.seq |> wn (capAddr d + 196) (s.seq.getD 0) |> cnt (capCnt 0) |> cntBy (capCnt 8) gaps
      |> onlyIf trunc (fun b => b |> cnt (capCnt 1) |> irq 0x30 2)
      |> irq 0x30 1 |> stookNotice x 2 |> onlyIf (b.t (pg 0x30 0x040) 1) (thrRaise 0x0C b.now 0)
      |> onlyIf c.export_ (modCap fun s => { s with queue := s.queue ++ [x] })
/-- Hold-off starts (R400). -/
def capHold (d : Nat) (b : Block) : Block :=
  let c := capCfg b d
  modDef d (fun s =>
    { ph := .hold, nx := s.nx, rate := s.rate, lock := s.lock, met := s.met, holdEnd := b.now + gtMs c.hold, holdN := c.hold }) b
/-- A Stook or an armed definition ends early; a Stook that an accepted trigger began ends TRUNCATED (R402, R411). The
cause as in record 0x600, none for an uneven rate. -/
def capCut (d : Nat) (cause : Option Nat) (b : Block) : Block :=
  let s := b.cdef d
  if !s.live then b
  else if s.held.isSome then
    let c := capFinish d true b
    match cause with
    | some k => evr 0x600 d k c
    | none => c
  else capFreeExt d none b
/-- The record is complete (R400). -/
def capComplete (d : Nat) (b : Block) : Block := b |> capFinish d false |> capHold d

/-! Triggers (R394, R395, R397). -/

/-- What a trigger brings to its judgement. -/
structure TrigIn where
  t : Gt
  rank : Nat
  slot : Nat
  type : Nat
  frac : Nat := 0
  index : Nat := 0xFFFFFFFF
deriving DecidableEq, Repr
/-- GAIN and UNIT of a channel now (R406). -/
def capUnit (b : Block) (ch : Nat) : Nat × Word :=
  if ch < 16 then
    let sh := wShift b ch 4 0 + wShift b ch 12 8 + wShift b ch 20 16
    (fld (b.chan ch).ctl 9 8, f32 (((flQ 3125 100000000).div (flI (b.chan ch).gain)).mul ((flI (2 ^ sh : Nat)).div (flI (2 ^ 59 : Nat)))))
  else (0, f32 (flI 1))
/-- The trigger commits: the newest row is the first of the linear part (R397). -/
def capCommitTrig (d : Nat) (b : Block) : Block :=
  let c := capCfg b d
  let b := modDef d (fun s => { s with ph := .recording, lin := 1 }) b
  if c.post ≤ capL c (b.cdef d).rate + 1 then capComplete d b else b
/-- A trigger is accepted (R397, R399, R407). -/
def capAccept (d : Nat) (x : TrigIn) (row : Nat) (b : Block) : Block :=
  let c := capCfg b d
  let old := b.cdef d
  let g : CapTrig := { t := x.t, rank := x.rank, slot := x.slot, type := x.type, frac := x.frac, index := x.index % 2 ^ 32,
                       gov := modeAt b x.t, tq := tqAt b x.t, row := row, gains := c.chans.map (capUnit b) }
  let bit := if x.slot = 0xFE then 32 else 2 ^ x.slot
  let same := match old.held with | some h => decide (h.t = x.t) | none => false
  let b := match old.seq with
    | some _ => b
    | none => b |> modDef d (fun s => { s with seq := some b.cap.seq }) |> modCap fun s => { s with seq := (s.seq + 1) % 2 ^ 32 }
  let b := modDef d (fun s => { s with held := some g, mask := if same then s.mask ||| bit else bit }) b
  let e : CapExport := { defn := d, area := c.area, seq := (b.cdef d).seq.getD 0, ofs := capOfs b d, len := 0, t := x.t, type := x.type,
                         flags := trigFlags g, post := 0 }
  b |> irq 0x30 0 |> stookNotice e 1 |> onlyIf c.trigOut (capPulse d old.held.isSome)
    |> onlyIf (c.partnerOut && b.member && !old.told) (fun b => b |> plSend (.trigger d x.t) |> modDef d (fun s => { s with told := true }))
    |> fun b => if row + capL c old.rate + 1 ≤ (b.cdef d).rows then capCommitTrig d b else b
/-- A trigger is judged (R397, R400, R404). -/
def capJudge (d : Nat) (x : TrigIn) (b : Block) : Block :=
  let c := capCfg b d
  let s := b.cdef d
  match s.ph with
  | .off => b
  | .stopped => b
  | .uneven => b
  | .hold => if c.holdMode = 1 && 0 < s.holdN then b |> cnt (capCnt 4) |> modDef d (fun s => { s with holdN := s.holdN - 1 }) else b
  | .wait => cnt (capCnt 5) b
  | .recording =>
    b |> cnt (capCnt 6) |> modDef d fun s => { s with
      retrig := min (s.retrig + 1) 65535, retrigAt := if s.retrig = 0 then x.t else s.retrigAt }
  | .armed =>
    let g := rowFrom c (capFirst b s.rate (nth c.chans 0 0) x.t)
    let k := (g - s.r0) / c.dec
    if g < s.r0 || k < c.pre then cnt (capCnt 2) b
    else if k + capL c s.rate + 1 < s.rows then cnt (capCnt 3) b
    else match s.held with
    | none => capAccept d x k b
    | some h =>
      if x.t < h.t || (x.t = h.t && x.rank < h.rank) then capAccept d x k b
      else
        b |> cnt (capCnt 6)
          |> onlyIf (x.t = h.t) (modDef d fun s => { s with mask := s.mask ||| (if x.slot = 0xFE then 32 else 2 ^ x.slot) })
/-- ⌈256 × num / den⌉ of a crossing, from 1 to 256 (R395). -/
def linFrac (num den : Int) : Nat :=
  let n := if den < 0 then -num else num
  max 1 (min 256 (ceilDiv (256 * n.toNat) den.natAbs))
/-- The Lagrange cubic through four samples at u = −1, 0, 1, 2, at i / 256 (R395). -/
def lagrange (x0 x1 x2 x3 : Int) (i : Nat) : F64 :=
  let u := fQ i (256 : Nat)
  let um := fsub u (fInt 1)
  let up := fadd u (fInt 1)
  let u2 := fsub u (fInt 2)
  let w0 := fneg (fdiv (fmul (fmul u um) u2) (fInt 6))
  let w1 := fdiv (fmul (fmul up um) u2) (fInt 2)
  let w2 := fneg (fdiv (fmul (fmul up u) u2) (fInt 2))
  let w3 := fdiv (fmul (fmul up u) um) (fInt 6)
  fadd (fadd (fadd (fmul w0 (fInt x0)) (fmul w1 (fInt x1))) (fmul w2 (fInt x2))) (fmul w3 (fInt x3))
/-- The cubic placement of a level crossing (R395). -/
def cubicFrac (a x0 x1 x2 x3 : Int) : Nat :=
  let hit := fun (i : Nat) => let p := lagrange x0 x1 x2 x3 i; if x1 < x2 then fle (fInt a) p else fle p (fInt a)
  (((List.range 256).map (· + 1)).find? hit).getD 256
/-- A waveform slot at sample m: its placement where it fires, and its lock (R394). -/
def slotFires (q : CapSlot) (lock : Nat) (x : Nat → Option Int) (m : Nat) : Option Nat × Nat :=
  match q.type with
  | 1 =>
    match x m with
    | none => (none, lock)
    | some x1 =>
      let lk := if (lock = 1 && x1 ≤ q.a - q.hyst) || (lock = 2 && q.a + q.hyst ≤ x1) then 0 else lock
      match x (m - 1) with
      | none => (none, lk)
      | some x0 =>
        let rise := decide (x0 < q.a ∧ q.a ≤ x1) && q.edge != 1
        let fall := decide (q.a < x0 ∧ x1 ≤ q.a) && q.edge != 0
        if lk != 0 || !(rise || fall) then (none, lk) else
        let i := match q.cubic, x (m - 2), x (m + 1) with
          | true, some y0, some y3 => cubicFrac q.a y0 x0 x1 y3
          | _, _, _ => linFrac (q.a - x0) (x1 - x0)
        (some i, if rise then 1 else 2)
  | 2 =>
    match x m, x (m - q.num) with
    | some x1, some y1 =>
      let s1 := x1 - y1
      let lk := if (s1.natAbs : Int) < q.a - q.hyst then 0 else lock
      match x (m - 1), x (m - 1 - q.num) with
      | some x0, some y0 =>
        let s0 := x0 - y0
        if lk = 0 && decide ((s0.natAbs : Int) < q.a ∧ q.a ≤ (s1.natAbs : Int)) then
          (some (linFrac ((if s1 < 0 then -q.a else q.a) - s0) (s1 - s0)), 1)
        else (none, lk)
      | _, _ => (none, lk)
    | _, _ => (none, lock)
  | 3 =>
    match x m with
    | none => (none, lock)
    | some x1 =>
      let lk := if q.a + q.hyst ≤ x1 && x1 ≤ q.b - q.hyst then 0 else lock
      match x (m - 1) with
      | none => (none, lk)
      | some x0 =>
        if lk = 0 && decide (q.a ≤ x0 ∧ x0 ≤ q.b) && decide (x1 < q.a ∨ q.b < x1) then
          (some (linFrac ((if x1 < q.a then q.a else q.b) - x0) (x1 - x0)), 1)
        else (none, lk)
  | _ => (none, lock)
/-- A waveform slot judges at input index n; a cubic slot judges the sample before. -/
def slotSample (d n i : Nat) (b : Block) : Block :=
  let c := capCfg b d
  let s := b.cdef d
  match c.slots[i]? with
  | none => b
  | some q =>
    if q.type = 0 || 3 < q.type || n < 3 then b else
    let ch := nth c.chans q.ch 0
    let m := if q.type = 1 && q.cubic then n - 1 else n
    let (f, lk) := slotFires q (nth s.lock i 0) (capX b s.rate ch) m
    let b := modDef d (fun s => { s with lock := s.lock.set i lk }) b
    match f with
    | none => b
    | some k =>
      let add := if ch < 16 then k * s.rate.2 * 4000000 else rndNat (k * gtSec) (256 * s.rate.1)
      capJudge d { t := capInst b s.rate ch (m - 1) + add, rank := i, slot := i, type := q.type, frac := k, index := m - 1 } b
/-- Definitions whose slots of a type and selection see an event; each such slot in order. -/
def slotsSee (type : Nat) (p : CapSlot → Bool) (t : Gt) (b : Block) : Block :=
  forEach (List.range 32) (fun d b =>
    let c := capCfg b d
    if !c.en then b else
    forEach (List.range 4) (fun i b => match c.slots[i]? with
      | some q => if q.type = type && p q then capJudge d { t := t, rank := i, slot := i, type := type } b else b
      | none => b) b) b
/-- EDGE selects a change to a state. -/
def edgeSees (e : Nat) (on : Bool) : Bool := e = 2 || (e = 0 && on) || (e = 1 && !on)
/-- A closed bale at the slots of type 4 (R394). -/
def slotsBale (x : BaleRef) (b : Block) : Block :=
  let secs := viewBale x.bytes
  forEach (List.range 32) (fun d b =>
    let c := capCfg b d
    if !c.en then b else
    forEach (List.range 4) (fun i b => match c.slots[i]? with
      | some q =>
        if q.type != 4 || q.rate != x.rate then b else
        match quantity b x.time secs (q.num % 8192) q.kind q.idx q.bit with
        | none => b
        | some v =>
          let meets := if q.kind = 4 then (v != 0) != (q.edge = 1) else if q.edge = 1 then fle v q.aF else fle q.aF v
          let was := nth (b.cdef d).met i none
          let b := modDef d (fun s => { s with met := s.met.set i (some meets) }) b
          let fires := match was with
            | some w => if q.edge = 2 then w != meets else meets && !w
            | none => false
          if fires then capJudge d { t := x.time, rank := i, slot := i, type := 4 } b else b
      | none => b) b) b
/-- Capture works in Run and Idle (R503), its page not in reset. -/
def capRuns (b : Block) : Bool := b.up && !b.inReset 0x30
/-- R397: the next change of a source or ball, or else the next closed bale, meets the slots. -/
def execCaptureTrigger (s : State) : Out :=
  s.run fun b =>
    if !capRuns b then b else
    match b.cap.evs, b.gran.toCap with
    | e :: rest, _ =>
      b |> modCap (fun s => { s with evs := rest }) |> slotsSee e.kind (fun q => q.num = e.num && edgeSees q.edge e.on) e.t
    | [], x :: rest =>
      let b := modGran (fun g => { g with toCap := rest }) b
      if b.cap.taken.contains (x.rate, x.idx) then b
      else b |> modCap (fun s => { s with taken := (x.rate, x.idx) :: stillHeld b s.taken }) |> slotsBale x
    | [], [] => b
/-- A trigger message of the partner (R394). -/
def capPartner (t : Gt) (b : Block) : Block := if capRuns b then slotsSee 8 (fun _ => true) t b else b
/-- R394: an edge whose level lasts at least 50 ns, stamped to 1 ns. -/
def execTrigInEdge (rise : Bool) (widthNs : Nat) (s : State) : Out :=
  s.run fun b =>
    if !capRuns b || widthNs < 50 then b
    else b |> cnt (capCnt 11) |> slotsSee 7 (fun q => edgeSees q.edge rise) (b.now / 65536 * 65536)
/-- R394: host triggers. -/
def capHostTrig (v : Word) (b : Block) : Block :=
  forEach (those 32 fun d => bitAt v d && (capCfg b d).en)
    (fun d b => capJudge d { t := b.now, rank := 4, slot := 0xFE, type := 0 } b) b
/-- R394. -/
def execCapHostTrigger (ag : Agent) (v : Word) (s : State) : Out :=
  s.run (cmdGate ag 0x30 0x050 fun b => if b.up then capHostTrig v b else b)

/-! Samples and rows (R393, R396, R401, R402). -/

/-- The row of an input index (R393). -/
def capRowAt (b : Block) (c : CapCfg) (r : Nat × Nat) (n : Nat) : List Byte :=
  let ws := c.chans.map fun ch => capSamp b r ch n
  let gap := fun (w : Option WSamp) => match w with | some x => x.supp | none => true
  let hi := maskOf c.nch fun i => gap (nth ws i none)
  let lo := maskOf c.nch fun i => match nth ws i none with | some x => x.flag | none => false
  leBytes 2 lo ++ leBytes 2 hi ++ ws.flatMap fun w => leBytes 4 (match w with | some x => if x.supp then 0 else pat 32 x.v | none => 0)
/-- Bytes of Stooks queued or in progress for export (R408). -/
def capBacklog (b : Block) : Nat := sumN (b.cap.queue.map (·.len))
/-- A row enters staging; a row before it goes to memory. -/
def capPut (d : Nat) (l : List Byte) (b : Block) : Block :=
  let c := capCfg b d
  let s := b.cdef d
  let body := 0x40000000 + capOfs b d + 256 + 64 * c.nch
  let R := capR c s.rate
  let place := if s.ph == .recording then R + s.lin - 1 else (s.rows - 1) % R
  let b := match s.last with
    | some old => { b with ddr := writeBytes b.ddr (body + place * rowBytes c) old }
    | none => b
  b |> modDef d (fun s => { s with last := some l, rows := s.rows + 1 })
    |> modCap fun s => { s with fill := s.fill + rowBytes c, peak := max s.peak (s.fill + rowBytes c) }
/-- Decimation doubles where the definition is behind (R401). -/
def capBehind (d n : Nat) (b : Block) : Block :=
  let c := capCfg b d
  let s := b.cdef d
  let cause := if 0x100000 ≤ b.cap.fill then 1
    else if b.f (pg 0x30 0x060) 23 16 * 0x100000 ≤ capBacklog b then 2 else 0
  let soon := s.mul = 2 && (n - s.mulAt) * s.rate.2 * 10 < s.rate.1
  if !c.autoDbl || cause = 0 || 4 ≤ s.mul || s.mulTo.isSome || soon then b else
  let dd := c.dec * s.mul * 2
  modDef d (fun s => { s with mulTo := some ((n / dd + 1) * dd, 2 * s.mul, cause) }) b
/-- A change of decimation takes effect (R401). -/
def capDouble (d n : Nat) (b : Block) : Block :=
  let c := capCfg b d
  let s := b.cdef d
  match s.mulTo with
  | some (g, m, cause) =>
    if n < g then b else
    b |> modDef d (fun s => { s with
          mul := m, mulTo := none, mulAt := g, chg := s.chg ++ [(capR c s.rate + s.lin, c.dec * m, cause)] })
      |> cnt (capCnt 7) |> evr 0x601 d (c.dec * m)
  | none => b
/-- The last input index of a Stook (R397, R401). -/
def capEnd (b : Block) (d : Nat) : Nat :=
  let c := capCfg b d
  let s := b.cdef d
  s.r0 + (((s.held.map (·.row)).getD 0) + c.post - 1) * c.dec
/-- A row of a live definition (R396, R397, R402). -/
def capRow (d n : Nat) (b : Block) : Block :=
  let c := capCfg b d
  let b := if (b.cdef d).ph == .recording then capDouble d n b else b
  let s := b.cdef d
  if n < s.r0 || n % (c.dec * s.mul) != 0 then b
  else if 0x200000 < b.cap.fill + rowBytes c then
    let b := evr 0x605 d 0 b
    if s.held.isSome then b |> capCut d (some 3) |> capHold d
    else modDef d (fun s => { s with r0 := rowFrom c (n + 1), rows := 0, last := none }) b
  else
    let b := capPut d (capRowAt b c s.rate n) b
    match s.ph, s.held with
    | .armed, some g => if g.row + capL c s.rate + 1 ≤ (b.cdef d).rows then capCommitTrig d b else b
    | .recording, _ =>
      let b := modDef d (fun s => { s with lin := s.lin + 1 }) b
      let next := match s.mulTo with
        | some (g, _, _) => min g (n + c.dec * s.mul)
        | none => n + c.dec * s.mul
      if capEnd b d < next then capComplete d b else capBehind d n b
    | _, _ => b
/-- The input rate of a definition has changed or is no longer uniform: it is disarmed, and arms again as soon as the
rate is uniform (R391, record 0x604). -/
def capRateMoved (d : Nat) (b : Block) : Block :=
  b |> capCut d none |> modDef d (fun s => { s with nx := none }) |> capArm d
/-- An input sample of a definition: its row first, then the waveform slots. -/
def capSample (d n : Nat) (b : Block) : Block :=
  let b := modDef d (fun s => { s with nx := some (n + 1) }) b
  let b := if (b.cdef d).live then capRow d n b else b
  forEach [0, 1, 2, 3] (slotSample d n) b
/-- R392. -/
def execCaptureSample (defn : Fin 32) (drained : Nat) (s : State) : Out :=
  s.run fun b =>
    let d := defn.val
    let c := capCfg b d
    let st := b.cdef d
    let b := modCap (fun s => { s with fill := s.fill - drained }) b
    if !capRuns b || !c.en || st.ph == .off || st.ph == .stopped then b else
    match capRate b c with
    | none => if st.ph == .uneven then b else capRateMoved d b
    | some r =>
      if st.ph == .uneven then capArm d (modDef d (fun s => { s with nx := none }) b)
      else if r != st.rate then capRateMoved d b
      else
        let n := st.nx.getD (capNow b r (nth c.chans 0 0))
        let top := capNow b r (nth c.chans 0 0)
        -- a step of time leaves a gap or an overlap in the indices: the fill starts again
        if n + 65536 < top || top + 65536 < n then b |> capCut d none |> modDef d (fun s => { s with nx := none }) |> capArm d
        else if capAvail b c r n then capSample d n b else b

/-! Arming, stopping, committing, resets (R396, R400, R404, R411–R413). -/

/-- R413: bit d arms a definition in HOLD_MODE 2, or one that CAP_STOP disarmed. -/
def capArmBits (v : Word) (b : Block) : Block :=
  forEach (those 32 fun d => bitAt v d && (capCfg b d).en) (fun d b =>
    let s := b.cdef d
    if s.ph == .stopped || (s.ph == .hold && (capCfg b d).holdMode = 2) then capArm d b else b) b
/-- R400. -/
def execCapArm (ag : Agent) (v : Word) (s : State) : Out :=
  s.run (cmdGate ag 0x30 0x054 fun b => if b.up then capArmBits v b else b)
/-- R413: bit d ends the Stook TRUNCATED and disarms. -/
def capStopBits (v : Word) (b : Block) : Block :=
  forEach (those 32 fun d => bitAt v d && (b.cdef d).ph != .off) (fun d b =>
    b |> capCut d (some 0) |> modDef d fun s => { ph := .stopped, nx := s.nx, rate := s.rate, lock := s.lock, met := s.met }) b
/-- R413. -/
def execCapStop (ag : Agent) (v : Word) (s : State) : Out := s.run (cmdGate ag 0x30 0x058 (capStopBits v))
/-- A definition's hold-off has ended (R400). -/
def holdOver (b : Block) (d : Nat) : Bool :=
  let s := b.cdef d
  s.ph == .hold && (match (capCfg b d).holdMode with
    | 0 => decide (s.holdEnd ≤ b.now)
    | 1 => s.holdN = 0
    | _ => false)
/-- R400: the lowest definition whose hold-off has ended arms. -/
def execCaptureRearm (s : State) : Out :=
  s.run fun b =>
    if !capRuns b then b else
    match (those 32 (holdOver b)).head? with
    | some d => capArm d b
    | none => b
/-- R396: the lowest waiting definition that finds space arms. -/
def execCaptureArm (s : State) : Out :=
  s.run fun b =>
    if !capRuns b then b else
    match (those 32 fun d => let c := capCfg b d; (b.cdef d).ph == .wait && (areaFind b c.area (capExtent c)).isSome).head? with
    | some d => capArm d b
    | none => b
/-- R404: TAIL of a MODE 1 area moves to the start of an extent, or to HEAD. -/
def tailWrite (a : Nat) (v : Word) (b : Block) : Block :=
  let x := b.carea a
  if !areaStop b a || !(v.toNat = x.head || x.exts.any fun e => e.ofs = v.toNat) then err 0x30 0x26 b
  else modArea a (fun x => { x with exts := x.exts.dropWhile fun e => e.ofs != v.toNat }) b
/-- R404. -/
def execCapAreaTailWrite (ag : Agent) (area : Fin 4) (v : Word) (s : State) : Out :=
  s.run (cmdGate ag 0x30 (0x088 + 16 * area.val) (tailWrite area.val v))
/-- Writable bits of a definition's word. -/
def capMask (i : Nat) : Nat :=
  if i = 0 then 0x07FFFF8F
  else if i < 4 then 0xFFFFFFFF
  else if i < 12 then 0x03FF03FF
  else if i < 16 then 0
  else match i % 8 with
  | 0 => 0xFFFFEF0F
  | 1 => 0x00FFFFF8
  | 2 | 3 | 4 => 0xFFFFFFFF
  | _ => 0
/-- A slot is in order (R415). -/
def slotGood (c : CapCfg) (q : CapSlot) : Bool :=
  match q.type with
  | 0 => true
  | 1 => q.edge < 3 && q.ch < c.nch
  | 2 => 1 ≤ q.num && q.num ≤ 1024 && q.ch < c.nch
  | 3 => q.ch < c.nch
  | 4 => q.edge < 3 && q.num < 8192 && q.kind < 5 && q.bit < 16 && q.idx < 32
  | 5 => q.edge < 3 && q.num < 256
  | 6 => q.edge < 3 && q.num < 16
  | 7 => q.edge < 3
  | 8 => true
  | _ => false
/-- Why a definition is refused, 0 where it is not (R415). -/
def capCheck (b : Block) (c : CapCfg) : Nat :=
  if !c.en then 0 else
  if c.chans.any (527 < ·) then 0x21 else
  match capRate b c with
  | none => 0x21
  | some r =>
    if c.dec = 0 || 1024 < c.dec || 4194304 < c.pre || c.lateMs = 0 || 2000 < c.lateMs || c.holdMode = 3 || 16777216 < c.post
        || c.post ≤ capL c r then 0x22
    else if areaLen b c.area < capExtent c then 0x23
    else if c.slots.any fun q => !slotGood c q then 0x24
    else 0
/-- R412: the staged definition is checked and committed; an enabled one ends what it was doing and arms at once. -/
def capCommit (d : Nat) (v : Word) (b : Block) : Block :=
  let a := capAddr d
  let ws := stagedEntry b a 48 capMask v
  let c := capOf ws
  let code := capCheck b c
  if code != 0 then err 0x30 code b else
  b |> capCut d (some 2) |> wrList a ws |> dropStaged a 64
    |> modDef d (fun _ => {}) |> onlyIf (c.en && b.up) (capArm d)
/-- R412. -/
def execCapDefCommit (ag : Agent) (defn : Fin 32) (v : Word) (s : State) : Out := s.run (cmdGateL ag 0x30 0 (capCommit defn.val v))
/-- Every enabled definition arms (R396, R411). -/
def capStart (b : Block) : Block :=
  forEach (List.range 32) (fun d b => if (capCfg b d).en then capArm d b else b) b |> capPins
/-- Records in progress are abandoned without COMPLETE; the Stook in export starts again (R411). -/
def capAbandon (b : Block) : Block :=
  b |> forEach (List.range 32) (fun d b => b |> onlyIf (b.cdef d).live (capFreeExt d none) |> modDef d (fun _ => {}))
    |> modCap (fun s => { s with outEnd := none, fill := 0, peak := 0, evs := [], done := [],
                                 queue := s.queue.map fun x => { x with left := none } })
    |> capPins
/-- A cold reset: HEAD = TAIL = area start, CAP_SEQ 0, the queue empty (R411). -/
def capCold (b : Block) : Block :=
  b |> capAbandon |> modCap fun s => { s with areas := Vector.replicate 4 {}, seq := 0, queue := [], taken := [], waitAt := none }
/-- A CAP block reset: records in progress end TRUNCATED; definitions arm again after it (R411). -/
def capBlockReset (b : Block) : Block :=
  b |> forEach (List.range 32) (fun d b => b |> capCut d (some 1) |> modDef d (fun _ => {}))
    |> modCap (fun s => { s with outEnd := none, done := [], queue := s.queue.map fun x => { x with left := none } }) |> capPins

/-! Export (R408). -/

/-- Bytes of a Stook in one chunk. -/
def stookChunk : Nat := 262128
/-- The payload of chunk i (R408). -/
def stookPayload (b : Block) (x : CapExport) (i : Nat) : List Byte :=
  let o := i * stookChunk
  let part := readBytes b.ddr (0x40000000 + x.ofs + o) (min stookChunk (x.len - o))
  beBytes 4 x.seq ++ beBytes 4 o ++ beBytes 4 x.len ++ beBytes 4 (crc32c part) ++ part
/-- Ports of the export: with PRP on, port A stands for the pair. -/
def stookPorts (b : Block) : List Nat := those 4 fun p => b.t (pg 0x30 0x060) (28 + p) && !(prpOn b && p = 1)
/-- The chunks go to the class 4 queues. -/
def stookSend (x : CapExport) (b : Block) : Block :=
  let hl := b.f (pg 0x30 0x06C) 7 0
  let tmpl := ((List.range 32).flatMap fun i => leBytes 4 (b.n (pg 0x30 (0x100 + 4 * i)))).take hl
  let n := ceilDiv x.len stookChunk
  let ds := (List.range n).map fun i =>
    let pl := stookPayload b x i
    { src := .cap x.seq x.fails, addr := 0, len := pl.length, seg := b.f (pg 0x30 0x060) 15 0, hdrLen := hl, mode := 1, space := 1,
      hdrAddr := 0, baleTime := shortNat x.t, tag := 0, payload := pl, template := tmpl : Desc }
  let ps := stookPorts b
  b |> forEach ps (fun p => queueDescs p ds)
    |> modCap fun s => { s with queue := match s.queue with
        | q :: l => { q with left := some (n * ps.length) } :: l
        | [] => [] }
/-- The Stook at the head leaves the queue. -/
def stookGone (x : CapExport) (ev : Nat) (b : Block) : Block :=
  b |> modCap (fun s => { s with queue := s.queue.drop 1 }) |> stookNotice x ev
    |> (if ev = 3 then fun b => b |> cnt (capCnt 9) |> irq 0x30 3 else fun b => b |> cnt (capCnt 10) |> evr 0x602 x.seq 0)
/-- Descriptors of an attempt that nothing has been sent of leave the queues. -/
def stookDrop (x : CapExport) (b : Block) : Block :=
  forEach [0, 1, 2, 3] (fun p => modPort p fun s => { s with
    d4 := s.d4.filter fun d => !(d.src == .cap x.seq x.fails && !d.checked) }) b
/-- R408: a step of the export. -/
def stookStep (b : Block) : Block :=
  match b.cap.queue with
  | [] => b
  | x :: rest =>
    match x.left with
    | none =>
      if x.fails = 0 || (stookPorts b).any (fun p => (b.port p).link) then stookSend x b else b
    | some n =>
      let mine := b.cap.done.filter fun e => e.1 = x.seq && e.2.1 = x.fails
      let b := modCap (fun s => { s with done := [] }) b
      if mine.any fun e => e.2.2 != 0 then
        let b := stookDrop x b
        if 2 ≤ x.fails then stookGone x 4 b
        else modCap (fun s => { s with queue := { x with fails := x.fails + 1, left := none } :: rest }) b
      else if n ≤ mine.length then stookGone x 3 b
      else modCap (fun s => { s with queue := { x with left := some (n - mine.length) } :: rest }) b
/-- R408. -/
def execStookExport (s : State) : Out := s.run fun b => if capRuns b then stookStep b else b

/-! Live registers (R413). -/

/-- What a CAP register shows where it follows from the state. -/
def liveCap (b : Block) (o : Nat) : Option Nat :=
  match o with
  | 0x048 => some (maskOf 32 fun d => (b.cdef d).ph == .armed)
  | 0x04C => some (maskOf 32 fun d => (b.cdef d).held.isSome || (b.cdef d).ph == .recording)
  | 0x05C => some (ceilDiv b.cap.peak 4096 * 2 ^ 22 + b.cap.fill % 2 ^ 22)
  | 0x064 => some (b01 (!b.cap.queue.isEmpty) * 2 ^ 31 + ceilDiv (capBacklog b) 1024 % 2 ^ 28)
  | 0x068 => some b.cap.seq
  | _ =>
    if 0x080 ≤ o && o < 0x0C0 then
      let a := (o - 0x080) / 16
      match o % 16 with
      | 4 => some (b.carea a).head
      | 8 => some (b.carea a).tail
      | 12 => some (areaFree b a)
      | _ => none
    else none

end Sys2Proof.Machine
end

