-- ==== Sys2Proof/Machine/Gain.lean ====
section
/-! DEFINITION. Entries of the control outputs and the adaptation of their gains (R374, R375, R388). -/

namespace Sys2Proof.Machine
open Sys2Proof

/-- Address of a control-output entry. -/
def coAddr (c : Nat) : Nat := 0x580000 + 256 * c
/-- The bytes of an entry in force. -/
def coEntry (b : Block) (c : Nat) : List Byte := bytesInForce b (coAddr c) 26
/-- OCTL: EN, ADAPT, NTERM. -/
def coEn (l : List Byte) : Bool := (leAt l 0 2).testBit 15
/-- ADAPT. -/
def coAdapt (l : List Byte) : Bool := (leAt l 0 2).testBit 14
/-- NTERM, at most 8. -/
def coTerms (l : List Byte) : Nat := min (leAt l 0 2 % 16) 8
/-- TRK of term k. -/
def coTrk (l : List Byte) (k : Nat) : Nat := leAt l (40 + 8 * k) 2 % 4096
/-- Changes the control outputs. -/
def modGov (f : GovSt → GovSt) (b : Block) : Block := { b with gov := f b.gov }
/-- A control output. -/
def Block.co (b : Block) (c : Nat) : CoSt := (b.gov.outs[c]?).getD {}
/-- The gain of an output: G_INIT until it has changed. -/
def coGain (b : Block) (c : Nat) : F64 := (b.co c).g.getD (f32At (coEntry b c) 4)
/-- FLAGS of an output (R388). -/
def coFlags (s : CoSt) : Nat := b01 s.degraded * 8 + b01 s.clamped * 4 + b01 s.limRate * 2 + b01 s.bound
/-- Changes one output and shows it (R387, R388). -/
def modCo (c : Nat) (f : CoSt → CoSt) (b : Block) : Block :=
  if h : c < 16 then
    let b2 := modGov (fun g => { g with outs := g.outs.set c (f g.outs[c]) }) b
    b2 |> wr (coAddr c + 128) (f32Of (b2.co c).u) |> wr (coAddr c + 132) (f32Of (coGain b2 c)) |> wn (coAddr c + 136) (coFlags (b2.co c))
  else b
/-- GOV counter i. -/
def govCnt (i : Nat) : Nat := pg 0x2B (0x100 + 8 * i)
/-- OUT_RATE. -/
def outRate (b : Block) : Nat := b.f (pg 0x2B 0x040) 17 16
/-- The oldest bale time for which outputs may still be computed. -/
def govFrom (b : Block) : Gt :=
  let r := outRate b
  if !(b.rate r).on then b.now else
  (((b.gran.toCo.filter fun x => x.rate = r).map (·.time)) ++ ((b.rate r).opens.map (·.time))).foldl min (nextOpen b r)
/-- Of a list with the newest first, the entries later than a time and the one before them. -/
def keepFrom {α : Type} (t : α → Gt) (F : Gt) : List α → List α
  | [] => []
  | x :: l => if F < t x then x :: keepFrom t F l else [x]
/-- The time from which Govern has been in force at a time in Govern (R28, R29). -/
def govSince (b : Block) (T : Gt) : Gt := match (modeLog b).find? fun e => e.1 ≤ T with
  | some (te, true) => te
  | _ => 0
/-- G for a bale: G after every evaluation not later than it since Govern came into force (R375, R29). -/
def gainAt (b : Block) (c : Nat) (T : Gt) : F64 :=
  match (b.co c).gh.find? fun e => e.1 ≤ T with
  | some (t, g) => if govSince b T ≤ t then g else f32At (coEntry b c) 4
  | none => f32At (coEntry b c) 4
/-- A valid evaluation in Govern of the tracker that an output adapts by (R375). -/
def gainStep (c : Nat) (zeta : Int) (t : Gt) (b : Block) : Block :=
  let l := coEntry b c
  let g := gainAt b c t
  let zt := sgn 16 (leAt l 20 2)
  let db : Int := leAt l 22 2
  let st := f32At l 16
  let up := decide (zeta < zt - db)
  let down := decide (zt + db < zeta)
  let n := if up then fmin (fadd g st) (f32At l 12) else if down then fmax (fsub g st) (f32At l 8) else g
  if (b.co c).clamped || n = g then b else
  let atB := n = f32At l 12 || n = f32At l 8
  b |> modCo c (fun s => { s with g := some n, gh := keepFrom (·.1) (govFrom b) ((t, n) :: s.gh), bound := atB })
    |> cnt (govCnt 3) |> onlyIf (atB && !(b.co c).bound) (fun b => b |> evr 0x533 c (b01 (n = f32At l 12)) |> irq 0x2B 1)
/-- The outputs that adapt by a tracker. -/
def gainAdapt (trk : Nat) (zeta : Int) (t : Gt) (b : Block) : Block :=
  forEach ((List.range 16).filter fun c => let l := coEntry b c; coEn l && coAdapt l && leAt l 2 2 % 4096 = trk)
    (fun c => gainStep c zeta t) b

end Sys2Proof.Machine
end

