-- ==== Sys2Proof/Machine/Osc.lean ====
section
/-! DEFINITION. The oscillation watch: signals, band trackers, evaluation, adaptation, slices, trend (R328–R354). -/

namespace Sys2Proof.Machine
open Sys2Proof

/-! Tables (R331, R333, R351). -/

/-- Address of a signal entry. -/
def sigAddr (s : Nat) : Nat := 0x400000 + 64 * s
/-- Address of a tracker entry. -/
def trkAddr (t : Nat) : Nat := 0x410000 + 64 * t
/-- Address of a design. -/
def desAddr (d : Nat) : Nat := pg 0x28 (0x800 + 64 * d)
/-- A signal entry (R331). -/
structure SigCfg where
  en : Bool
  kind : Nat
  rate : Nat
  nsilo : Nat
  trend : Bool
  slotA : Nat
  phA : Nat
  phB : Nat
  slotB : Nat
  hp : Word
  scale : Word
  chan : Nat
  maxGap : Nat
deriving DecidableEq, Repr
/-- A signal entry from its five words. -/
def sigOf (ws : List Word) : SigCfg :=
  let l := bytesOfWords ws
  let c := leAt l 0 2
  { en := c.testBit 15, kind := bits c 14 12, rate := bits c 11 10, nsilo := bits c 9 8, trend := c.testBit 7,
    slotA := leAt l 2 2 % 8192, phA := leAt l 4 1 % 32, phB := leAt l 5 1 % 32, slotB := leAt l 6 2 % 8192,
    hp := w32 (leAt l 8 4), scale := w32 (leAt l 12 4), chan := leAt l 16 2 % 1024, maxGap := leAt l 18 1 }
/-- A tracker entry (R351). -/
structure TrkCfg where
  en : Bool
  design : Nat
  adapt : Bool
  tOn : Nat
  tOff : Nat
  fitN : Nat
  fitDec : Nat
  srcEn : Bool
  src : Nat
  aOn : Word
  aOff : Word
  zOn : Int
  zOff : Int
  aMin : Word
  aMax : Word
  pctl : Nat
  k : Nat
  step : Nat
deriving DecidableEq, Repr
/-- A tracker entry from its nine words. -/
def trkOf (ws : List Word) : TrkCfg :=
  let l := bytesOfWords ws
  let c := leAt l 0 2
  { en := c.testBit 15, design := bits c 14 10, adapt := c.testBit 9, tOn := c % 256, tOff := leAt l 2 1, fitN := leAt l 3 1,
    fitDec := leAt l 4 2 % 8192, srcEn := (leAt l 6 2).testBit 15, src := leAt l 6 2 % 256, aOn := w32 (leAt l 8 4),
    aOff := w32 (leAt l 12 4), zOn := sgn 16 (leAt l 16 2), zOff := sgn 16 (leAt l 18 2), aMin := w32 (leAt l 20 4),
    aMax := w32 (leAt l 24 4), pctl := leAt l 28 2 % 1024, k := leAt l 30 2 % 4096, step := leAt l 32 4 }
/-- The signal entry in force. -/
def sigCfg (b : Block) (s : Nat) : SigCfg := sigOf (inForce b (sigAddr s) 5)
/-- The tracker entry in force. -/
def trkCfg (b : Block) (t : Nat) : TrkCfg := trkOf (inForce b (trkAddr t) 9)
/-- The signal entry as committed last. -/
def sigNow (b : Block) (s : Nat) : SigCfg := sigOf (wordsNow b (sigAddr s) 5)
/-- The tracker entry as committed last. -/
def trkNow (b : Block) (t : Nat) : TrkCfg := trkOf (wordsNow b (trkAddr t) 9)
/-- A word of a design. -/
def desWord (b : Block) (d i : Nat) : Word := b.r (desAddr d + 4 * i)
/-- A coefficient of a design as a binary64. -/
def desF (b : Block) (d i : Nat) : F64 := f64Of32 (desWord b d i)
/-- FS of a design. -/
def desFs (b : Block) (d : Nat) : Nat := (desWord b d 11).toNat
/-- WDEC + 1 of a field channel. -/
def wdec1 (b : Block) (c : Nat) : Nat := b.f (pg 0x22 (0x100 + 4 * c)) 13 8 + 1
/-- SV source of an estimator channel. -/
def svOf (c : Nat) : Nat := (c - 16) / 8
/-- Whether a signal's samples come at fs per second (R328, R330). -/
def sigRateIs (b : Block) (c : SigCfg) (fs : Nat) : Bool :=
  if c.kind < 5 then fs = b.rateHz c.rate
  else if c.kind = 5 then fs * wdec1 b c.chan = 64000
  else fs = svRate b (svOf c.chan)
/-- The signal's state. -/
def Block.sig (b : Block) (s : Nat) : OscSig := mget {} b.osc.sigs s
/-- The tracker's state. -/
def Block.trk (b : Block) (t : Nat) : OscTrk := mget {} b.osc.trks t
/-- Changes the oscillation watch. -/
def modOsc (f : OscSt → OscSt) (b : Block) : Block := { b with osc := f b.osc }
/-- Changes a signal's state. -/
def modSig (s : Nat) (f : OscSig → OscSig) (b : Block) : Block := modOsc (fun o => { o with sigs := mput {} o.sigs s (f (mget {} o.sigs s)) }) b
/-- Changes a tracker's state. -/
def modTrk (t : Nat) (f : OscTrk → OscTrk) (b : Block) : Block := modOsc (fun o => { o with trks := mput {} o.trks t (f (mget {} o.trks t)) }) b
/-- OSC counter i. -/
def oscCnt (i : Nat) : Nat := pg 0x28 (0x600 + 8 * i)

/-! Notices, alarms, restarts (R337–R339). -/

/-- An input sample of a signal in a slice: valid, its value, index, instant, replayed mark, and whether its slice
overran. -/
structure OscIn where
  ok : Bool
  x : F64
  g : Nat
  t : Gt
  replayed : Bool
  late : Bool
deriving DecidableEq, Repr

/-- STATE and COUNT of a tracker, with ZETA: the word at byte 44 (R351). -/
def trkState (s : OscTrk) (settle : Bool) : Nat :=
  s.count * 2 ^ 24 + (b01 s.alarm * 128 + b01 s.valid * 64 + b01 s.on * 32 + b01 s.off * 16 + b01 s.bound * 8 + b01 settle) * 2 ^ 16
/-- The read-only word at byte 44 follows the state; ZETA stays. -/
def trkShow (t : Nat) (b : Block) : Block :=
  let s := b.trk t
  let a := trkAddr t + 44
  wn a (b.f a 15 0 + trkState s (s.n ≤ (desWord b (trkCfg b t).design 15).toNat % 65536)) b
/-- A DET_NOTICE of the watch (R339). -/
def oscNotice (t ev : Nat) (replayed : Bool) (b : Block) : Block :=
  if !b.t (pg 0x28 0x040) 0 then b else
  let s := b.trk t
  let a := trkAddr t
  let fl := b01 s.bound * 4 + b01 (modeAt b s.lt) * 2 + b01 replayed
  siloPush (24 + (sigCfg b (t / 8)).nsilo) (entry ([0x05, 0, 1, BitVec.ofNat 8 ev] ++ leBytes 2 t ++ [BitVec.ofNat 8 fl, 0]
    ++ shortForm s.lt ++ leBytes 4 s.lg ++ leBytes 4 (b.n (a + 36)) ++ leBytes 4 (b.n (a + 40)) ++ leBytes 2 (b.f (a + 44) 15 0)
    ++ leBytes 4 (b.n (a + 48)) ++ leBytes 4 s.fitSeq)) b
/-- A tracker drives the source that its entry names while ALARM and SRC_EN are 1; the source it leaves and the one it comes to
follow the trackers that drive them (R338). -/
def oscSource (t : Nat) (u : Gt) (replayed : Bool) (b : Block) : Block :=
  let c := trkCfg b t
  let s := b.trk t
  let want := if s.alarm && c.srcEn then some c.src else none
  if want = s.drive then b else
  let b := modTrk t (fun s => { s with drive := want }) b
  forEach (s.drive.toList ++ want.toList) (fun x b => srcReq 1 x (srcDriven b 1 x) u replayed b) b
/-- ALARM rises or falls (R337–R339); cause as in record 0x501. -/
def oscAlarm (t : Nat) (on : Bool) (ev cause : Nat) (u : Gt) (replayed : Bool) (b : Block) : Block :=
  b |> modTrk t (fun s => { s with alarm := on, count := 0 }) |> trkShow t
    |> (if on then evr 0x500 t (b.n (trkAddr t + 36)) else evr 0x501 t cause)
    |> cnt (oscCnt (if on then 1 else 2)) |> irq 0x28 (if on then 0 else 1)
    |> oscSource t u replayed |> oscNotice t ev replayed
    |> onlyIf (b.t (pg 0x28 0x040) 1) (thrRaise 0x08 u 0) |> onlyIf (!on) alarmEnded
/-- A tracker restarts (R332, R345): filters, envelope and fit points; ALARM, COUNT and the percentile state stay. -/
def trkRestart (t : Nat) (u : Gt) (g : Nat) (replayed : Bool) (b : Block) : Block :=
  b |> modTrk t (fun s => { s with y1 := 0, y2 := 0, u1 := 0, u2 := 0, v1 := 0, v2 := 0, zr := 0, zi := 0, prev := none, n := 0,
                                   clean := true, pts := [], fitSeq := 0, lt := u, lg := g, zh := [] })
    |> wn (trkAddr t + 56) 0 |> trkShow t |> cnt (oscCnt 4) |> oscNotice t 5 replayed
/-- ALARM of a tracker whose entry, or whose signal's, was committed with EN at 0 falls at once (R337). -/
def oscDisable (t : Nat) (b : Block) : Block :=
  let s := b.trk t
  let c := if s.valid then b |> modTrk t (fun s => { s with valid := false }) |> trkShow t else b
  if s.alarm then oscAlarm t false 6 3 s.lt false c else c
/-- The same for every tracker. -/
def oscDisables (b : Block) : Block :=
  forEach ((b.osc.trks.map (·.1)).filter fun t => !(trkNow b t).en || !(sigNow b (t / 8)).en) oscDisable b

/-! Evaluation (R333–R340). -/

/-- One biquad section in direct form I, coefficients from word i on. -/
def biquad (b : Block) (d i : Nat) (x x1 x2 v1 v2 : F64) : F64 :=
  let c := fun (k : Nat) => desF b d (i + k)
  fsub (fsub (fadd (fadd (fmul (c 0) x) (fmul (c 1) x1)) (fmul (c 2) x2)) (fmul (c 3) v1)) (fmul (c 4) v2)
/-- Σ L, Σ x L of fit points, newest first, over x = 0 … N − 1 from the oldest. -/
def fitSumsOf (pts : List FitPoint) : Int × Int :=
  (pts.reverse.zipIdx).foldl (fun a e => (a.1 + e.1.l, a.2 + e.2 * e.1.l)) (0, 0)
/-- σ of the latest N points (R335). -/
def fitSigma (pts : List FitPoint) (n fs dec : Nat) : F64 :=
  let (sy, sxy) := fitSumsOf pts
  let sx := n * (n - 1) / 2
  let sxx := (n - 1) * n * (2 * n - 1) / 6
  let num : Int := n * sxy - sx * sy
  let den : Int := (n * sxx : Nat) - (sx * sx : Nat)
  fdiv (fmul (fdiv (fInt num) (fInt den)) (fInt fs)) (fInt (dec * 2 ^ 24))
/-- Every sample in the span of the points was valid. -/
def spanValid : List FitPoint → Bool
  | [] => true
  | [p] => p.own
  | p :: l => p.since && spanValid l
/-- Q_L as programmed (R340). -/
def qlStart (c : TrkCfg) : Int :=
  fToInt 32 (fmul (fln (fdiv (fmul (f64Of32 c.aOn) (fInt 256)) (fInt c.k))) (fInt (2 ^ 24)))
/-- A_ON_EFF, and whether it is at the upper or the lower bound (R340). -/
def aOnEff (c : TrkCfg) (adapting : Bool) (ql : Int) : F64 × Bool × Bool :=
  if !adapting then (f64Of32 c.aOn, false, false) else
  let v := fmul (fQ c.k 256) (fexp (fQ ql (2 ^ 24)))
  let lo := f64Of32 c.aMin
  let hi := f64Of32 c.aMax
  if flt hi v then (hi, true, true) else if flt v lo then (lo, true, false) else (v, false, false)
/-- A step of the percentile state (R340). -/
def qlStep (c : TrkCfg) (l ql : Int) : Int :=
  if ql < l then satS 32 (ql + rndHE (c.step * c.pctl : Nat) 1000)
  else if l < ql then satS 32 (ql - rndHE (c.step * (1000 - c.pctl) : Nat) 1000)
  else ql
/-- A trend record (R347). -/
def trendWrite (t : Nat) (s : OscTrk) (smp : OscIn) (b : Block) : Block :=
  let a := trkAddr t
  let head := b.n (pg 0x28 0x058)
  let base := 0x240000000 + b.f (pg 0x28 0x050) 31 20 * 2 ^ 20
  let len := b.f (pg 0x28 0x054) 12 0 * 2 ^ 20
  let fl := b01 (modeAt b smp.t) * 8 + b01 smp.replayed * 4 + b01 s.alarm * 2 + b01 s.valid
  let rec_ := shortForm smp.t ++ leBytes 2 t ++ [BitVec.ofNat 8 fl, BitVec.ofNat 8 (b.n (pg 0x28 0x05C))] ++ leBytes 2 (b.f (a + 44) 15 0)
    ++ leBytes 4 (b.n (a + 36)) ++ leBytes 4 (b.n (a + 40)) ++ leBytes 4 (b.n (a + 48)) ++ leBytes 4 s.fitSeq
  { b with ddr := writeBytes b.ddr (base + head) rec_ } |> wn (pg 0x28 0x058) (if len ≤ head + 32 then 0 else head + 32) |> cnt (oscCnt 6)
/-- VALID is lost or regained (R339, R350). -/
def validChange (t : Nat) (v : Bool) (replayed : Bool) (b : Block) : Block :=
  let first := quiet b.osc.invAt b
  let c := if v then b else b |> onlyIf first (irq 0x28 2) |> modOsc fun o => { o with invAt := some b.mono }
  oscNotice t (if v then 4 else 3) replayed c
/-- A tracker evaluates at a sample (R335–R340). -/
def trkEval (t : Nat) (sg : SigCfg) (smp : OscIn) (b : Block) : Block :=
  let c := trkCfg b t
  let s := b.trk t
  let d := c.design
  let fs := desFs b d
  let fc := (desWord b d 10).toNat
  let settle := (desWord b d 15).toNat % 65536
  let gov := modeAt b smp.t
  let amp := fdiv (fsqrt (fadd (fmul s.zr s.zr) (fmul s.zi s.zi))) (fsqrt (fInt 2))
  let L := fToInt 32 (fmul (fln amp) (fInt (2 ^ 24)))
  let point := decide (settle < s.n)
  let pts := if point then (⟨L, smp.ok, s.clean, flt 0 amp⟩ :: s.pts).take c.fitN else s.pts
  let ok := point && decide (pts.length = c.fitN) && spanValid pts && pts.all (·.pos) && s.prev.isSome && !smp.late && sigRateIs b sg fs
  let (pr, pi) := s.prev.getD (0, 0)
  let re := fadd (fmul s.zr pr) (fmul s.zi pi)
  let im := fsub (fmul s.zi pr) (fmul s.zr pi)
  let freq := fmul (fInt fs) (fadd (fQ fc (2 ^ 32)) (fdiv (fargRad re im) (fmul f2pi (fInt c.fitDec))))
  let sg_ := fitSigma pts c.fitN fs c.fitDec
  let om := fmul f2pi freq
  let zeta := fdiv (fneg sg_) (fsqrt (fadd (fmul sg_ sg_) (fmul om om)))
  let zi16 := fToInt 16 (fmul zeta (fInt 10000))
  let adapting := gov && c.adapt
  let ql := if !adapting || !s.adapting || s.lt < govSince b smp.t then qlStart c else s.ql
  let (aE, bnd, upper) := aOnEff c adapting ql
  let aOff := fdiv (fmul aE (f64Of32 c.aOff)) (f64Of32 c.aOn)
  let ten := fQ 1 10000
  let inBand := fle (desF b d 12) freq && fle freq (desF b d 13)
  let on := fle aE amp && fle zeta (fmul (fInt c.zOn) ten) && inBand
  let offA := flt amp aOff
  let offZ := flt (fmul (fInt c.zOff) ten) zeta
  let off := offA || offZ || !inBand
  let n := if (if s.alarm then off else on) then s.count + 1 else 0
  let live := s.alarm || ((trkNow b t).en && (sigNow b (t / 8)).en)
  let flip := ok && live && decide ((if s.alarm then c.tOff else c.tOn) ≤ n)
  let cnt' := if ok then n else s.count
  let alarm' := s.alarm != flip
  let freeze := alarm' || decide (0 < (if flip then 0 else cnt'))
  let ql' := if ok && adapting && !freeze then qlStep c L ql else ql
  let a := trkAddr t
  let b := b
    |> modTrk t (fun s => { s with pts := pts, clean := s.clean || point, prev := some (s.zr, s.zi), valid := ok,
                                   on := if ok then on else s.on, off := if ok then off else s.off, count := cnt', adapting := adapting,
                                   ql := ql', bound := bnd, fitSeq := s.fitSeq + 1, lt := smp.t, lg := smp.g })
    |> wr (a + 36) (f32Of amp) |> onlyIf ok (fun b => b |> wr (a + 40) (f32Of freq) |> wf (a + 44) 15 0 (pat 16 zi16))
    |> wr (a + 48) (f32Of aE) |> wn (a + 52) (pat 32 ql') |> wn (a + 56) (s.fitSeq + 1) |> trkShow t |> cnt (oscCnt 0)
    |> onlyIf (bnd && !s.bound) (evr 0x504 t (b01 upper))
    |> onlyIf (s.valid != ok) (validChange t ok smp.replayed)
    |> onlyIf flip (oscAlarm t alarm' (if alarm' then 1 else 2) (if offA then 0 else if offZ then 1 else 2) smp.t smp.replayed)
    |> oscSource t smp.t smp.replayed |> onlyIf (ok && gov) (gainAdapt t zi16 smp.t)
  onlyIf (b.t (pg 0x28 0x040) 3 && sg.trend) (trendWrite t (b.trk t) smp) b
/-- A tracker's entry takes force before a sample (R345): none where it stays. -/
def trkTakes (t : Nat) (u : Gt) (g : Nat) (replayed : Bool) : Nat → Block → Block
  | 0, b => b
  | n + 1, b => match forceAt b (trkAddr t) with
    | some w =>
      if w < u then
        let old := trkCfg b t
        let c := takeForce (trkAddr t) b
        let new := trkCfg c t
        let again := new.en && (!old.en || old.design != new.design || old.fitN != new.fitN || old.fitDec != new.fitDec)
        trkTakes t u g replayed n (onlyIf again (trkRestart t u g replayed) c)
      else b
    | none => b
/-- A tracker takes a detrended sample (R333–R335); what control outputs may still need of it is kept (R374). -/
def trkSample (keep : Gt) (t : Nat) (sg : SigCfg) (y : F64) (smp : OscIn) (b : Block) : Block :=
  let b := trkTakes t smp.t smp.g smp.replayed 64 b
  let c := trkCfg b t
  if !c.en then b else
  let s := b.trk t
  let d := c.design
  let u := biquad b d 0 y s.y1 s.y2 s.u1 s.u2
  let v := biquad b d 5 u s.u1 s.u2 s.v1 s.v2
  let fc := (desWord b d 10).toNat
  let ph : Nat := fc * (smp.g % 2 ^ 32) % 2 ^ 32
  let (sn, cs) := fsincos (fmul f2pi (fQ ph (2 ^ 32)))
  let e := desF b d 14
  let v2 := fmul (fInt 2) v
  let zr := fadd s.zr (fmul e (fsub (fmul v2 cs) s.zr))
  let zi := fadd s.zi (fmul e (fsub (fneg (fmul v2 sn)) s.zi))
  let b := modTrk t (fun s =>
    { s with y1 := y, y2 := s.y1, u1 := u, u2 := s.u1, v1 := v, v2 := s.v1, zr := zr, zi := zi, n := s.n + 1, clean := s.clean && smp.ok }) b
  (if c.fitDec != 0 && smp.g % c.fitDec = 0 then trkEval t sg smp b else trkShow t b)
    |> modTrk t fun s => { s with zh := keepFrom (·.1) keep ((smp.t, zr, zi, ph, s.valid) :: s.zh) }
/-- All eight trackers of a signal restart; those not enabled have nothing to restart. -/
def sigRestart (s : Nat) (u : Gt) (g : Nat) (replayed : Bool) (b : Block) : Block :=
  forEach (List.range 8) (fun k b => onlyIf (trkCfg b (8 * s + k)).en (trkRestart (8 * s + k) u g replayed) b) b
/-- The rate mismatch of a waveform signal: some enabled tracker's design serves another rate (R330). -/
def sigMismatch (b : Block) (s : Nat) (c : SigCfg) : Bool :=
  5 ≤ c.kind && (List.range 8).any fun k => let t := trkCfg b (8 * s + k); t.en && !sigRateIs b c (desFs b t.design)
/-- A signal takes an input sample (R332). -/
def sigSample (keep : Gt) (s : Nat) (c : SigCfg) (smp : OscIn) (b : Block) : Block :=
  let mm := sigMismatch b s c
  let was := (b.sig s).mismatch
  let b := if mm = was then b else
    b |> modSig s (fun x => { x with mismatch := mm }) |> evr 0x503 s (b01 mm) |> onlyIf mm (sigRestart s smp.t smp.g smp.replayed)
  let st := b.sig s
  let x := if smp.ok then smp.x else st.x
  let bad := if smp.ok then 0 else st.bad + 1
  let y := fmul (f64Of32 c.hp) (fsub (fadd st.y x) st.x)
  let long := decide (c.maxGap < bad)
  b |> modSig s (fun _ => { x := x, y := y, bad := bad, gap := long, mismatch := mm, seen := some smp.t })
    |> onlyIf (!smp.ok) (cnt (oscCnt 3))
    |> wn (sigAddr s + 20) (b01 smp.ok * 2 ^ 31 + b01 mm * 2 ^ 30 + min bad 255)
    |> onlyIf (long && !st.gap) (sigRestart s smp.t smp.g smp.replayed)
    |> forEach (List.range 8) fun k => trkSample keep (8 * s + k) c y smp

/-! Samples of a slice (R328–R330, R342). -/

/-- A bale as the watch takes it: its sections, or none where its ring position was reused. -/
structure OscBale where
  ref : BaleRef
  secs : Option (List SecView)
deriving DecidableEq, Repr
/-- A phasor as pu. -/
def puOf (p : Int × Int) : F64 × F64 := (fQ p.1 (2 ^ 28), fQ p.2 (2 ^ 28))
/-- A usable section of a signal (R329). -/
def sigSec (l : List SecView) (slot : Nat) : Option SecView :=
  (l.find? fun x => x.slot == slot).bind fun s => if s.good && !s.notDue then some s else none
/-- The value of a phasor-sourced signal (R328). -/
def sigValue (c : SigCfg) (l : List SecView) : Option F64 := do
  let a ← sigSec l c.slotA
  if c.kind = 2 then some (fmul (fInt a.freq) (fQ 1 1000000)) else
  let (x, y) := puOf (a.phasor c.phA)
  if c.kind = 0 then some (fsqrt (fadd (fmul x x) (fmul y y))) else
  let bb ← sigSec l c.slotB
  let (u, v) := puOf (bb.phasor c.phB)
  let re := fadd (fmul x u) (fmul y v)
  let im := fsub (fmul y u) (fmul x v)
  some (if c.kind = 1 then fargDeg re im else if c.kind = 3 then re else im)
/-- The kept W-path index of a field channel in slice j, where one is kept. -/
def wDue (b : Block) (c j : Nat) : Option Nat :=
  let d := wdec1 b c
  let n := ceilDiv (5 * j) d * d
  if n ≤ 5 * j + 4 then some n else none
/-- SV_LAG. -/
def svLag (b : Block) : Nat := b.f (pg 0x28 0x040) 23 16
/-- The sample index of an SV source in slice j, where one lies in it. -/
def svDue (b : Block) (v j : Nat) : Option Nat :=
  let f := svRate b v
  let k := j - svLag b
  let g := ceilDiv (k * f) 12800
  if g * 12800 < (k + 1) * f then some g else none
/-- C_j. -/
def cutOff (j : Nat) : Gt := (j + 1) * pStep
/-- The input of a signal in slice j (R328–R330, R342): none where it has none. -/
def sigInput (b : Block) (s j : Nat) (c : SigCfg) (bales : List OscBale) (late : Bool) : Option OscIn :=
  if c.kind < 5 then
    (bales.find? fun x => x.ref.rate = c.rate).map fun x =>
      let v := x.secs.bind (sigValue c)
      { ok := v.isSome, x := v.getD 0, g := x.ref.idx, t := x.ref.time, replayed := x.ref.replayed, late := late }
  else if c.kind = 5 then
    (wDue b c.chan j).map fun n =>
      let got : Option (Int × Bool) :=
        if b.leads then ((mget [] b.chain.wrec c.chan).find? fun w => w.g = n).map fun w => (w.v, !w.flag && !w.supp)
        else (b.pair.wq.find? fun e => e.1 = s && e.2.1 = n).map fun e => (e.2.2.1, e.2.2.2)
      { ok := (got.map (·.2)).getD false, x := fmul (fInt ((got.map (·.1)).getD 0)) (f64Of32 c.scale), g := n / wdec1 b c.chan,
        t := n * 1024000000 - gdWave b c.chan n, replayed := false, late := late }
  else
    let v := svOf c.chan
    (svDue b v j).map fun g =>
      let got := (mget [] b.chain.wrec c.chan).find? fun w => w.g = g && w.stamp < cutOff j
      let f := svRate b v
      { ok := (got.map fun w => !w.flag && !w.supp).getD false, x := fmul (fInt ((got.map (·.v)).getD 0)) (f64Of32 c.scale), g := g,
        t := mkGt (g / f) (instNs f (g % f)), replayed := false, late := late }
/-- A signal's entry takes force before its first sample under it (R345). -/
def sigTakes (s j : Nat) (bales : List OscBale) (late : Bool) : Nat → Block → Block
  | 0, b => b
  | n + 1, b => match forceAt b (sigAddr s) with
    | none => b
    | some w =>
      let new := sigOf (nextForce b (sigAddr s) 5)
      let old := sigCfg b s
      let smp := sigInput b s j new bales late
      let go := if new.en then (match smp with | some x => decide (w < x.t) | none => false)
        else (match sigInput b s j old bales late with | some x => decide (w < x.t) | none => !old.en)
      if !go then b else
      let c := takeForce (sigAddr s) b
      let again := new.en && (!old.en || old.kind != new.kind || old.rate != new.rate || old.slotA != new.slotA || old.slotB != new.slotB
        || old.phA != new.phA || old.phB != new.phB || old.chan != new.chan || old.hp != new.hp)
      let (u, g, r) := match smp with | some x => (x.t, x.g, x.replayed) | none => (w, 0, false)
      sigTakes s j bales late n (onlyIf again (fun b => b |> modSig s (fun _ => {}) |> sigRestart s u g r) c)
/-- A signal in slice j. -/
def sigSlice (keep : Gt) (j : Nat) (bales : List OscBale) (late : Bool) (s : Nat) (b : Block) : Block :=
  let b := sigTakes s j bales late 64 b
  let c := sigCfg b s
  if !c.en then b else
  match sigInput b s j c bales late with
  | none => b
  | some smp =>
    let b := if c.kind = 5 && b.mirrors then
        match wDue b c.chan j, (mget [] b.chain.wrec c.chan).find? fun w => some w.g = wDue b c.chan j with
        | some n, some w => plSend (.wpath s n w.v (!w.flag && !w.supp)) b
        | some n, none => plSend (.wpath s n 0 false) b
        | none, _ => b
      else b
    sigSample keep s c smp b
/-- Drops bales of a rate that the watch has taken already (R346), and takes the oldest of the rest. -/
def oscTake (r : Nat) (b : Block) : Option BaleRef × Block :=
  let done := fun (x : BaleRef) => x.rate = r && b.osc.taken.contains (x.rate, x.idx)
  let skip := (b.gran.toOsc.filter done).length
  let b := b |> modGran (fun g => { g with toOsc := g.toOsc.filter fun x => !done x }) |> cntBy (oscCnt 5) skip
  match b.gran.toOsc.find? fun x => x.rate = r with
  | some x => (some x, b |> modGran (fun g => { g with toOsc := g.toOsc.erase x })
      |> modOsc fun o => { o with taken := (r, x.idx) :: stillHeld b o.taken })
  | none => (none, b)
/-- The bales that a slice takes: the oldest of each rate. -/
def oscBales (bad : List (Nat × Nat)) (b : Block) : List OscBale × Block :=
  [0, 1, 2, 3].foldl (fun (a : List OscBale × Block) r =>
    match oscTake r a.2 with
    | (some x, c) =>
      if ((c.rate r).bale x.idx).isNone then (a.1 ++ [⟨x, none⟩], c) else
      let (l, c) := readBale x ((bad.filter fun e => e.1 = r).map (·.2)) c
      (a.1 ++ [⟨x, some l⟩], c)
    | (none, c) => (a.1, c)) ([], b)
/-- Signals that are enabled or have a commit that waits. -/
def sigsOn (b : Block) : List Nat :=
  those 512 fun s => (sigCfg b s).en || (forceAt b (sigAddr s)).isSome
/-- Slice j (R342). -/
def oscRun (j : Nat) (bad : List (Nat × Nat)) (b : Block) : Block :=
  let late := b.osc.late
  let b := forEach b.svIn svTake { b with svIn := [] }
  let b := b |> oscDisables |> modOsc fun o => { o with slice := some j, late := false }
  let (bales, b) := oscBales bad b
  let keep := govFrom b
  b |> forEach (sigsOn b) (sigSlice keep j bales late)
    |> modPair (fun p => { p with wq := p.wq.filter fun e => 5 * j + 4 < e.2.1 }) |> noteTime (pg 0x28 0x048) 17
/-- A kind 6 signal is enabled. -/
def hasSvSig (b : Block) : Bool := (List.range 512).any fun s => let c := sigCfg b s; c.en && c.kind = 6
/-- The standby has taken every mirrored sample of slice j (R342). -/
def wqHas (b : Block) (j : Nat) : Bool :=
  (List.range 512).all fun s =>
    let c := sigCfg b s
    !c.en || c.kind != 5 || (match wDue b c.chan j with
      | some n => b.pair.wq.any fun e => e.1 = s && n ≤ e.2.1
      | none => true)
/-- Slice j can start (R342). -/
def oscReady (b : Block) (j : Nat) : Bool :=
  if !b.leads then cutOff j ≤ b.mark && wqHas b j
  else
    let field := (List.range 16).any fun c => (b.chan c).on
    let grid := if field then (b.now - gtNs 12000) / 1024000000 else b.now / 1024000000
    let w := max grid (if field then b.chain.conv.elim 0 (· / 32) else 0)
    5 * j + 4 ≤ w && (!hasSvSig b || cutOff j ≤ b.mark)
/-- The slice that is due. -/
def oscDue (b : Block) : Option Nat :=
  let top := b.now * 12800 / gtSec
  match b.osc.slice with
  | some l => if oscReady b (l + 1) then some (if top ≤ l + 12800 then l + 1 else top - 2) else none
  | none => if oscReady b (top - 2) then some (top - 2) else none
/-- R342. -/
def execOscSlice (bad : List (Nat × Nat)) (s : State) : Out :=
  s.run fun b =>
    if !b.running || b.inReset 0x28 then b else
    match oscDue b with
    | some j => oscRun j bad b
    | none => b

/-! Commits (R329–R331, R351, R353). -/

/-- Writable bits of a signal entry's word. -/
def sigMask (i : Nat) : Nat := match i with
  | 0 => 0x1FFFFF80
  | 1 => 0x1FFF1F1F
  | 2 | 3 => 0xFFFFFFFF
  | 4 => 0x00FF03FF
  | _ => 0
/-- An envelope coefficient: above 0 and at most 1 (R333). -/
def envFits (w : Word) : Bool := flt 0 (f64Of32 w) && fle (f64Of32 w) (fInt 1)
/-- The design of a tracker serves its signal (R333). -/
def designFits (b : Block) (sg : SigCfg) (d : Nat) : Bool :=
  let fs := desFs b d
  let lo := desF b d 12
  let hi := desF b d 13
  let cap := fmul (fQ 4 10) (fInt fs)
  sigRateIs b sg fs && flt lo hi && envFits (desWord b d 14) &&
    (if sg.kind < 5 then fle (fQ 1 100) lo && fle hi cap else flt 0 lo && fle hi (fmin (fInt 1200) cap))
/-- A number strictly between 0 and 1. -/
def inUnit (w : Word) : Bool := flt 0 (f64Of32 w) && flt (f64Of32 w) (fInt 1)
/-- Why a signal entry is refused, 0 where it is not (R353). -/
def sigCheck (b : Block) (s : Nat) (c : SigCfg) : Nat :=
  let slotBad := fun (slot ph : Nat) (usePh : Bool) => match alwaysDue b c.rate slot with
    | none => true
    | some e => usePh && decide (e.nph ≤ ph)
  let wave := 5 ≤ c.kind
  let others := ((List.range 512).filter fun u => u != s && (sigNow b u).en && 5 ≤ (sigNow b u).kind).length
  if c.kind = 7 then 0x20
  else if !c.en then 0
  else if !wave && (slotBad c.slotA c.phA (c.kind != 2)
      || ((c.kind = 1 || c.kind = 3 || c.kind = 4) && slotBad c.slotB c.phB true)) then 0x21
  else if wave && (64 ≤ others || (if c.kind = 5 then 15 < c.chan || !([5, 8, 10, 16].contains (wdec1 b c.chan))
      else c.chan < 16 || 527 < c.chan)) then 0x22
  else if (List.range 8).any fun k => let t := trkNow b (8 * s + k); t.en && !designFits b c t.design then 0x23
  else if !inUnit c.hp || (wave && !posNormal c.scale) then 0x27
  else if c.maxGap = 0 then 0x06
  else 0
/-- R331: the staged signal entry is checked and committed. -/
def sigCommit (s : Nat) (v : Word) (b : Block) : Block :=
  let a := sigAddr s
  let ws := stagedEntry b a 5 sigMask v
  let code := sigCheck b s (sigOf ws)
  if code != 0 then err 0x28 code b else b |> commitLater b.mark a ws |> dropStaged a 16 |> oscDisables
/-- R331. -/
def execOscSignalCommit (ag : Agent) (sig : Fin 512) (v : Word) (s : State) : Out := s.run (cmdGateL ag 0x28 0 (sigCommit sig.val v))
/-- Writable bits of a tracker entry's word. -/
def trkMask (i : Nat) : Nat := match i with
  | 0 => 0xFFFFFEFF
  | 1 => 0x80FF1FFF
  | 7 => 0x0FFF03FF
  | _ => 0xFFFFFFFF
/-- Why a tracker entry is refused, 0 where it is not (R353). -/
def trkCheck (b : Block) (t : Nat) (c : TrkCfg) : Nat :=
  let sg := sigNow b (t / 8)
  let fs := desFs b c.design
  let w := c.fitN * c.fitDec
  if !c.en then 0
  else if !designFits b sg c.design then 0x23
  else if c.fitN < 16 || 64 < c.fitN || c.fitDec = 0 || 4096 < c.fitDec || c.tOn = 0 || c.tOff = 0 || w < 2 * fs || 60 * fs < w then 0x24
  else if flt (f64Of32 c.aOn) (f64Of32 c.aOff) || c.zOff < c.zOn || flt (f64Of32 c.aMax) (f64Of32 c.aMin) || c.pctl < 500 || 999 < c.pctl
      || c.k < 256 || c.step = 0 || 16777216 < c.step then 0x25
  else if c.srcEn && ownerNow b c.src != 1 then 0x26
  else if !posNormal c.aOn || !posNormal c.aOff || !nonNeg c.aMin || !nonNeg c.aMax then 0x27
  else 0
/-- R351: the staged tracker entry is checked and committed. -/
def trkCommit (t : Nat) (v : Word) (b : Block) : Block :=
  let a := trkAddr t
  let ws := stagedEntry b a 9 trkMask v
  let code := trkCheck b t (trkOf ws)
  if code != 0 then err 0x28 code b else b |> commitLater b.mark a ws |> dropStaged a 16 |> oscDisables
/-- R351. -/
def execOscTrackerCommit (ag : Agent) (trk : Fin 4096) (v : Word) (s : State) : Out := s.run (cmdGateL ag 0x28 0 (trkCommit trk.val v))
/-- An enabled tracker uses a design (R333). -/
def designUsed (b : Block) (d : Nat) : Bool := (List.range 4096).any fun t => let c := trkNow b t; c.en && c.design = d

/-! Frontier (R421), resets (R349), live registers (R350). -/

/-- The earliest instant that an enabled signal has not yet had evaluated: none where it has no samples to come. -/
def sigNext (b : Block) (s : Nat) : Option Gt :=
  let c := sigCfg b s
  let j := match b.osc.slice with | some j => j + 1 | none => b.now * 12800 / gtSec - 2
  if !c.en then none
  else if c.kind < 5 then
    if !(b.rate c.rate).on then none else
    let left := ((b.gran.toOsc.filter fun x => x.rate = c.rate).map (·.time)) ++ ((b.rate c.rate).opens.map (·.time))
    some (left.foldl min (nextOpen b c.rate))
  else if c.kind = 5 then
    let d := wdec1 b c.chan
    let n := ceilDiv (5 * j) d * d
    some (n * 1024000000 - gdWave b c.chan n)
  else
    let f := svRate b (svOf c.chan)
    let g := ceilDiv ((j - svLag b) * f) 12800
    some (mkGt (g / f) (instNs f (g % f)))
/-- The frontier of the oscillation watch (R421); none while no signal is enabled. -/
def oscFrontier (b : Block) : Option Gt :=
  match (List.range 512).filterMap (sigNext b) with
  | [] => none
  | t :: l => some (l.foldl min t - gtNs 1)
/-- Every tracker's state is lost, Q_L stands as programmed, and the commits that wait take force (R349). -/
def oscReset (b : Block) : Block :=
  let ts := b.osc.trks.map (·.1)
  let ss := b.osc.sigs.map (·.1)
  { b with later := b.later.filter fun e => !(0x400000 ≤ e.2.1 && e.2.1 < 0x450000) }
    |> modOsc (fun o => { o with sigs := [], trks := [], slice := none, late := false, invAt := none })
    |> forEach ts (fun t b => b |> wn (trkAddr t + 52) (pat 32 (qlStart (trkNow b t))) |> wn (trkAddr t + 56) 0 |> wn (trkAddr t + 44) 0)
    |> forEach ss (fun s => wn (sigAddr s + 20) 0)
/-- An OSC block reset. -/
def oscBlockReset (b : Block) : Block :=
  let al := (b.osc.trks.filterMap fun e => e.2.drive).eraseDups
  b |> oscReset |> forEach al fun x => srcReq 1 x false b.now false
/-- A new epoch of the trend ring (R348). -/
def trendEpoch (b : Block) : Block := b |> wn (pg 0x28 0x05C) ((b.n (pg 0x28 0x05C) + 1) % 256) |> wn (pg 0x28 0x058) 0
/-- What an OSC register shows where it follows from the state. -/
def liveOsc (b : Block) (o : Nat) : Option Nat :=
  let al := b.osc.trks.filter fun e => e.2.alarm
  let va := b.osc.trks.filter fun e => e.2.valid
  let word := fun (l : List (Nat × OscTrk)) (w : Nat) => maskOf 32 fun i => l.any fun e => e.1 = 32 * w + i
  if o = 0x044 then some (al.length * 2 ^ 16 + va.length)
  else if 0x100 ≤ o && o < 0x300 then some (word al ((o - 0x100) / 4))
  else if 0x300 ≤ o && o < 0x500 then some (word va ((o - 0x300) / 4))
  else none

end Sys2Proof.Machine
end

