-- ==== Sys2Proof/Machine/Isl.lean ====
section
/-! DEFINITION. The islanding detector: groups, criteria, declarations, slices, commits (R355–R364, R381–R383). -/

namespace Sys2Proof.Machine
open Sys2Proof

/-! The group table (R382). -/

/-- Address of a group entry. -/
def grpAddr (g : Nat) : Nat := 0x500000 + 2048 * g
/-- ISL_CTL. -/
def islCtl : Nat := pg 0x29 0x040
/-- A term of a topology expression (R360). -/
structure TopoTerm where
  start : Bool
  neg : Bool
  slot : Nat
  word : Nat
  bit : Nat
deriving DecidableEq, Repr
/-- A group entry. -/
structure GrpCfg where
  en : Bool
  tEn : Bool
  dEn : Bool
  fEn : Bool
  sEn : Bool
  mode : Nat
  minW : Nat
  nF : Nat
  nD : Nat
  fTh : Nat
  dTh : Nat
  sTh : Nat
  fClr : Nat
  dClr : Nat
  nClr : Nat
  nTerm : Nat
  srcEn : Bool
  src : Nat
  /-- slot, phasor, weight of the members in use -/
  members : List (Nat × Nat × Nat)
  terms : List TopoTerm
deriving DecidableEq, Repr
/-- A group entry from its 304 words. -/
def grpOf (ws : List Word) : GrpCfg :=
  let l := bytesOfWords (ws.take 7)
  let c := leAt l 0 2
  let mem := ((ws.drop 16).take 256).map fun w => (fld w 31 19, fld w 18 14, fld w 13 0)
  let n := leAt l 25 1
  { en := c.testBit 15, tEn := c.testBit 14, dEn := c.testBit 13, fEn := c.testBit 12, sEn := c.testBit 11, mode := bits c 10 9,
    minW := c % 256, nF := leAt l 2 1, nD := leAt l 3 1, fTh := leAt l 4 4, dTh := leAt l 8 4, sTh := leAt l 12 4,
    fClr := leAt l 16 4, dClr := leAt l 20 4, nClr := leAt l 24 1, nTerm := n, srcEn := (leAt l 26 2).testBit 15,
    src := leAt l 26 2 % 256, members := mem.filter fun m => m.2.2 != 0,
    terms := ((ws.drop 272).take (min n 32)).map fun w =>
      { start := bitAt w 31, neg := bitAt w 30, slot := fld w 28 16, word := fld w 7 5, bit := fld w 3 0 } }
/-- The group entry in force. -/
def grpCfg (b : Block) (g : Nat) : GrpCfg := grpOf (inForce b (grpAddr g) 304)
/-- The group entry as committed last. -/
def grpNow (b : Block) (g : Nat) : GrpCfg := grpOf (wordsNow b (grpAddr g) 304)
/-- RATE in force. -/
def islRate (b : Block) : Nat := fld (nth (inForce b islCtl 1) 0 0) 17 16
/-- REF_GROUP in force. -/
def islRef (b : Block) : Nat := fld (nth (inForce b islCtl 1) 0 0) 13 8
/-- A group's state. -/
def Block.grp (b : Block) (g : Nat) : IslGrp := mget {} b.isl.grps g
/-- Changes the islanding unit. -/
def modIsl (f : IslSt → IslSt) (b : Block) : Block := { b with isl := f b.isl }
/-- Changes a group's state and shows it in one step (R382). -/
def modGrp (g : Nat) (f : IslGrp → IslGrp) (b : Block) : Block :=
  let c := modIsl (fun i => { i with grps := mput {} i.grps g (f (mget {} i.grps g)) }) b
  let s := c.grp g
  let a := grpAddr g
  c |> wn (a + 28) (sarg s.df) |> wn (a + 32) (sarg s.dr) |> wn (a + 36) (sarg s.s)
    |> wn (a + 40) ((min s.cntClr 255) * 2 ^ 24 + (min s.cntD 255) * 2 ^ 16 + (min s.cntF 255) * 2 ^ 8 + b01 s.declared * 128
        + b01 s.rep * 64 + s.expr * 16 + s.crit) |> wn (a + 44) s.idx
/-- ISL counter i. -/
def islCnt (i : Nat) : Nat := pg 0x29 (0x100 + 8 * i)

/-! Evaluation (R355–R361). -/

/-- What a group makes of a bale: f, ROCOF and θ where it is valid, W_V and W_tot (R356). -/
structure GrpVal where
  val : Option (Int × Int × F64)
  wv : Nat
  wt : Nat
deriving DecidableEq, Repr
/-- The valid members of a group: weight, section, phasor (R355). -/
def grpMembers (c : GrpCfg) (secs : List SecView) : List (Nat × SecView × Int × Int) :=
  c.members.filterMap fun (slot, ph, w) => (secs.find? fun x => x.slot == slot).bind fun s =>
    let p := s.phasor ph
    if s.good && ph < s.nph && !(p.1 = 0 && p.2 = 0) then some (w, s, p.1, p.2) else none
/-- One member in the sum of unit phasors: w X / |X|. -/
def unitAdd (a : F64 × F64) (m : Nat × SecView × Int × Int) : F64 × F64 :=
  let x := fQ m.2.2.1 (2 ^ 28)
  let y := fQ m.2.2.2 (2 ^ 28)
  let r := fsqrt (fadd (fmul x x) (fmul y y))
  (fadd a.1 (fdiv (fmul (fInt m.1) x) r), fadd a.2 (fdiv (fmul (fInt m.1) y) r))
/-- R356. -/
def grpEval (c : GrpCfg) (secs : List SecView) : GrpVal :=
  let v := grpMembers c secs
  let wv := sumN (v.map (·.1))
  let wt := sumN (c.members.map fun m => m.2.2)
  let q := fun (f : SecView → Int) => rndHE (sumI (v.map fun m => m.1 * f m.2.1)) wv
  let s := v.foldl unitAdd (0, 0)
  { val := if wv = 0 || wv * 256 < c.minW * wt then none else some (q (·.freq), q (·.rocof), fargDeg s.1 s.2), wv := wv, wt := wt }
/-- A term's value: none where it is unknown (R360). -/
def termVal (secs : List SecView) (t : TopoTerm) : Option Bool :=
  (secs.find? fun x => x.slot == t.slot).bind fun s =>
    if s.good && t.word < s.ndg then some ((s.digital t.word).testBit t.bit != t.neg) else none
/-- A product of terms: 0 false, 1 true, 2 unknown. -/
def prodVal (l : List (Option Bool)) : Nat :=
  if l.contains (some false) then 0 else if l.contains none then 2 else 1
/-- The products of an expression, in order. -/
def products (secs : List SecView) : List TopoTerm → List (List (Option Bool))
  | [] => []
  | t :: l => match products secs l, l with
    | p :: ps, n :: _ => if n.start then [termVal secs t] :: p :: ps else (termVal secs t :: p) :: ps
    | ps, _ => [termVal secs t] :: ps
/-- The topology expression: 0 false, 1 true, 2 unknown. -/
def exprVal (secs : List SecView) (ts : List TopoTerm) : Nat :=
  let v := (products secs ts).map prodVal
  if v.contains 1 then 1 else if v.all (· == 0) then 0 else 2
/-- A difference in degrees wrapped to (−180, 180]. -/
def wrap180 (a : F64) : F64 :=
  if flt (fInt 180) a then fsub a (fInt 360) else if fle a (fInt (-180)) then fadd a (fInt 360) else a
/-- The islanding notices of a bale: event, cause, criterion. -/
abbrev IslEv := Nat × Nat × Nat
/-- What a DET_NOTICE of a group tells: bale, validity counts. -/
structure IslCtx where
  idx : Nat
  t : Gt
  replayed : Bool
  wv : Nat
  wt : Nat
deriving DecidableEq, Repr
/-- A DET_NOTICE of a group (R363). -/
def islNotice (g ev cause crit : Nat) (x : IslCtx) (b : Block) : Block :=
  let s := b.grp g
  let silo := if ev = 5 then 29 else 28
  if !b.t islCtl (if ev = 5 then 3 else 0) then b else
  siloPush silo (entry ([0x05, 0, 2, BitVec.ofNat 8 ev] ++ leBytes 2 g
    ++ [BitVec.ofNat 8 (b01 (modeAt b x.t) * 2 + b01 x.replayed), BitVec.ofNat 8 crit] ++ leBytes 4 x.idx ++ shortForm x.t
    ++ leBytes 4 (sarg s.df) ++ leBytes 4 (sarg s.dr) ++ leBytes 4 (sarg s.s)
    ++ leBytes 2 (if x.wt = 0 then 0 else min (x.wv * 65536 / x.wt) 0xFFFF) ++ [BitVec.ofNat 8 cause])) b
/-- A declaration or a clearing is told (R361, R363, R390). -/
def islTell (g : Nat) (on : Bool) (cause crit : Nat) (x : IslCtx) (b : Block) : Block :=
  let c := grpCfg b g
  b |> (if on then evr 0x510 (g * 256 + crit) x.idx else evr 0x511 (g * 256 + cause * 16 + crit) x.idx)
    |> irq 0x29 (if on then 0 else 1) |> cnt (islCnt (if on then 1 else 2)) |> islNotice g (if on then 1 else 2) cause crit x
    |> onlyIf (b.t islCtl 1) (thrRaise 0x09 x.t x.idx) |> onlyIf c.srcEn (srcReq 2 c.src on x.t x.replayed)
    |> onlyIf (!on) alarmEnded
/-- The level of a corroborating mode in one report (R359). -/
def corroborates (mode : Nat) (w : Bool × Bool × Bool) : Bool := match mode with
  | 0 => true
  | 1 => w.2.1
  | 2 => w.2.2
  | _ => w.2.1 || w.2.2
/-- The first criterion that is on: T, D, F, S; 0 none (R359, R361). -/
def critOn (c : GrpCfg) (s : IslGrp) : Nat :=
  if c.tEn && s.win.any (·.1) && s.win.any (corroborates c.mode) then 1
  else if c.dEn && c.nD ≤ s.cntD then 2
  else if c.fEn && c.nF ≤ s.cntF then 3
  else if c.sEn && c.sTh ≤ s.s.natAbs then 4
  else 0
/-- The state after a valid report (R357–R359). -/
def grpReport (c : GrpCfg) (expr : Nat) (v r : Int × Int × F64) (s : IslGrp) : IslGrp :=
  let df := v.1 - r.1
  let dr := v.2.1 - r.2.1
  let th := wrap180 (fsub v.2.2 r.2.2)
  let fv := decide (c.fTh ≤ df.natAbs)
  let dl := decide (c.dTh ≤ dr.natAbs)
  let slip := match s.p with
    | some p =>
      let d := ((fl (wrap180 (fsub th p))).mul (flI 1000)).toInt 64
      let base := if (s.s < 0 && 0 < d) || (d < 0 && 0 < s.s) then 0 else s.s
      satS 64 (base + d)
    | none => s.s
  { s with df := df, dr := dr, p := some th, s := slip, win := ((expr == 1, fv, dl) :: s.win).take 3, cntF := if fv then s.cntF + 1 else 0,
           cntD := if dl then s.cntD + 1 else 0 }
/-- R361: judges a group; the events it makes. -/
def grpJudge (g : Nat) (c : GrpCfg) (x : IslCtx) (b : Block) : Block :=
  let s := b.grp g
  if !s.declared then
    let k := critOn c s
    if k = 0 then b else
    b |> modGrp g (fun s => { s with declared := true, crit := k, idx := x.idx, cntClr := 0 }) |> islTell g true 0 k x
  else
    let quiet := s.df.natAbs < c.fClr && s.dr.natAbs < c.dClr && (!c.tEn || s.expr = 0)
    let n := if quiet then s.cntClr + 1 else 0
    if n = c.nClr then b |> modGrp g (fun s => { s with declared := false, cntClr := n }) |> islTell g false 0 s.crit x
    else modGrp g (fun s => { s with cntClr := n }) b
/-- A group's validity changes: its notice, and for the reference group its record (R363, R390). -/
def grpValid (g : Nat) (v isRef : Bool) (x : IslCtx) (b : Block) : Block :=
  let s := b.grp g
  let crit := if s.declared then s.crit else 0
  b |> modGrp g (fun s => { s with valid := v, rep := v })
    |> onlyIf (s.valid != v) (fun b => b |> onlyIf isRef (evr 0x512 (b01 v) 0) |> islNotice g (if v then 4 else 3) 0 crit x)
/-- A group that is not the reference, on a bale. -/
def grpRun (ref : Option (Int × Int × F64)) (secs : List SecView) (late : Bool) (x : IslCtx) (g : Nat) (b : Block) : Block :=
  let c := grpCfg b g
  let e := grpEval c secs
  let x := { x with wv := e.wv, wt := e.wt }
  let b := b |> cnt (islCnt 0) |> modGrp g (fun s => { s with expr := exprVal secs c.terms })
  match e.val, ref, late with
  | some v, some r, false =>
    let b := b |> modGrp g (fun s => grpReport c s.expr v r s) |> grpJudge g c x |> grpValid g true false x
    let s := b.grp g
    islNotice g 5 0 (if s.declared then s.crit else 0) x b
  | _, _, _ =>
    b |> cnt (islCnt 3) |> modGrp g (fun s => { s with win := ((false, false, false) :: s.win).take 3 }) |> grpValid g false false x
/-- A group restarts: counts and S cleared, a declaration ended with a cause (R361, R365). -/
def grpRestart (g cause : Nat) (x : IslCtx) (tell : Bool) (b : Block) : Block :=
  let s := b.grp g
  b |> onlyIf (s.declared && tell) (islTell g false cause s.crit x) |> modGrp g (fun s => { crit := s.crit, idx := s.idx })
/-- The context of a restart that no bale makes. -/
def nowCtx (b : Block) (g : Nat) : IslCtx := { idx := (b.grp g).idx, t := b.now, replayed := false, wv := 0, wt := 0 }
/-- Group entries and changes of ISL_CTL that take force: before a bale of the rate, and all whose rate is not enabled
(R365, R381). -/
def islTakes (bale : Option (Nat × Gt × IslCtx)) : Nat → Block → Block
  | 0, b => b
  | n + 1, b =>
    let ripe := b.later.find? fun e =>
      let isCtl := e.2.1 = islCtl
      let isGrp := 0x500000 ≤ e.2.1 && e.2.1 < 0x520000
      let next := if isCtl then fld (nth (nextForce b islCtl 1) 0 0) 17 16 else islRate b
      (isCtl || isGrp) && (!(b.rate next).on || (match bale with
        | some (r, T, _) => (r = next || r = islRate b) && decide (e.1 < T)
        | none => false))
    match ripe with
    | none => b
    | some e =>
      let ctx := fun (b : Block) (g : Nat) => match bale with | some (_, _, x) => x | none => nowCtx b g
      if e.2.1 = islCtl then
        let b := forEach (List.range 64) (fun g b => grpRestart g 2 (ctx b g) true b) b
        islTakes bale n (b |> takeForce islCtl |> modIsl fun i => { i with last := none })
      else
        let g := (e.2.1 - 0x500000) / 2048
        islTakes bale n (b |> grpRestart g 1 (ctx b g) true |> takeForce e.2.1)
/-- A bale of RATE: the reference group first, then the other enabled groups in ascending order (R362). -/
def islBale (x : BaleRef) (bad : List Nat) (b : Block) : Block :=
  let (secs, b) := readBale x bad b
  let late := b.isl.late
  let ref := islRef b
  let ctx : IslCtx := { idx := x.idx, t := x.time, replayed := x.replayed, wv := 0, wt := 0 }
  let rc := grpCfg b ref
  let re := grpEval rc secs
  let rv := if rc.en && !late then re.val else none
  let b := if !rc.en then b else
    b |> cnt (islCnt 0) |> modGrp ref (fun s => { s with expr := exprVal secs rc.terms })
      |> grpValid ref rv.isSome true { ctx with wv := re.wv, wt := re.wt }
  b |> forEach ((List.range 64).filter fun g => g != ref && (grpCfg b g).en) (grpRun rv secs late ctx)
    |> modIsl (fun i => { i with late := false, taken := (x.rate, x.idx) :: stillHeld b i.taken,
                                 last := some (match i.last with | some t => max t x.time | none => x.time) })
    |> noteTime (pg 0x29 0x058) 17
/-- Takes closed bales until one of RATE that has not been taken is evaluated. -/
def islNext (bad : List Nat) : Nat → Block → Block
  | 0, b => b
  | n + 1, b => match b.gran.toIsl with
    | [] => b
    | x :: rest =>
      let b := modGran (fun g => { g with toIsl := rest }) b
      let b := islTakes (some (x.rate, x.time, { idx := x.idx, t := x.time, replayed := x.replayed, wv := 0, wt := 0 })) 4096 b
      if x.rate = islRate b && !b.isl.taken.contains (x.rate, x.idx) then islBale x bad b else islNext bad n b
/-- R362. -/
def execIslSlice (bad : List Nat) (s : State) : Out :=
  s.run fun b => if !b.running || b.inReset 0x29 then b else islNext bad (b.gran.toIsl.length) b

/-! Commits (R365, R381–R383). -/

/-- Writable bits of a group entry's word. -/
def grpMask (i : Nat) : Nat :=
  if i = 0 then 0xFFFFFEFF else if i < 6 then 0xFFFFFFFF else if i = 6 then 0x80FFFFFF
  else if i < 16 then 0 else if i < 272 then 0xFFFFFFFF else if i < 304 then 0xDFFF00EF else 0
/-- Why a group entry is refused, 0 where it is not (R383). -/
def grpCheck (b : Block) (g : Nat) (c : GrpCfg) : Nat :=
  let w := b.r islCtl
  let rate := fld w 17 16
  let dueBad := fun (slot : Nat) (p : Stream → Bool) => match alwaysDue b rate slot with
    | none => true
    | some e => p e
  if !c.en then (if g = fld w 13 8 then 0x23 else 0)
  else if c.nF = 0 || c.nD = 0 || c.nClr = 0 || 32 < c.nTerm || c.fTh < 1000 || 10000000 < c.fTh || c.dTh < 1000 || 100000000 < c.dTh
      || c.sTh < 1000 || 3600000 < c.sTh || c.fTh < c.fClr || c.dTh < c.dClr then 0x20
  else if c.members.any (fun m => dueBad m.1 fun e => e.nph ≤ m.2.1) || c.terms.any (fun t => dueBad t.slot fun e => e.ndg ≤ t.word) then 0x21
  else if c.srcEn && (ownerNow b c.src != 2 || (List.range 64).any fun h =>
      let o := grpNow b h
      h != g && o.en && o.srcEn && o.src = c.src) then 0x22
  else if c.tEn && c.nTerm = 0 then 0x24
  else 0
/-- R382: the staged group entry is checked and committed. -/
def grpCommit (g : Nat) (v : Word) (b : Block) : Block :=
  let a := grpAddr g
  let ws := (stagedEntry b a 304 grpMask v).zipIdx.map fun (w, i) => if 7 ≤ i && i < 12 then b.r (a + 4 * i) else w
  let code := grpCheck b g (grpOf ws)
  if code != 0 then err 0x29 code b else b |> commitLater b.mark a ws |> dropStaged a 512 |> islTakes none 4096
/-- R382. -/
def execIslGroupCommit (ag : Agent) (grp : Fin 64) (v : Word) (s : State) : Out := s.run (cmdGateL ag 0x29 0 (grpCommit grp.val v))
/-- R381: a change of RATE or REF_GROUP takes effect like a commit; the other bits at once. -/
def islCtlWrite (v : Word) (b : Block) : Block :=
  let n := v &&& 0x33F0B#32
  let old := b.r islCtl
  if fld n 13 8 != fld old 13 8 && !(grpNow b (fld n 13 8)).en then err 0x29 0x23 b
  else if fld n 17 8 != fld old 17 8 then b |> commitLater b.mark islCtl [n] |> islTakes none 4096
  else wr islCtl n b
/-- R381. -/
def execIslCtlWrite (ag : Agent) (v : Word) (s : State) : Out := s.run (cmdGateL ag 0x29 0x040 (islCtlWrite v))

/-! Frontier (R421), resets (R380), live registers (R381). -/

/-- The frontier of a bale rate (R421). -/
def rateFrontier (b : Block) (r : Nat) : Gt :=
  let closed := ((b.rate r).bales.filter (·.closed)).map (·.time)
  max (closed.foldl max 0) (b.mark - gtMs (waitMs b r))
/-- The frontier of the islanding detector (R421). -/
def islFrontier (b : Block) : Gt :=
  let r := islRate b
  if !(b.rate r).on then b.now else
  match b.isl.last with
  | some t => t
  | none =>
    let left := ((b.rate r).opens.map (·.time)) ++ ((b.gran.toIsl.filter fun x => x.rate = r).map (·.time))
    match left with
    | [] => rateFrontier b r
    | t :: l => l.foldl min t - gtSec / b.rateHz r
/-- Every group's state is cleared with cause 3; the reset tells it where it is one of the block alone. -/
def islReset (block : Bool) (b : Block) : Block :=
  let left := b.later.filter fun e => !((0x500000 ≤ e.2.1 && e.2.1 < 0x520000) || e.2.1 = islCtl)
  let b := { b with later := if block then b.later else left }
  let b := forEach (b.isl.grps.map (·.1)) (fun g b =>
    let s := b.grp g
    let x := nowCtx b g
    let b := if s.declared && !block then b |> evr 0x511 (g * 256 + 0x30 + s.crit) s.idx |> irq 0x29 1 |> cnt (islCnt 2) else b
    grpRestart g 3 x block b) b
  modIsl (fun i => { i with last := none, late := false }) b
/-- What an ISL register shows where it follows from the state. -/
def liveIsl (b : Block) (o : Nat) : Option Nat :=
  let m := fun (p : IslGrp → Bool) => maskOf 64 fun g => p (b.grp g)
  match o with
  | 0x044 => some (b01 (b.grp (islRef b)).rep * 2 ^ 31 + ((List.range 64).filter fun g => (b.grp g).declared).length)
  | 0x048 => some (m (·.declared) % 2 ^ 32)
  | 0x04C => some (m (·.declared) / 2 ^ 32)
  | 0x050 => some (m (·.rep) % 2 ^ 32)
  | 0x054 => some (m (·.rep) / 2 ^ 32)
  | _ => none

end Sys2Proof.Machine
end

