-- ==== Sys2Proof/Machine/Gov.lean ====
section
/-! DEFINITION. Control outputs: computing, limits, publication on the setpoint port and as sampled values, hold and ramp,
entries (R374–R380, R387–R390). -/

namespace Sys2Proof.Machine
open Sys2Proof

/-! Computing (R374). -/

/-- s_k of a term, and whether its tracker has VALID (R374). -/
def coTerm (b : Block) (l : List Byte) (T : Gt) (k : Nat) : F64 × Bool :=
  let t := coTrk l k
  if !(trkCfg b t).en || !(sigCfg b (t / 8)).en then (0, false) else
  match ((b.trk t).zh.find? fun e => e.1 ≤ T) with
  | some (_, zr, zi, ph, true) =>
    let a := fadd (fmul f2pi (fQ ph (2 ^ 32 : Nat))) (fmul f2pi (fQ (leAt l (42 + 8 * k) 2) (2 ^ 16 : Nat)))
    let (sn, cs) := fsincos a
    (fsub (fmul zr cs) (fmul zi sn), true)
  | _ => (0, false)
/-- u_raw and DEGRADED of an output (R374). -/
def coRaw (b : Block) (c : Nat) (l : List Byte) (T : Gt) : F64 × Bool :=
  let v := (List.range (coTerms l)).map fun k => (fmul (f32At l (44 + 8 * k)) (coTerm b l T k).1, (coTerm b l T k).2)
  (fmul (gainAt b c T) (v.foldl (fun a e => fadd a e.1) 0), v.any fun e => !e.2)
/-- u for a bale of rate f in Govern: its value, LIMIT_RATE, LIMIT_MAG (R374). -/
def coLimit (l : List Byte) (f : Nat) (prev raw : F64) : F64 × Bool × Bool :=
  let st := fdiv (f32At l 28) (fInt f)
  let lo := fsub prev st
  let hi := fadd prev st
  let v := if flt raw lo then lo else if flt hi raw then hi else raw
  let m := f32At l 24
  let u := if flt m v then m else if flt v (fneg m) then fneg m else v
  (u, flt raw lo || flt hi raw, flt m v || flt v (fneg m))
/-- One output for a bale. -/
def coCompute (T : Gt) (f : Nat) (gov : Bool) (c : Nat) (b : Block) : Block :=
  let l := coEntry b c
  let old := b.co c
  let put := fun (u : F64) => ((T, u) :: old.us).take 4096
  if !gov then
    let left := old.gh.filter fun e => T < e.1
    modCo c (fun s => { s with
      u := 0, us := put 0, gh := left, g := (left.head?).map (·.2), bound := s.bound && !left.isEmpty,
      clamped := false, limRate := false, degraded := false }) b
  else if !coEn l then
    modCo c (fun s => { s with u := 0, us := put 0, clamped := false, limRate := false, degraded := false }) b
  else
    let (raw, deg) := coRaw b c l T
    let (u, lr, lm) := coLimit l f old.u raw
    b |> modCo c (fun s => { s with u := u, us := put u, clamped := lm, limRate := lr, degraded := deg })
      |> onlyIf (lr || lm) (cnt (govCnt 2))
/-- A publication for T is late by grid time alone: its bale closed late, or with ABORTED (R376). -/
def coLate (b : Block) (x : BaleRef) : Bool :=
  x.aborted || decide (b.n (pg 0x2B 0x048) < leAt x.bytes 36 4 + 1000)
/-- Output entries that take force: those committed before a bale time, and all where OUT_RATE is not enabled. A commit
restarts the output's gain at G_INIT. -/
def coTakes (bale : Option Gt) : Nat → Block → Block
  | 0, b => b
  | n + 1, b =>
    let ripe := b.later.find? fun e =>
      0x580000 ≤ e.2.1 && e.2.1 < 0x581000 &&
        (!(b.rate (outRate b)).on || (match bale with | some T => decide (e.1 < T) | none => false))
    match ripe with
    | some e =>
      let c := (e.2.1 - 0x580000) / 256
      coTakes bale n (b |> takeForce e.2.1 |> modCo c fun s => { s with g := none, gh := [], bound := false })
    | none => b
/-- The watch has taken the bale and every waveform sample that represents an instant not later than it (R374). -/
def coReady (b : Block) (x : BaleRef) : Bool :=
  !(b.gran.toOsc.any fun y => y.rate = x.rate && y.time = x.time) &&
  (List.range 512).all fun s =>
    (sigCfg b s).kind < 5 || (match sigNext b s with | some t => decide (x.time < t) | none => true)
/-- The closed bale that the outputs take next. -/
def coNext (b : Block) : Option BaleRef := b.gran.toCo.find? fun x =>
  x.rate = outRate b && !b.gov.taken.contains (x.rate, x.idx)
/-- The outputs take a bale. -/
def coBale (x : BaleRef) (b : Block) : Block :=
  let b := coTakes (some x.time) 4096 b
  let gov := modeAt b x.time
  let done := match b.gov.pubT with
    | some t => decide (x.time ≤ t)
    | none => false
  b |> modGran (fun g => { g with toCo := g.toCo.erase x })
    |> forEach (List.range 16) (coCompute x.time (b.rateHz x.rate) gov)
    |> modGov (fun g => { g with
        govern := gov, taken := (x.rate, x.idx) :: stillHeld b g.taken,
        wait := if done then g.wait else g.wait ++ [(x.time, x.idx, coLate b x)] })
/-- The control outputs work: state Run, page not in reset. -/
def govRuns (b : Block) : Bool := b.running && !b.inReset 0x2B
/-- R374: bales of other rates, and bales taken before, are no work of the outputs. -/
def execCoCompute (s : State) : Out :=
  s.run fun b =>
    if !govRuns b then b else
    let b := modGran (fun g => { g with
      toCo := g.toCo.filter fun x => x.rate = outRate b && !b.gov.taken.contains (x.rate, x.idx) }) b
    match coNext b with
    | some x => if coReady b x then coBale x b else b
    | none => b

/-! Publication (R376–R378). -/

/-- PUB_DELAY. -/
def pubDelay (b : Block) : Gt := gtNs (b.n (pg 0x2B 0x048) * 1000)
/-- The bale time whose publication comes next. -/
def pubNext (b : Block) : Option Gt :=
  let r := outRate b
  let s := b.rate r
  let f := b.rateHz r
  if !s.on then none else
  let base := max (b.gov.pubT.getD 0) (b.now - pubDelay b - gtSec)
  let known := s.bales.map (·.time) ++ b.gov.wait.map (·.1) ++ (b.gran.toCo.filter fun x => x.rate = r).map (·.time)
    ++ [skipTo f s.skips (nextInst f (max base s.from_))]
  (known.filter fun t => base < t).min?
/-- HEADER of a frame (R377). -/
def sptHeader (idx : Nat) (valid hold ramp late : Bool) : Byte :=
  BitVec.ofNat 8 (idx % 16 * 16 + b01 valid * 8 + b01 hold * 4 + b01 ramp * 2 + b01 late)
/-- A word of a frame (R377). -/
def sptWord (u fs : F64) : Int :=
  let v := (((fl u).div (fl fs)).mul (flI (2 ^ 23))).toInt 64
  clampI (-(2 ^ 23 - 1)) (2 ^ 23 - 1) v
/-- The 112 bits of a line from its header and words (R377). -/
def sptLine (h : Byte) (ws : List Int) : Nat :=
  let l := h :: ws.flatMap fun w => beBytes 3 (pat 24 w)
  ofBe (l ++ [BitVec.ofNat 8 (crcMsb 8 7 0 l)])
/-- The quality of a published value (R378). -/
def svQuality (hold late : Bool) : Nat := if hold || late then 0x83 else 0
/-- The savPdu of a publication (R378). -/
def svPdu (b : Block) (T : Gt) (vals : List F64) (q : Nat) : List Byte :=
  let id := nulStr ((List.range 16).flatMap fun i => leBytes 4 (b.n (pg 0x2B (0x280 + 4 * i))))
  let data := vals.flatMap fun u => beBytes 4 (pat 32 (((fl u).mul (flI (2 ^ 24))).toInt 32)) ++ beBytes 4 q
  let cntr := (instOf (b.rateHz (outRate b)) T).getD 0
  let asdu := berTlv 0x80 id ++ berTlv 0x82 (beBytes 2 cntr) ++ berTlv 0x83 (beBytes 4 (b.n (pg 0x2B 0x058)))
    ++ berTlv 0x85 [if b.tq < 0xF then 2 else 0] ++ berTlv 0x87 data
  berTlv 0x60 (berTlv 0x80 [1] ++ berTlv 0xA2 (berTlv 0x30 asdu))
/-- The template (R387). -/
def svTemplate (b : Block) : List Byte := (List.range 32).flatMap fun i => leBytes 4 (b.n (pg 0x2B (0x200 + 4 * i)))
/-- The Ethernet form (R378, SV_FMT 1). -/
def svEthernet (b : Block) (p : Nat) (pdu : List Byte) : List Byte :=
  let t := svTemplate b
  t.take (12 + 4 * (tagsOf (outerTpid b p) t).1) ++ [0x88, 0xBA] ++ beBytes 2 (b.f (pg 0x2B 0x054) 15 0)
    ++ beBytes 2 (8 + pdu.length) ++ [0, 0, 0, 0] ++ pdu
/-- The R-SV session message before its signature (R378, SV_FMT 2). -/
def svSession (b : Block) (use : Nat) (pdu : List Byte) : List Byte :=
  let body := [(0x82 : Byte), 0] ++ beBytes 2 (b.f (pg 0x2B 0x054) 15 0) ++ beBytes 2 (pdu.length + 2) ++ pdu
  [0x01, 0x40, 0xA2, 0x18, 0x80, 0x16] ++ beBytes 4 (body.length + 18) ++ beBytes 4 b.gov.spdu ++ beBytes 2 1
    ++ zeros 6 ++ [0, if use = 3 then 2 else 5] ++ beBytes 4 (b.keys.slot (b.f (pg 0x2B 0x054) 23 16)).keyid.toNat
    ++ beBytes 4 body.length ++ body
/-- The UDP form: template with lengths and checksums around a message. -/
def svUdp (b : Block) (p : Nat) (m : List Byte) : List Byte :=
  let t := svTemplate b
  let o := ipOfs (outerTpid b p) t
  let v4 := beAt t (o - 2) 2 = 0x0800
  let h := if v4 then o + 20 else o + 40
  let u := 8 + m.length
  let ip := if v4 then ipv4Header t o (20 + u) (beAt t (o + 4) 2) (beAt t (o + 6) 2) else splice (slice t o 40) 4 (beBytes 2 u)
  t.take o ++ ip ++ slice t h 4 ++ beBytes 2 u ++ beBytes 2 (udpSum v4 o t u m) ++ m
/-- Sends a publication as sampled values (R378); nothing goes out without a usable key. The port A of a PRP pair stands
for both. -/
def svPublish (T : Gt) (vals : List F64) (q : Nat) (b : Block) : Block :=
  let ctl := b.r (pg 0x2B 0x054)
  let ports := those 4 fun p => bitAt ctl (24 + p) && !(prpOn b && p = 1 && bitAt ctl 24)
  let pdu := svPdu b T vals q
  let key := fld ctl 23 16
  match fld ctl 31 30 with
  | 1 => forEach ports (fun p b => txSend p 2 .sv (svEthernet b p pdu) b) b
  | 2 =>
    let use := descUse (b.keys.slot key).desc
    if use != 3 && use != 4 then cnt (keyCnt 1) (cnt (keyCnt 0) b) else
    match keyUse key use b with
    | (none, c) => c
    | (some k, c) =>
      let m := svSession b use pdu
      let part := m.drop 2
      let tag := if use = 3 then Config.hmac256 k part else Config.gmac k (slice m 10 12) part
      let msg := m ++ [0x85, BitVec.ofNat 8 tag.length] ++ tag
      c |> modGov (fun g => { g with spdu := (g.spdu + 1) % 2 ^ 32 })
        |> forEach ports fun p b => txSend p 2 .sv (svUdp b p msg) b
  | _ => b
/-- A value towards 0 by a step (R379). -/
def rampStep (u st : F64) : F64 :=
  if fle (fabs u) st then 0 else if flt 0 u then fsub u st else fadd u st
/-- The page may publish: it runs, is enabled, and this member acts (R379, R69). -/
def publishes (b : Block) : Bool := govRuns b && b.enabled 0x2B && b.balls.inact && (b.decides || b.gov.hold)
/-- The publication for a bale time (R376). -/
def pubRun (T : Gt) (b : Block) : Block :=
  let r := outRate b
  let f := b.rateHz r
  let idx := baleIndex f T
  let gov := modeAt b T
  let hold := b.gov.hold && !b.decides
  let w := b.gov.wait.find? fun e => e.1 = T
  let told := b.gran.toCo.find? fun x => x.rate = r && x.time = T && !x.replayed
  let slow := w.isNone && (match told with | some x => !coLate b x | none => false)
  let late := !hold && (match w with | some e => e.2.2 | none => true)
  let vals := (List.range 16).map fun c =>
    let s := b.co c
    if !gov then 0
    else if hold then (if b.gov.ramp then rampStep s.sent (fdiv (f32At (coEntry b c) 36) (fInt f)) else s.sent)
    else if late then s.sent
    else ((s.us.find? fun e => e.1 = T).map (·.2)).getD 0
  let valid := gov && b.decides && !hold
  let head := sptHeader idx valid hold (hold && b.gov.ramp) late
  let lines := (List.range 4).map fun i =>
    sptLine head ((List.range 4).map fun k => sptWord (nth vals (4 * i + k) 0) (f32At (coEntry b (4 * i + k)) 32))
  let go := publishes b
  b |> onlyIf go (fun b => b
        |> forEach (List.range 16) (fun c => modCo c (fun s => { s with sent := nth vals c 0 }))
        |> forEach (List.range 16) (fun c => wr (pg 0x2B (0x080 + 4 * c)) (f32Of (nth vals c 0)))
        |> cnt (govCnt 0)
        |> onlyIf (b.t (pg 0x2B 0x040) 1) (emit (.spt lines (T + pubDelay b) (b.f (pg 0x2B 0x044) 9 0)))
        |> svPublish T vals (svQuality hold late)
        |> onlyIf late (fun b => b |> cnt (govCnt 1) |> evr 0x530 idx 0 |> irq 0x2B 0)
        |> onlyIf (!hold && slow) (setFault 0x2B))
    |> modGov (fun g => { g with pubT := some T, wait := g.wait.filter fun e => T < e.1 })
    |> forEach (List.range 16) (fun c => modCo c (fun s => { s with us := s.us.filter fun e => T < e.1 }))
/-- R376: the next publication, once its time has come. -/
def execCoPublish (s : State) : Out :=
  s.run fun b =>
    if !govRuns b || !b.time.valid then b else
    match pubNext b with
    | some T => if T + pubDelay b ≤ b.now then pubRun T b else b
    | none => b
/-- The outputs are held: this member has stopped being active (R379). -/
def govHold (b : Block) : Block :=
  b |> modGov (fun g => { g with hold := true, holdFrom := b.mono, ramp := false }) |> evr 0x531 0 0 |> irq 0x2B 2
/-- The hold ends: this member acts, or its partner does. -/
def govUnhold (b : Block) : Block := modGov (fun g => { g with hold := false, ramp := false }) b
/-- R379: GAP_HOLD has passed since the outputs were held, with no active member. -/
def execGapHoldExpire (s : State) : Out :=
  s.run fun b =>
    if !b.gov.hold || b.gov.ramp || b.mono < b.gov.holdFrom + gtMs (b.f (pg 0x2B 0x04C) 15 0) then b
    else b |> modGov (fun g => { g with ramp := true }) |> evr 0x532 0 0

/-! Entries (R388, R389). -/

/-- Writable bits of an entry's word. -/
def coMask (i : Nat) : Nat :=
  if i = 0 then 0x0FFFC00F else if i < 10 then 0xFFFFFFFF else if i % 2 = 0 then 0xFFFF0FFF else 0xFFFFFFFF
/-- A finite binary32 number. -/
def finite32 (w : Word) : Bool := match flOf32 w with
  | .fin _ _ _ => true
  | _ => false
/-- Why an entry is refused, 0 where it is not (R389). -/
def coCheck (b : Block) (l : List Byte) : Nat :=
  let w := fun (o : Nat) => w32 (leAt l o 4)
  if 8 < leAt l 0 2 % 16 then 0x06
  else if !coEn l then 0
  else if (List.range (coTerms l)).any (fun k => !(trkNow b (coTrk l k)).en) || (coAdapt l && !(trkNow b (leAt l 2 2 % 4096)).en) then 0x20
  else if !(finite32 (w 4) && finite32 (w 8) && finite32 (w 12)) || flt (f32At l 4) (f32At l 8) || flt (f32At l 12) (f32At l 4)
      || [16, 24, 28, 32, 36].any (fun o => !posNormal (w o)) || (List.range (coTerms l)).any (fun k => !finite32 (w (44 + 8 * k))) then 0x21
  else 0
/-- R388: the staged entry is checked and committed; it takes force at the first bale later than the watermark. -/
def coCommit (c : Nat) (v : Word) (b : Block) : Block :=
  let a := coAddr c
  let ws := stagedEntry b a 26 coMask v
  let code := coCheck b (bytesOfWords ws)
  if code != 0 then err 0x2B code b else b |> commitLater b.mark a ws |> dropStaged a 64 |> coTakes none 4096
/-- R388. -/
def execCoEntryCommit (ag : Agent) (out : Fin 16) (v : Word) (s : State) : Out := s.run (cmdGateL ag 0x2B 0 (coCommit out.val v))

/-! Resets (R380), live registers (R387). -/

/-- Outputs 0 and gains at G_INIT; the commits that wait take force. -/
def govReset (b : Block) : Block :=
  { b with later := b.later.filter fun e => !(0x580000 ≤ e.2.1 && e.2.1 < 0x581000) }
    |> modGov (fun g => { g with govern := false, wait := [], hold := false, ramp := false })
    |> forEach (List.range 16) (fun c => modCo c fun _ => {})
    |> forEach (List.range 16) (fun c => wn (pg 0x2B (0x080 + 4 * c)) 0)
/-- What a GOV register shows where it follows from the state. -/
def liveGov (b : Block) (o : Nat) : Option Nat :=
  if o = 0x050 then
    some (b01 (publishes b && (b.rate (outRate b)).on) * 2 ^ 31 + b01 b.gov.hold * 2 ^ 30 + b01 b.gov.ramp * 2 ^ 29
      + maskOf 16 fun c => (b.co c).degraded)
  else if 0x0C0 ≤ o && o < 0x100 then some (f32Of (coGain b ((o - 0x0C0) / 4))).toNat
  else none

end Sys2Proof.Machine
end

