-- ==== Sys2Proof/Machine/Thr.lean ====
section
/-! DEFINITION. The Thresher: tasks, events, ordered release, dispatch, commit, faults and spares (R417–R441). -/

namespace Sys2Proof.Machine
open Sys2Proof

/-! Tasks (R417–R419). -/

/-- THR counter i (R438). -/
def thrCnt (i : Nat) : Nat := pg 0x38 (0x200 + 8 * i)
/-- What a task holds. -/
def Block.task (b : Block) (t : Nat) : TaskSt := mget {} b.thr.tasks t
/-- Changes what a task holds. -/
def modTask (t : Nat) (f : TaskSt → TaskSt) (b : Block) : Block :=
  modThr (fun h => { h with tasks := mput {} h.tasks t (f (b.task t)) }) b
/-- The kinds of task that may name an event source (R418): free, ordered; none of them for a reserved source. -/
def srcKinds (s : Nat) : Bool × Bool :=
  let both := (1 ≤ s && s ≤ 4) || (8 ≤ s && s ≤ 10) || (0x20 ≤ s && s ≤ 0x3F)
  (both || s = 0x0C || (0x10 ≤ s && s ≤ 0x17) || (0x50 ≤ s && s ≤ 0x5F), both || (0x40 ≤ s && s ≤ 0x4F))
/-- ORDERED of an entry's words. -/
def wordsOrdered (ws : List Word) : Bool := bitAt (nth ws 0 0) 13
/-- ORDERED of an item's task. -/
def Item.ordered (it : Item) : Bool := wordsOrdered it.words
/-- PRIORITY. -/
def Item.priority (it : Item) : Nat := fld (nth it.words 0 0) 10 8
/-- AFFINITY. -/
def Item.affinity (it : Item) : Nat := fld (nth it.words 2 0) 23 0
/-- BUDGET. -/
def Item.budget (it : Item) : Nat := (nth it.words 4 0).toNat
/-- The heap region's first byte from the heap's start, and its length (R417, R456). -/
def Item.heap (it : Item) : Nat × Nat := (fld (nth it.words 5 0) 15 0 * 65536, fld (nth it.words 5 0) 31 16 * 65536)
/-- FLAG_SRC byte i of an entry's words. -/
def flagSrc (ws : List Word) (i : Nat) : Nat := bits (nth ws (8 + i / 4) 0).toNat (8 * (i % 4) + 7) (8 * (i % 4))
/-- A task's entry. -/
def taskWords (b : Block) (t : Nat) : List Word := wordsNow b (taskAt t) 16
/-- Flags of an entry that name a source. -/
def flagsOf (ws : List Word) (s : Nat) : Word := w32 (maskOf 32 fun i => flagSrc ws i = s)
/-- Readiness of flags AND MASK (R419). -/
def readyFlags (ws : List Word) (flags : Word) : Bool :=
  let m := nth ws 1 0
  if bitAt (nth ws 0 0) 14 then flags &&& m != 0 else flags &&& m == m
/-- Enabled tasks that name a source, of one kind, ascending. -/
def tasksFor (b : Block) (s : Nat) (ordered : Bool) : List Nat :=
  (tasksOn b).filter fun t => let ws := taskWords b t; wordsOrdered ws == ordered && flagsOf ws s != 0

/-! Posting (R419, R420, R425). -/

/-- w4 of an item: the bale event of the lowest consumed flag whose source is a bale rate; OVERRUN of any consumed
detector or Stook notice shows in it too (R425, R429). -/
def itemW4 (l : List FlagInfo) : DWord :=
  let ovr := l.any fun x => x.ovr && !(1 ≤ x.src && x.src ≤ 4)
  let n := match l.find? fun x => 1 ≤ x.src && x.src ≤ 4 with
    | some x => b01 (x.ovr || ovr) * 2 ^ 63 + (x.src - 1) * 2 ^ 32 + x.bale % 2 ^ 32
    | none => b01 ovr * 2 ^ 63
  BitVec.ofNat 64 n
/-- The bale of an event is a replayed one (R428). -/
def infoReplayed (b : Block) (x : FlagInfo) : Bool :=
  1 ≤ x.src && x.src ≤ 4 &&
    match (b.rate (x.src - 1)).bale (x.bale % 2 ^ 32) with
    | some y => y.flags / fREPLAYED % 2 = 1
    | none => false
/-- A ready task posts one item; what it consumes is cleared. Where it consumes no flag (MASK 0), its T is the event's. -/
def postItem (t : Nat) (d : Nat) (T : Gt) (b : Block) : Block :=
  let ws := taskWords b t
  let ts := b.task t
  let cons := ts.flags &&& nth ws 1 0
  let l := (ts.info.filter fun e => bitAt cons e.1).map (·.2)
  let ordered := wordsOrdered ws
  let it : Item := {
    task := t, words := ws, t := if ordered then (if l.isEmpty then T else (l.map (·.t)).foldl max 0) else b.now, d := if ordered then d else 0,
    cons := cons, w4 := itemW4 l, replayed := (l.find? fun x => 1 ≤ x.src && x.src ≤ 4).any (infoReplayed b), ovr := l.any (·.ovr),
    seq := ts.seq + 1, oseq := ts.oseq + b01 ordered, pseq := b.thr.pseq + 1 }
  b |> modTask t (fun s => { s with
        flags := s.flags &&& ~~~(nth ws 1 0), info := s.info.filter fun e => !bitAt cons e.1, seq := it.seq, oseq := it.oseq })
    |> modThr (fun h => { h with pend := h.pend ++ [it], pseq := it.pseq }) |> cnt (thrCnt 0)
    |> onlyIf it.ovr (evr 0x707 t (it.w4.toNat % 2 ^ 32))
/-- An event sets the flags that name it in one task; a flag found set merges, and the newer event stands (R419). -/
def setFlags (t : Nat) (x : FlagInfo) (b : Block) : Block :=
  let ws := taskWords b t
  let f := flagsOf ws x.src
  let ts := b.task t
  let merged := sumN ((those 32 fun i => bitAt (ts.flags &&& f) i).map fun _ => 1)
  let c := b |> cntBy (thrCnt 5) merged |> modTask t (fun s => { s with
      flags := s.flags ||| f, info := (those 32 fun i => bitAt f i).foldl (fun m i => mins m i x) s.info })
  onlyIf (readyFlags ws (c.task t).flags) (postItem t x.d x.t) c
/-- An event reaches the enabled tasks of one kind. -/
def thrDeliver (x : FlagInfo) (ordered : Bool) (b : Block) : Block :=
  forEach (tasksFor b x.src ordered) (fun t => setFlags t x) b
/-- What an event carries to a flag. -/
def infoOf (e : ThrEvent) : FlagInfo := { src := e.src, t := e.t, bale := e.bale, ovr := e.ovr }

/-! Acceptance and back-pressure (R429). -/

/-- Items an event may make ready: of free tasks at once, of ordered tasks when it is released. -/
def itemsOf (b : Block) (s : Nat) : Nat :=
  let free := (tasksFor b s false).filter fun t => let ws := taskWords b t; readyFlags ws ((b.task t).flags ||| flagsOf ws s)
  free.length + (tasksFor b s true).length
/-- The pending queue can take every item that the event makes ready, beside those of the events that wait for their
release. -/
def hasRoom (b : Block) (s : Nat) : Bool :=
  b.thr.pend.length + sumN (b.thr.rel.map fun e => (tasksFor b e.src true).length) + itemsOf b s ≤ 4096
/-- The Thresher works: state Run, the block not in reset. -/
def thrRuns (b : Block) : Bool := b.running && !b.inReset 0x38
/-- An accepted event: free tasks see it at once, ordered ones after its release (R421). -/
def thrAccept (e : ThrEvent) (b : Block) : Block :=
  let c := thrDeliver (infoOf e) false b
  if (srcKinds e.src).2 then modThr (fun h => { h with rel := h.rel ++ [e] }) c else c
/-- A notice that is not acknowledged stays at its source. -/
def thrHold (e : ThrEvent) (b : Block) : Block :=
  let mine := b.thr.held.filter fun x => x.src = e.src
  if !mine.isEmpty && 0x20 ≤ e.src && e.src ≤ 0x3F then cnt (thrCnt 8) b
  else if !mine.isEmpty && 0x10 ≤ e.src && e.src ≤ 0x17 then b
  else if 64 ≤ mine.length then markOverrun (fun x => x.src == e.src) b
  else
    let first := quiet b.thr.heldAt b
    b |> modThr (fun h => { h with held := h.held ++ [e], heldAt := some b.mono }) |> cnt (thrCnt 6)
      |> onlyIf first (fun b => b |> evr 0x706 e.src 0 |> irq 0x38 1)
/-- The next event that was raised is taken, held, or outside Run dropped. -/
def thrEvent (b : Block) : Block := match b.thr.raised with
  | [] => b
  | e :: rest =>
    let c := modThr (fun h => { h with raised := rest }) b
    if !b.running then c
    else if b.inReset 0x38 || b.thr.held.any (fun x => x.src == e.src) || !hasRoom b e.src then thrHold e c
    else thrAccept e c
/-- R419. -/
def execThresherEvent (s : State) : Out := s.run thrEvent
/-- R429: the oldest held notice is accepted where there is room. -/
def noticeAccept (b : Block) : Block := match b.thr.held with
  | [] => b
  | e :: rest => if thrRuns b && hasRoom b e.src then b |> modThr (fun h => { h with held := rest }) |> thrAccept e else b
/-- R429. -/
def execNoticeAccept (s : State) : Out := s.run noticeAccept

/-! Order watermark and release (R421). -/

/-- The frontier of a source (R421): none where it binds nothing. -/
def frontier (b : Block) (s : Nat) : Option Gt :=
  if 1 ≤ s && s ≤ 4 then some (rateFrontier b (s - 1))
  else if s = 8 then oscFrontier b
  else if s = 9 then some (islFrontier b)
  else if s = 10 then
    let rs := those 4 fun r => (List.range 256).any fun i =>
      let l := bytesInForce b (srcAddr i) 1
      srcEn l && srcOwner l = 3 && srcRate l = r
    let l := (oscFrontier b).toList ++ [islFrontier b] ++ rs.map (rateFrontier b)
    some (l.foldl min (islFrontier b))
  else if 0x20 ≤ s && s ≤ 0x3F then some b.now
  else none
/-- Sources that enabled ordered tasks name. -/
def orderedSrcs (b : Block) : List Nat :=
  (List.range 256).filter fun s => s != 0 && (orderedOn b).any fun t => flagsOf (taskWords b t) s != 0
/-- The order watermark: the earliest frontier of the sources that ordered tasks name; an event that was raised and is not
taken yet is still to come. -/
def orderMark (b : Block) : Gt :=
  let srcs := orderedSrcs b
  let l := srcs.filterMap (frontier b) ++ (b.thr.raised.filter fun e => srcs.contains e.src).map fun e => e.t - 1
  match l with
  | [] => b.now
  | t :: r => r.foldl min t
/-- Up to here events are released: a notice held at its source is still to come as well. -/
def releaseMark (b : Block) : Gt :=
  let srcs := orderedSrcs b
  ((b.thr.held.filter fun e => srcs.contains e.src).map fun e => e.t - 1).foldl min (orderMark b)
/-- The event that is released next: the earliest by time, then by source code. -/
def nextRelease (b : Block) : Option ThrEvent :=
  let pick := fun (m : Option ThrEvent) (e : ThrEvent) => match m with
    | none => some e
    | some x => if e.t < x.t || (e.t = x.t && e.src < x.src) then some e else m
  match b.thr.rel.foldl pick none with
  | some e => if e.t ≤ releaseMark b then some e else none
  | none => none
/-- R421. -/
def orderRelease (b : Block) : Block := match nextRelease b with
  | some e => if thrRuns b then b |> modThr (fun h => { h with rel := h.rel.erase e }) |> thrDeliver (infoOf e) true else b
  | none => b
/-- R421. -/
def execOrderRelease (s : State) : Out := s.run orderRelease

/-! Dispatch (R423–R425). -/

/-- An ordered task has an item on an engine or at DONE without commit (R423). -/
def taskActive (b : Block) (t : Nat) : Bool :=
  b.thr.done.any (fun it => it.task = t) || b.thr.engs.any fun e => e.run.any fun r => r.item.task = t && r.item.ordered
/-- A physical engine that takes items: free, and its number's block not in reset. -/
def engFree (b : Block) (e p : Nat) : Bool := (b.eng p).run.isNone && !b.inReset (0x40 + e) && !b.inReset (0x40 + p)
/-- Addressable engines in service for an item, whether AFFINITY named none of them, and the engine that it may take now:
its addressable and physical number. -/
def engFor (b : Block) (it : Item) : Bool × Option (Nat × Nat) :=
  let all := (List.range 24).filterMap fun e => (b.serves e).map fun p => (e, p)
  let named := all.filter fun x => it.affinity.testBit x.1
  let other := fun (l : List (Nat × Nat)) => l.filter fun x => it.avoid != some x.2
  let cand := if !(other named).isEmpty then other named else if !(other all).isEmpty then other all else all
  (named.isEmpty, cand.find? fun x => engFree b x.1 x.2)
/-- The next item that an engine may take: highest priority first, then the oldest posted (R424). -/
def nextItem (b : Block) : Option (Item × Bool × Nat × Nat) :=
  let ready := b.thr.pend.filterMap fun it =>
    if (it.ordered && taskActive b it.task) || (b.upd.reloadAt.any fun t => t ≤ it.t) then none else
    match engFor b it with
    | (na, some (e, p)) => some (it, na, e, p)
    | (_, none) => none
  ready.foldl (fun m x => match m with
    | none => some x
    | some y => if y.1.priority < x.1.priority || (y.1.priority = x.1.priority && x.1.pseq < y.1.pseq) then some x else m) none
/-- The state an item starts with (R425). -/
def startRun (it : Item) (e : Nat) (now : Gt) : Run :=
  let w0 := it.cons.toNat * 2 ^ 32 + it.seq % 2 ^ 16 * 2 ^ 16 + it.d % 4 * 2 ^ 14 + it.task
  let w := (((((Vector.replicate 32 (0 : DWord)).set 0 (BitVec.ofNat 64 w0)).set 1 (BitVec.ofNat 64 (nth it.words 6 0).toNat)).set 2
    (BitVec.ofNat 64 (secOf it.t))).set 3 (BitVec.ofNat 64 (nsOf it.t % 2 ^ 30))).set 4 it.w4
  { item := it, addr := e, started := now, w := w, pc := BitVec.ofNat 64 (nth it.words 3 0).toNat }
/-- The program words of the running image slot (R434, R584). -/
def programWords (b : Block) : WMap :=
  let base := b.upd.running.val * 0x1000000 + 0x110000
  b.mram.foldl (fun m e =>
    if base ≤ e.1 && e.1 < base + 0x20000 then
      let a := (e.1 - base) / 4 * 4
      mput 0 m a (mget 0 m a ||| w32 (e.2.toNat * 2 ^ (8 * ((e.1 - base) % 4))))
    else m) []
/-- The program set is loaded on every engine (R434). -/
def loadPrograms (b : Block) : Block := modThr (fun h => { h with prog := programWords b }) b
/-- A new program set is loaded once every item before its time has committed (R597). -/
def reloadStep (b : Block) : Block := match b.upd.reloadAt with
  | none => b
  | some t =>
    let left := b.thr.pend.any (fun it => it.t < t) || b.thr.done.any (fun it => it.t < t)
      || b.thr.engs.any fun e => e.run.any fun r => r.item.t < t
    if left || orderMark b < t then b else b |> loadPrograms |> modUpd fun u => { u with reloadAt := none }
/-- An item goes to an engine. -/
def itemDispatch (b : Block) : Block :=
  let b := reloadStep b
  if !thrRuns b then b else
  match nextItem b with
  | some (it, na, e, p) =>
    b |> modThr (fun h => { h with pend := h.pend.filter fun x => x.pseq != it.pseq })
      |> modEng p (fun s => { s with run := some (startRun it e b.mono) }) |> onlyIf na (cnt (thrCnt 9))
  | none => b
/-- R424. -/
def execItemDispatch (s : State) : Out := s.run itemDispatch

/-! Commit (R422, R426, R428). -/

/-- A log entry as the log holds it (R426). -/
def LogEntry.bytes (e : LogEntry) : List Byte :=
  leBytes 8 (e.kind + e.data.length * 2 ^ 8 + e.target * 2 ^ 32) ++ e.data ++ zeros ((8 - e.data.length % 8) % 8)
/-- Bytes of a log. -/
def logBytes (l : List LogEntry) : List Byte := l.flatMap LogEntry.bytes
/-- Bytes of a log, as a number. -/
def logSize (l : List LogEntry) : Nat := sumN (l.map fun e => 8 + ceilDiv e.data.length 8 * 8)
/-- The commit record's digest; OVERRUN enters it as 0 (R428). -/
def commitDigest (it : Item) : Nat :=
  let l := logBytes it.log
  crc64 (fullForm it.t ++ leBytes 1 it.d ++ leBytes 1 (b01 it.replayed * 4 + b01 it.failed) ++ leBytes 2 it.task
    ++ leBytes 4 it.oseq ++ leBytes 4 l.length ++ zeros 4 ++ l)
/-- First byte of the engine heap (R35). -/
def heapBase : Nat := 0x340000000
/-- A large-send descriptor of an item reaches a class 4 queue (R172, R477); the spec names no port for it. -/
def lsendPut (e : Nat) (l : List Byte) (b : Block) : Block :=
  if !b.leads then cnt (pg 0x60 0x260) b else
  let p := Config.freeNat b.freeCtr % 4
  let q := if prpOn b && p = 1 then 0 else p
  b |> usedFree |> queueDescs q [descOf (.engine e) l]
/-- One log entry is applied (R426). -/
def logApply (it : Item) (x : LogEntry) (b : Block) : Block := match x.kind with
  | 1 => siloPush (if x.target = 0x40 then 36 + it.eng / 2 else x.target) x.data b
  | 2 =>
    if x.target < 16 then thrDeliver { src := 0x40 + x.target, t := it.t, d := it.d + 1 } true b
    else thrRaise (0x50 + (x.target - 16)) b.now 0 b
  | 3 => srcReq 4 x.target (leAt x.data 0 1 % 2 = 1) it.t it.replayed b
  | 4 => evr x.target (leAt x.data 0 4) (leAt x.data 4 4) b
  | 5 => { b with ddr := writeBytes b.ddr (heapBase + leAt x.data 0 8) (x.data.drop 8) }
  | _ => lsendPut it.eng x.data b
/-- Both members' view of an ordered commit (R479). -/
def commitTell (it : Item) (b : Block) : Block :=
  let fl := b01 it.replayed * 4 + b01 it.ovr * 2 + b01 it.failed
  if b.mirrors then plSend (.commitDig it.task it.d fl (it.oseq % 2 ^ 32) it.t (commitDigest it)) b
  else if b.pair.role == .standby || b.pair.role == .converging then ownCommitDig it.task (it.oseq % 2 ^ 32) it.t (commitDigest it) b
  else b
/-- An item commits: its log is applied in order. -/
def commitItem (it : Item) (b : Block) : Block :=
  let c := forEach it.log (logApply it) b
  if it.ordered then c |> cnt (thrCnt 1) |> commitTell it else cnt (thrCnt 2) c
/-- Keys compare by T, D and task; items of one key by their posting (R420). -/
def Item.before (x y : Item) : Bool :=
  x.t < y.t || (x.t = y.t && (x.d < y.d || (x.d = y.d && (x.task < y.task || (x.task = y.task && x.pseq < y.pseq)))))
/-- Posted ordered items that have not committed. -/
def outstanding (b : Block) : List Item :=
  b.thr.pend.filter Item.ordered ++ (b.thr.engs.toList.filterMap fun e => e.run.map (·.item)).filter Item.ordered ++ b.thr.done
/-- The ordered item that commits next (R422): at DONE, released, no smaller key outstanding or about to be posted. -/
def nextCommit (b : Block) : Option Item :=
  b.thr.done.find? fun it =>
    it.t ≤ orderMark b && (outstanding b).all (fun x => !x.before it)
      && match nextRelease b with
        | some e => it.t < e.t
        | none => true
/-- R422. -/
def orderedCommit (b : Block) : Block :=
  if !thrRuns b then b else
  match nextCommit b with
  | some it => b |> modThr (fun h => { h with done := h.done.filter fun x => x.pseq != it.pseq }) |> commitItem it
  | none => b
/-- R422. -/
def execOrderedCommit (s : State) : Out := s.run orderedCommit

/-! Slow engines and spares (R431–R433). -/

/-- A rotation step is abandoned (R528). -/
def rotAbandon (b : Block) : Block := match b.bist.rot with
  | some r => { b with bist := { b.bist with rot := none, rotNext := r.engine } } |> cnt (bistCnt 4) |> evr 0xB05 r.engine 0
  | none => b
/-- A spare stands in for engine e where one is free; a rotation step gives way (R432, R433, R528). -/
def standIn (e : Nat) (b : Block) : Block :=
  match b.bist.rot with
  | some r =>
    if r.engine = e then
      { b with bist := { b.bist with rot := some { r with degraded := true } } }
        |> modEng r.spare (fun s => { s with covers := some e }) |> evr 0x701 (r.spare * 256 + e) 0 |> engRefresh
    else cover (rotAbandon b)
  | none => cover b
where cover (b : Block) : Block :=
  match [24, 25].find? fun p => b.spareFree p with
  | some p => b |> modEng p (fun s => { s with covers := some e }) |> evr 0x701 (p * 256 + e) 0 |> engRefresh
  | none => match b.upd.spare with
    | some p =>
      b |> modUpd (fun u => { u with spare := none }) |> modEng p (fun s => { s with covers := some e }) |> evr 0x701 (p * 256 + e) 0
        |> engRefresh
    | none => b |> evr 0x705 (sumN ((List.range 24).map fun x => b01 (b.serves x).isSome)) 0 |> engRefresh
/-- A physical engine that served number e leaves service (R431). -/
def leaveService (p e : Nat) (b : Block) : Block :=
  b |> modEng p (fun s => { s with covers := none }) |> evr 0x700 p (b.n (pg (0x40 + e) 0x04C)) |> irq 0x38 2 |> irq (0x40 + e) 0 |> standIn e
/-- A physical engine becomes degraded (R431). -/
def degrade (p e : Nat) (b : Block) : Block :=
  let was := (b.eng p).gone
  let c := modEng p (fun s => { s with degraded := true, slow := 0 }) b
  if was then c else leaveService p e c
/-- A physical engine is back in service: the spare that stood in for it is free (R432). -/
def returned (p : Nat) (b : Block) : Block :=
  b |> forEach [24, 25] (fun q => modEng q fun s => { s with covers := if s.covers = some p then none else s.covers })
    |> evr 0x702 p 0 |> engRefresh
/-- R440: ENG_CTL.OUT is written. -/
def engOut (e : Nat) (v : Word) (b : Block) : Block :=
  let on := bitAt v 0
  let was := b.eng e
  let c := b |> wn (pg (0x40 + e) 0x040) (b01 on) |> modEng e fun s => { s with out := on }
  if on && !was.gone then leaveService e e c
  else if !on && was.out && !(c.eng e).gone then returned e c
  else c
/-- R440: no effect on the pages of the spares. -/
def execEngOutWrite (ag : Agent) (eng : Fin 26) (v : Word) (s : State) : Out :=
  s.run (if 24 ≤ eng.val then id else cmdGateL ag (0x40 + eng.val) 0x040 (engOut eng.val v))

/-! The end of an item (R430, R431). -/

/-- Pages that show what runs on a physical engine as number e (R440). -/
def engPages (p e : Nat) : List Nat := if 24 ≤ p then [0x40 + e, 0x40 + p] else [0x40 + e]
/-- Nanoseconds an item has run. -/
def elapsedNs (b : Block) (r : Run) : Nat := (b.mono - r.started) / 65536
/-- What an engine counts at an item's end: items, instructions, the longest item and the measured rate. -/
def engCounts (p : Nat) (r : Run) (b : Block) : Block :=
  let ns := elapsedNs b r
  forEach (engPages p r.addr) (fun g b =>
    b |> cnt (pg g 0x100) |> cntBy (pg g 0x108) r.count |> wmax (pg g 0x050) (min ns 0xFFFFFFFF)
      |> onlyIf (0 < ns) (wn (pg g 0x04C) (min (rndNat (r.count * 1024) ns) 0xFFFF))) b
/-- An item at its end leaves its engine: an ordered one waits for its commit, a free one commits at once (R422). -/
def itemEnd (p : Nat) (r : Run) (failed : Bool) (b : Block) : Block :=
  let it := { r.item with log := if failed then [] else r.log, failed := failed, eng := r.addr }
  let c := modEng p (fun s => { s with run := none }) b
  if it.ordered then modThr (fun h => { h with done := h.done ++ [it] }) c
  else if failed then c
  else commitItem it c
/-- ENG_FAULT (R440). -/
def faultWord (code : Nat) (pc : DWord) : Nat := code * 2 ^ 24 + b01 (0x80 ≤ code) * 2 ^ 23 + pc.toNat % 2 ^ 19
/-- An item fails (R430). -/
def itemFail (p : Nat) (r : Run) (word : Nat) (b : Block) : Block :=
  b |> cnt (thrCnt 3) |> irq 0x38 3 |> evr 0x703 (r.item.d * 2 ^ 14 + r.item.task) word
    |> modTask r.item.task (fun t => { t with failed := min (t.failed + 1) 0xFFFF })
    |> onlyIf r.item.ordered (updFail 3) |> itemEnd p r true
/-- A fault of the item on a physical engine (R430): a program fault fails it; a hardware fault sends it to another engine
up to RETRY times. LS_UE and LOG_UE are uncorrectable errors of the engine's arrays (R523). -/
def itemFault (p : Nat) (r : Run) (code : Nat) (pc : DWord) (b : Block) : Block :=
  let hw := 0x80 ≤ code
  let word := faultWord code pc
  let b := onlyIf (code = 0x80 || code = 0x81) (sramUe (0x40 + p)) b
  let c := forEach (engPages p r.addr) (fun g b =>
    b |> wn (pg g 0x048) word |> cnt (pg g (if hw then 0x110 else 0x118)) |> irq g 1) b
  if !hw then c |> engCounts p r |> itemFail p r word
  else if r.item.tries < c.f (pg 0x38 0x040) 17 16 then
    let it := { r.item with tries := r.item.tries + 1, avoid := some p }
    c |> modEng p (fun s => { s with run := none }) |> modThr (fun h => { h with pend := h.pend ++ [it] })
      |> cnt (thrCnt 4) |> evr 0x704 it.task p
  else itemFail p r word c
/-- A hardware fault of a physical engine's item, where it has one. -/
def engFault (p code : Nat) (b : Block) : Block := match (b.eng p).run with
  | some r => itemFault p r code r.pc b
  | none => b
/-- R430: an item still runs after 2 × BUDGET / S + 10 µs. -/
def execItemOvertime (eng : Fin 26) (s : State) : Out :=
  s.run fun b => match (b.eng eng.val).run with
    | some r =>
      let lim := 2 * r.item.budget * 1024 * 65536 + gtNs 10000 * b.supply.speed
      if lim < (b.mono - r.started) * b.supply.speed then itemFault eng.val r 0x83 r.pc b else b
    | none => b
/-- Whether an item at DONE was slow (R431): past (I / S + 2 µs) × (1 + SLOW_PCT / 100). -/
def itemSlow (b : Block) (r : Run) : Bool :=
  let sp := b.supply.speed
  decide ((r.count * 1024 * 65536 + gtNs 2000 * sp) * (100 + b.f (pg 0x38 0x044) 9 0) < (b.mono - r.started) * sp * 100)
/-- An item reaches DONE (R431, R466). -/
def itemDone (p : Nat) (r : Run) (b : Block) : Block :=
  let slow := if itemSlow b r then (b.eng p).slow + 1 else 0
  let c := b |> engCounts p r |> modEng p (fun s => { s with slow := slow }) |> itemEnd p r false
  if c.f (pg 0x38 0x044) 23 16 ≤ slow then degrade p r.addr c else c

/-! Timers and task commits (R417, R437, R439). -/

/-- R437: the latest whole multiple of PERIOD has come since the timer's last instant. -/
def thrTimer (i : Nat) (b : Block) : Block :=
  let a := pg 0x38 (0x100 + 4 * i)
  let per := gtNs (b.f a 25 0 * 1000)
  let last := mget 0 b.thr.timers i
  if !b.t a 31 || per = 0 then b else
  let t := b.now / per * per
  if t ≤ last then b
  else b |> modThr (fun h => { h with timers := mput 0 h.timers i t }) |> thrRaise (0x20 + i) t 0
/-- R437. -/
def execThrTimer (timer : Fin 32) (s : State) : Out := s.run fun b => if b.running then thrTimer timer.val b else b
/-- Writable bits of a task entry's word. -/
def taskMask (i : Nat) : Nat := match i with
  | 0 => 0xE700
  | 2 => 0xFFFFFF
  | 7 => 0
  | _ => 0xFFFFFFFF
/-- Heap units of an entry. -/
def heapUnits (ws : List Word) : Nat × Nat := (fld (nth ws 5 0) 15 0, fld (nth ws 5 0) 31 16)
/-- Two heap regions share a unit. -/
def unitsMeet (x y : Nat × Nat) : Bool := 0 < x.2 && 0 < y.2 && x.1 < y.1 + y.2 && y.1 < x.1 + x.2
/-- A task has an item pending, running or at DONE. -/
def taskBusy (b : Block) (t : Nat) : Bool :=
  b.thr.pend.any (fun it => it.task = t) || b.thr.done.any (fun it => it.task = t)
    || b.thr.engs.any fun e => e.run.any fun r => r.item.task = t
/-- Why a task entry is refused, 0 where it is not (R439). -/
def taskCheck (b : Block) (t : Nat) (ws : List Word) : Nat :=
  let ordered := wordsOrdered ws
  let en := bitAt (nth ws 0 0) 15
  let bad := (List.range 32).any fun i =>
    let s := flagSrc ws i
    s != 0 && !(if ordered then (srcKinds s).2 else (srcKinds s).1)
  let u := heapUnits ws
  let meets := (tasksOn b).any fun x =>
    x != t && (ordered || b.t (taskAt x) 13) && unitsMeet u (heapUnits (taskWords b x))
  if en && bad then 0x20
  else if en && (32768 < u.1 + u.2 || meets) then 0x21
  else if en && (0x1FFFC < (nth ws 3 0).toNat || (nth ws 3 0).toNat % 4 != 0 || nth ws 4 0 = 0) then 0x22
  else if en && nth ws 2 0 = 0 then 0x23
  else if ordered != b.t (taskAt t) 13 && taskBusy b t then 0x25
  else 0
/-- R417: the staged entry is checked and committed. -/
def taskCommit (t : Nat) (v : Word) (b : Block) : Block :=
  let a := taskAt t
  let ws := stagedEntry b a 16 taskMask v
  let code := taskCheck b t ws
  if code != 0 then err 0x38 code b else
  let was := b.t a 15
  let on := bitAt (nth ws 0 0) 15
  b |> wrList a ws |> dropStaged a 16
    |> onlyIf (!on) (modTask t fun s => { s with flags := 0, info := [] })
    |> onlyIf (on && !was) (modTask t fun s => { s with flags := 0, info := [], seq := 0, oseq := 0 })
/-- R417. -/
def execTaskCommit (ag : Agent) (task : Fin 1024) (v : Word) (s : State) : Out := s.run (cmdGateL ag 0x38 0 (taskCommit task.val v))

/-! Resets (R436) and live registers (R437, R440). -/

/-- Flags, and pending, held and released notices are cleared. -/
def thrClear (b : Block) : Block :=
  modThr (fun h => { h with
    raised := [], held := [], rel := [], pend := [], done := [],
    tasks := (h.tasks.map fun e => (e.1, { e.2 with flags := 0, info := [] })) }) b
/-- A warm or cold reset, or the entry to Keep: items in flight are discarded without commit. -/
def thrReset (reset : Bool) (b : Block) : Block :=
  let c := b |> thrClear |> forEach (List.range 26) fun p => modEng p fun s => { s with run := none }
  if reset then
    c |> modThr (fun h => { h with heldAt := none, tasks := h.tasks.map fun e => (e.1, { e.2 with failed := 0 }) })
      |> forEach (List.range 26) fun p => modEng p fun s => { s with degraded := false, slow := 0, covers := none }
  else c
/-- At a start: timers wait for their next instant, and engines that are taken out or retired have their stand-ins. -/
def thrStart (b : Block) : Block :=
  let c := b |> timersArm |> forEach (List.range 24) fun e => modEng e fun s => { s with out := b.t (pg (0x40 + e) 0x040) 0 }
  let gone := (List.range 24).filter fun e => (c.eng e).gone && (c.serves e).isNone
  c |> forEach gone standIn |> engRefresh
/-- A THR block reset: held notices are acknowledged and counted; commits that are not yet ordered are abandoned. -/
def thrBlockReset (b : Block) : Block := b |> cntBy (thrCnt 10) b.thr.held.length |> thrClear
/-- A block reset of an engine's page: its item is dispatched again as after a hardware fault (R436). -/
def engBlockReset (e : Nat) (b : Block) : Block := engFault ((b.serves e).getD e) 0x82 b
/-- What a THR register shows where it follows from the state. -/
def liveThr (b : Block) (o : Nat) : Option Nat :=
  let t := b.f (pg 0x38 0x058) 9 0
  let sp := fun p => match (b.eng p).covers with
    | some e => some e
    | none => (b.bist.rot.filter fun r => r.spare == p).map (·.engine)
  let st := fun p => match sp p with
    | some e => 128 + e
    | none => 0
  match o with
  | 0x048 => some (min b.thr.pend.length 0x1FFF * 2 ^ 16 + (tasksOn b).length)
  | 0x04C => some (secOf (orderMark b) % 2 ^ 32)
  | 0x050 => some (secOf (orderMark b) / 2 ^ 32)
  | 0x054 => some (nsOf (orderMark b))
  | 0x05C => some (b.task t).flags.toNat
  | 0x060 => some (b01 (b.thr.pend.any fun it => it.task = t) * 2 ^ 31
      + b01 (b.thr.engs.any fun e => e.run.any fun r => r.item.task = t) * 2 ^ 30 + (b.task t).failed)
  | 0x064 => some b.engAvail
  | 0x068 => some (st 25 * 256 + st 24)
  | _ => none
/-- What an ENG register shows where it follows from the state. -/
def liveEng (b : Block) (e o : Nat) : Option Nat :=
  if o != 0x044 then none else
  let p := if 24 ≤ e then e else (b.serves e).getD e
  some (b01 (b.eng p).run.isSome * 2 ^ 31 + b01 (b.eng e).gone * 2 ^ 30 + b01 (b.tested e) * 2 ^ 29
    + b01 (p != e) * 2 ^ 28 + p * 2 ^ 16 + (match (b.eng p).run with | some r => r.item.task | none => 0))

end Sys2Proof.Machine
end

