-- ==== Sys2Proof/Machine/Idrik.lean ====
section
/-! DEFINITION. The engines' instructions (R442–R469): an engine carries out one instruction of the item it runs. -/

namespace Sys2Proof.Machine
open Sys2Proof

/-! Registers, flags, local store (R442). -/

/-- A word register. -/
def Run.reg (r : Run) (i : BitVec 5) : DWord := r.w[i.toNat]'i.isLt
/-- Writes a word register. -/
def Run.setReg (r : Run) (i : BitVec 5) (v : DWord) : Run := { r with w := r.w.set i.toNat v i.isLt }
/-- A complex register's four lanes. -/
def Run.creg (r : Run) (i : BitVec 4) : Vector DWord 4 := r.c[i.toNat]'i.isLt
/-- Writes a complex register. -/
def Run.setCreg (r : Run) (i : BitVec 4) (v : Vector DWord 4) : Run := { r with c := r.c.set i.toNat v i.isLt }
/-- A result with flag group L: N and Z (R447). -/
def Run.flagsL (r : Run) (v : DWord) : Run := { r with n := v.msb, z := v == 0 }
/-- A result with flag group A. -/
def Run.flagsA (r : Run) (v : DWord) (carry ovf : Bool) : Run := { r.flagsL v with cf := carry, v := ovf }
/-- The sign-extended 16-bit immediate. -/
def sext16 (i : BitVec 16) : DWord := i.signExtend 64
/-- The word of the program region at a byte address (R434). -/
def progAt (b : Block) (a : Nat) : Word := mget 0 b.thr.prog a
/-- The fetch finds a word: in the program region, a multiple of 4 (R450). -/
def fetchOk (pc : DWord) : Bool := pc.toNat < 0x20000 && pc.toNat % 4 = 0
/-- One byte of an engine's local store (R425). -/
def lsByte (b : Block) (p a : Nat) : Byte :=
  if a < 0x20000 then (progAt b (a / 4 * 4)).extractLsb' (8 * (a % 4)) 8 else byteAt (b.eng p).scratch a
/-- Bytes of an engine's local store. -/
def lsRead (b : Block) (p a n : Nat) : List Byte := (List.range n).map fun i => lsByte b p (a + i)
/-- Bytes stored to scratch. -/
def lsWrite (p a : Nat) (l : List Byte) (b : Block) : Block := modEng p (fun s => { s with scratch := writeBytes s.scratch a l }) b

/-! Carrying out an instruction (R467, R468). -/

/-- What an instruction's checks and execution give: the item's new state, or a fault code. -/
inductive IdRes where
  | ok (r : Run) (b : Block)
  | fault (code : Nat) (b : Block)

/-- An operand check: its fault code where it fails. -/
abbrev Chk := Option Nat
/-- The first check that fails decides the fault; else the instruction executes. -/
def checked (b : Block) : List Chk → IdRes → IdRes
  | [], res => res
  | some c :: _, _ => .fault c b
  | none :: l, res => checked b l res
/-- A check. -/
def chk (bad : Bool) (code : Nat) : Chk := if bad then some code else none
/-- Cost 1. -/
def one (_ : Run) : Nat := 1
/-- An engine carries out one instruction where the word at its item's pc is that instruction: the budget, then the
checks and the execution over the state with count and pc advanced. A faulting instruction changes nothing (R468). -/
def idGo (eng : Fin 26) (i : Idrik) (cost : Run → Nat) (f : Run → Block → IdRes) (b : Block) : Block :=
  match (b.eng eng.val).run with
  | none => b
  | some r =>
    if !b.up || !fetchOk r.pc || decode (progAt b r.pc.toNat) != some i then b
    else if r.item.budget < r.count + cost r then itemFault eng.val r 0x07 r.pc b
    else match f { r with pc := r.pc + 4, count := r.count + cost r } b with
    | .ok r2 c => modEng eng.val (fun s => { s with run := some r2 }) c
    | .fault code c => itemFault eng.val r code r.pc c

/-! Integer instructions (R447, R448). -/

/-- The result of a three-register operation. -/
def aluVal (op : AluOp) (a b : DWord) : DWord := match op with
  | .add => a + b
  | .sub => a - b
  | .and => a &&& b
  | .or => a ||| b
  | .xor => a ^^^ b
  | .sll => a <<< (b.toNat % 64)
  | .srl => a >>> (b.toNat % 64)
  | .sra => a.sshiftRight (b.toNat % 64)
  | .mul => a * b
  | .mulh => BitVec.ofInt 64 (a.toInt * b.toInt / 2 ^ 64)
  | .mulhu => BitVec.ofNat 64 (a.toNat * b.toNat / 2 ^ 64)
  | .div => a.sdiv b
  | .divu => a / b
  | .rem => a.srem b
  | .remu => a % b
/-- Whether the operation divides. -/
def aluDivides : AluOp → Bool
  | .div | .divu | .rem | .remu => true
  | _ => false
/-- Flags of an addition: C the unsigned carry out, V signed overflow. -/
def addFlags (r : Run) (a b : DWord) : Run :=
  r.flagsA (a + b) (decide (2 ^ 64 ≤ a.toNat + b.toNat)) (a.msb == b.msb && (a + b).msb != a.msb)
/-- Flags of a subtraction: C the borrow, V signed overflow. -/
def subFlags (r : Run) (a b : DWord) : Run :=
  r.flagsA (a - b) (decide (a.toNat < b.toNat)) (a.msb != b.msb && (a - b).msb != a.msb)
/-- The flags an operation sets. -/
def aluFlags (op : AluOp) (r : Run) (a b : DWord) : Run := match op with
  | .add => addFlags r a b
  | .sub => subFlags r a b
  | _ => r.flagsL (aluVal op a b)
/-- A three-register operation. -/
def idAlu (eng : Fin 26) (op : AluOp) (rd ra rb : BitVec 5) : Block → Block :=
  idGo eng (.alu op rd ra rb) one fun r b =>
    let x := r.reg ra
    let y := r.reg rb
    checked b [chk (aluDivides op && y == 0) 0x06] (.ok ((aluFlags op r x y).setReg rd (aluVal op x y)) b)
/-- R447. -/
def execIAdd (eng : Fin 26) (rd ra rb : BitVec 5) (s : State) : Out := s.run (idAlu eng .add rd ra rb)
/-- R447. -/
def execISub (eng : Fin 26) (rd ra rb : BitVec 5) (s : State) : Out := s.run (idAlu eng .sub rd ra rb)
/-- R447. -/
def execICmp (eng : Fin 26) (ra rb : BitVec 5) (s : State) : Out :=
  s.run (idGo eng (.cmp ra rb) one fun r b => .ok (subFlags r (r.reg ra) (r.reg rb)) b)
/-- R447. -/
def execIAnd (eng : Fin 26) (rd ra rb : BitVec 5) (s : State) : Out := s.run (idAlu eng .and rd ra rb)
/-- R447. -/
def execIOr (eng : Fin 26) (rd ra rb : BitVec 5) (s : State) : Out := s.run (idAlu eng .or rd ra rb)
/-- R447. -/
def execIXor (eng : Fin 26) (rd ra rb : BitVec 5) (s : State) : Out := s.run (idAlu eng .xor rd ra rb)
/-- R447. -/
def execISll (eng : Fin 26) (rd ra rb : BitVec 5) (s : State) : Out := s.run (idAlu eng .sll rd ra rb)
/-- R447. -/
def execISrl (eng : Fin 26) (rd ra rb : BitVec 5) (s : State) : Out := s.run (idAlu eng .srl rd ra rb)
/-- R447. -/
def execISra (eng : Fin 26) (rd ra rb : BitVec 5) (s : State) : Out := s.run (idAlu eng .sra rd ra rb)
/-- R447. -/
def execIMul (eng : Fin 26) (rd ra rb : BitVec 5) (s : State) : Out := s.run (idAlu eng .mul rd ra rb)
/-- R447. -/
def execIMulh (eng : Fin 26) (rd ra rb : BitVec 5) (s : State) : Out := s.run (idAlu eng .mulh rd ra rb)
/-- R447. -/
def execIMulhu (eng : Fin 26) (rd ra rb : BitVec 5) (s : State) : Out := s.run (idAlu eng .mulhu rd ra rb)
/-- R447, R448. -/
def execIDiv (eng : Fin 26) (rd ra rb : BitVec 5) (s : State) : Out := s.run (idAlu eng .div rd ra rb)
/-- R447, R448. -/
def execIDivu (eng : Fin 26) (rd ra rb : BitVec 5) (s : State) : Out := s.run (idAlu eng .divu rd ra rb)
/-- R447, R448. -/
def execIRem (eng : Fin 26) (rd ra rb : BitVec 5) (s : State) : Out := s.run (idAlu eng .rem rd ra rb)
/-- R447, R448. -/
def execIRemu (eng : Fin 26) (rd ra rb : BitVec 5) (s : State) : Out := s.run (idAlu eng .remu rd ra rb)

/-- A logical operation with the zero-extended immediate. -/
def idLogic (eng : Fin 26) (op : ImmOp) (alu : AluOp) (rd ra : BitVec 5) (imm : BitVec 16) : Block → Block :=
  idGo eng (.imm op rd ra imm) one fun r b =>
    let v := aluVal alu (r.reg ra) (imm.zeroExtend 64)
    .ok ((r.flagsL v).setReg rd v) b
/-- R447. -/
def execIAddi (eng : Fin 26) (rd ra : BitVec 5) (imm : BitVec 16) (s : State) : Out :=
  s.run (idGo eng (.imm .addi rd ra imm) one fun r b =>
    .ok ((addFlags r (r.reg ra) (sext16 imm)).setReg rd (r.reg ra + sext16 imm)) b)
/-- R447. -/
def execICmpi (eng : Fin 26) (ra : BitVec 5) (imm : BitVec 16) (s : State) : Out :=
  s.run (idGo eng (.cmpi ra imm) one fun r b => .ok (subFlags r (r.reg ra) (sext16 imm)) b)
/-- R447. -/
def execIAndi (eng : Fin 26) (rd ra : BitVec 5) (imm : BitVec 16) (s : State) : Out := s.run (idLogic eng .andi .and rd ra imm)
/-- R447. -/
def execIOri (eng : Fin 26) (rd ra : BitVec 5) (imm : BitVec 16) (s : State) : Out := s.run (idLogic eng .ori .or rd ra imm)
/-- R447. -/
def execIXori (eng : Fin 26) (rd ra : BitVec 5) (imm : BitVec 16) (s : State) : Out := s.run (idLogic eng .xori .xor rd ra imm)
/-- A shift by an immediate. -/
def idShift (eng : Fin 26) (op : ShiftOp) (alu : AluOp) (rd ra : BitVec 5) (sh : BitVec 6) : Block → Block :=
  idGo eng (.shift op rd ra sh) one fun r b =>
    let v := aluVal alu (r.reg ra) (sh.zeroExtend 64)
    .ok ((r.flagsL v).setReg rd v) b
/-- R447. -/
def execISlli (eng : Fin 26) (rd ra : BitVec 5) (sh : BitVec 6) (s : State) : Out := s.run (idShift eng .slli .sll rd ra sh)
/-- R447. -/
def execISrli (eng : Fin 26) (rd ra : BitVec 5) (sh : BitVec 6) (s : State) : Out := s.run (idShift eng .srli .srl rd ra sh)
/-- R447. -/
def execISrai (eng : Fin 26) (rd ra : BitVec 5) (sh : BitVec 6) (s : State) : Out := s.run (idShift eng .srai .sra rd ra sh)
/-- A constant load: no flag changes. -/
def idSet (eng : Fin 26) (op : SetOp) (rd : BitVec 5) (imm : BitVec 16) : Block → Block :=
  idGo eng (.set op rd imm) one fun r b =>
    let v := match op with
      | .setw => sext16 imm
      | .shin => (r.reg rd <<< 16) ||| imm.zeroExtend 64
      | .setu => imm.zeroExtend 64
    .ok (r.setReg rd v) b
/-- R447. -/
def execISetw (eng : Fin 26) (rd : BitVec 5) (imm : BitVec 16) (s : State) : Out := s.run (idSet eng .setw rd imm)
/-- R447. -/
def execIShin (eng : Fin 26) (rd : BitVec 5) (imm : BitVec 16) (s : State) : Out := s.run (idSet eng .shin rd imm)
/-- R447. -/
def execISetu (eng : Fin 26) (rd : BitVec 5) (imm : BitVec 16) (s : State) : Out := s.run (idSet eng .setu rd imm)

/-! Control flow (R449, R450). -/

/-- Whether a condition holds. -/
def condHolds (r : Run) (c : BitVec 4) : Bool := match c.toNat with
  | 0 => true
  | 1 => r.z
  | 2 => !r.z
  | 3 => r.n != r.v
  | 4 => r.n == r.v
  | 5 => !r.z && r.n == r.v
  | 6 => r.z || r.n != r.v
  | 7 => r.cf
  | 8 => !r.cf
  | 9 => !r.cf && !r.z
  | 10 => r.cf || r.z
  | 11 => r.n
  | 12 => !r.n
  | 13 => r.v
  | 14 => !r.v
  | _ => false
/-- The target of a transfer whose pc has advanced: pc + 4 × sext(off22) of the transfer itself. -/
def target (r : Run) (off : BitVec 22) : DWord := r.pc - 4 + 4 * off.signExtend 64
/-- R449. -/
def execIBr (eng : Fin 26) (cond : BitVec 4) (off : BitVec 22) (s : State) : Out :=
  s.run (idGo eng (.br cond off) one fun r b => .ok (if condHolds r cond then { r with pc := target r off } else r) b)
/-- R449. -/
def execICall (eng : Fin 26) (cond : BitVec 4) (off : BitVec 22) (s : State) : Out :=
  s.run (idGo eng (.call cond off) one fun r b =>
    .ok (if condHolds r cond then { r.setReg 31 r.pc with pc := target r off } else r) b)
/-- R450, R454. -/
def execIJr (eng : Fin 26) (ra : BitVec 5) (s : State) : Out :=
  s.run (idGo eng (.jr ra) one fun r b => .ok { r with pc := r.reg ra } b)

/-! Local store (R446, R451). -/

/-- The full sum of a register and a signed offset. -/
def eaOf (v : DWord) (off : Int) : Int := (v.toNat : Int) + off
/-- The checks of a local-store access of n bytes: alignment, range, and for a write that it lies in scratch. -/
def lsChk (a : Int) (n align : Nat) (write : Bool) : List Chk :=
  [chk (a % (align : Int) != 0) 0x04, chk (a < 0 || (0x80000 : Int) < a + n) 0x03, chk (write && a < 0x20000) 0x05]
/-- Size and sign of a load. -/
def loadForm : LoadOp → Nat × Bool
  | .ld => (8, false)
  | .lw => (4, true)
  | .lwu => (4, false)
  | .lh => (2, true)
  | .lhu => (2, false)
  | .lb => (1, true)
  | .lbu => (1, false)
/-- Size of a store. -/
def storeSize : StoreOp → Nat
  | .st => 8
  | .sw => 4
  | .sh => 2
  | .sb => 1
/-- Bytes as a register value, extended from their width. -/
def loadVal (sign : Bool) (l : List Byte) : DWord :=
  if sign then BitVec.ofInt 64 (sgn (8 * l.length) (ofLe l)) else BitVec.ofNat 64 (ofLe l)
/-- A load; an uncorrectable error in the local store is a hardware fault. -/
def idLoad (eng : Fin 26) (op : LoadOp) (rd ra : BitVec 5) (imm : BitVec 16) (ue : Bool) : Block → Block :=
  idGo eng (.load op rd ra imm) one fun r b =>
    let a := eaOf (r.reg ra) imm.toInt
    let n := (loadForm op).1
    checked b (lsChk a n n false ++ [chk ue 0x80]) (.ok (r.setReg rd (loadVal (loadForm op).2 (lsRead b eng.val a.toNat n))) b)
/-- A store. -/
def idStore (eng : Fin 26) (op : StoreOp) (rs ra : BitVec 5) (imm : BitVec 16) : Block → Block :=
  idGo eng (.store op rs ra imm) one fun r b =>
    let a := eaOf (r.reg ra) imm.toInt
    let n := storeSize op
    checked b (lsChk a n n true) (.ok r (lsWrite eng.val a.toNat (leBytes n (r.reg rs).toNat) b))
/-- R451. -/
def execILd (eng : Fin 26) (rd ra : BitVec 5) (imm : BitVec 16) (ue : Bool) (s : State) : Out := s.run (idLoad eng .ld rd ra imm ue)
/-- R451. -/
def execILw (eng : Fin 26) (rd ra : BitVec 5) (imm : BitVec 16) (ue : Bool) (s : State) : Out := s.run (idLoad eng .lw rd ra imm ue)
/-- R451. -/
def execILwu (eng : Fin 26) (rd ra : BitVec 5) (imm : BitVec 16) (ue : Bool) (s : State) : Out := s.run (idLoad eng .lwu rd ra imm ue)
/-- R451. -/
def execILh (eng : Fin 26) (rd ra : BitVec 5) (imm : BitVec 16) (ue : Bool) (s : State) : Out := s.run (idLoad eng .lh rd ra imm ue)
/-- R451. -/
def execILhu (eng : Fin 26) (rd ra : BitVec 5) (imm : BitVec 16) (ue : Bool) (s : State) : Out := s.run (idLoad eng .lhu rd ra imm ue)
/-- R451. -/
def execILb (eng : Fin 26) (rd ra : BitVec 5) (imm : BitVec 16) (ue : Bool) (s : State) : Out := s.run (idLoad eng .lb rd ra imm ue)
/-- R451. -/
def execILbu (eng : Fin 26) (rd ra : BitVec 5) (imm : BitVec 16) (ue : Bool) (s : State) : Out := s.run (idLoad eng .lbu rd ra imm ue)
/-- R451. -/
def execISt (eng : Fin 26) (rs ra : BitVec 5) (imm : BitVec 16) (s : State) : Out := s.run (idStore eng .st rs ra imm)
/-- R451. -/
def execISw (eng : Fin 26) (rs ra : BitVec 5) (imm : BitVec 16) (s : State) : Out := s.run (idStore eng .sw rs ra imm)
/-- R451. -/
def execISh (eng : Fin 26) (rs ra : BitVec 5) (imm : BitVec 16) (s : State) : Out := s.run (idStore eng .sh rs ra imm)
/-- R451. -/
def execISb (eng : Fin 26) (rs ra : BitVec 5) (imm : BitVec 16) (s : State) : Out := s.run (idStore eng .sb rs ra imm)

/-! Complex lanes (R452, R453). -/

/-- Real part of a lane. -/
def re (l : DWord) : Int := (l.extractLsb' 0 32).toInt
/-- Imaginary part of a lane. -/
def im (l : DWord) : Int := (l.extractLsb' 32 32).toInt
/-- A lane from its parts, each saturated to 32 signed bits. -/
def lane (x y : Int) : DWord := BitVec.ofInt 32 (satS 32 y) ++ BitVec.ofInt 32 (satS 32 x)
/-- The result of a two-operand operation without a shift. -/
def cxVal (op : CxOp) (a b : DWord) : DWord := match op with
  | .cadd => lane (re a + re b) (im a + im b)
  | .csub => lane (re a - re b) (im a - im b)
  | .crot =>
    let (sn, cs) := sinCosTurn (b.extractLsb' 0 32).toNat (2 ^ 32)
    lane (rndHE (re a * cs - im a * sn) fpOne) (rndHE (re a * sn + im a * cs) fpOne)
/-- The result of an operation with a shift: exact, then one rounding. -/
def cxShVal (op : CxShOp) (d a b : DWord) (sh : Nat) : DWord :=
  let conj := op == .cmulc || op == .cmacc
  let acc := op == .cmac || op == .cmacc
  let bi := if conj then -(im b) else im b
  let x := re a * re b - im a * bi + if acc then re d * 2 ^ sh else 0
  let y := re a * bi + im a * re b + if acc then im d * 2 ^ sh else 0
  lane (rndHE x (2 ^ sh)) (rndHE y (2 ^ sh))
/-- The square root rounded to the nearest. -/
def sqrtNear (n : Nat) : Nat :=
  let q := isqrt n
  if q * q + q < n then q + 1 else q
/-- The results of a one-operand operation, for the four lanes. -/
def cxUnVal (op : CxUnOp) (a : Vector DWord 4) : Vector DWord 4 := match op with
  | .cmag => a.map fun x => lane (sqrtNear (re x * re x + im x * im x).toNat) 0
  | .cang => a.map fun x => (BitVec.ofInt 32 (rndHE (argTurn (re x) (im x) * 2 ^ 32) fpOne)).zeroExtend 64
  | .csum => #v[lane (sumI (a.toList.map re)) (sumI (a.toList.map im)), 0, 0, 0]
/-- A two-operand complex operation. -/
def idCx (eng : Fin 26) (op : CxOp) (cd ca cb : BitVec 4) : Block → Block :=
  idGo eng (.cx op cd ca cb) one fun r b => .ok (r.setCreg cd (Vector.zipWith (cxVal op) (r.creg ca) (r.creg cb))) b
/-- A complex operation with a shift. -/
def idCxSh (eng : Fin 26) (op : CxShOp) (cd ca cb : BitVec 4) (sh : BitVec 6) : Block → Block :=
  idGo eng (.cxSh op cd ca cb sh) one fun r b =>
    let d := r.creg cd
    let x := Vector.zipWith (fun (a b : DWord) => (a, b)) (r.creg ca) (r.creg cb)
    .ok (r.setCreg cd (Vector.zipWith (fun d (e : DWord × DWord) => cxShVal op d e.1 e.2 sh.toNat) d x)) b
/-- A one-operand complex operation. -/
def idCxUn (eng : Fin 26) (op : CxUnOp) (cd ca : BitVec 4) : Block → Block :=
  idGo eng (.cxUn op cd ca) one fun r b => .ok (r.setCreg cd (cxUnVal op (r.creg ca))) b
/-- R452. -/
def execICadd (eng : Fin 26) (cd ca cb : BitVec 4) (s : State) : Out := s.run (idCx eng .cadd cd ca cb)
/-- R452. -/
def execICsub (eng : Fin 26) (cd ca cb : BitVec 4) (s : State) : Out := s.run (idCx eng .csub cd ca cb)
/-- R452. -/
def execICmul (eng : Fin 26) (cd ca cb : BitVec 4) (sh : BitVec 6) (s : State) : Out := s.run (idCxSh eng .cmul cd ca cb sh)
/-- R452. -/
def execICmulc (eng : Fin 26) (cd ca cb : BitVec 4) (sh : BitVec 6) (s : State) : Out := s.run (idCxSh eng .cmulc cd ca cb sh)
/-- R452. -/
def execICmac (eng : Fin 26) (cd ca cb : BitVec 4) (sh : BitVec 6) (s : State) : Out := s.run (idCxSh eng .cmac cd ca cb sh)
/-- R452. -/
def execICmacc (eng : Fin 26) (cd ca cb : BitVec 4) (sh : BitVec 6) (s : State) : Out := s.run (idCxSh eng .cmacc cd ca cb sh)
/-- R452. -/
def execICmag (eng : Fin 26) (cd ca : BitVec 4) (s : State) : Out := s.run (idCxUn eng .cmag cd ca)
/-- R452. -/
def execICang (eng : Fin 26) (cd ca : BitVec 4) (s : State) : Out := s.run (idCxUn eng .cang cd ca)
/-- R452. -/
def execICrot (eng : Fin 26) (cd ca cb : BitVec 4) (s : State) : Out := s.run (idCx eng .crot cd ca cb)
/-- R452. -/
def execICsum (eng : Fin 26) (cd ca : BitVec 4) (s : State) : Out := s.run (idCxUn eng .csum cd ca)

/-- Four lanes from 32 bytes (R442). -/
def lanesOf (l : List Byte) : Vector DWord 4 := Vector.ofFn fun k => BitVec.ofNat 64 (leAt l (8 * k.val) 8)
/-- 32 bytes of four lanes. -/
def laneBytes (v : Vector DWord 4) : List Byte := v.toList.flatMap fun x => leBytes 8 x.toNat
/-- R453. -/
def execICld (eng : Fin 26) (cd : BitVec 4) (wa : BitVec 5) (imm : BitVec 17) (ue : Bool) (s : State) : Out :=
  s.run (idGo eng (.cld cd wa imm) one fun r b =>
    let a := eaOf (r.reg wa) imm.toInt
    checked b (lsChk a 32 8 false ++ [chk ue 0x80]) (.ok (r.setCreg cd (lanesOf (lsRead b eng.val a.toNat 32))) b))
/-- R453. -/
def execICst (eng : Fin 26) (cd : BitVec 4) (wa : BitVec 5) (imm : BitVec 17) (s : State) : Out :=
  s.run (idGo eng (.cst cd wa imm) one fun r b =>
    let a := eaOf (r.reg wa) imm.toInt
    checked b (lsChk a 32 8 true) (.ok r (lsWrite eng.val a.toNat (laneBytes (r.creg cd)) b)))
/-- R453. -/
def execICget (eng : Fin 26) (w : BitVec 5) (c : BitVec 4) (k : BitVec 2) (s : State) : Out :=
  s.run (idGo eng (.cget w c k) one fun r b => .ok (r.setReg w ((r.creg c)[k.toNat]'k.isLt)) b)
/-- R453. -/
def execICput (eng : Fin 26) (w : BitVec 5) (c : BitVec 4) (k : BitVec 2) (s : State) : Out :=
  s.run (idGo eng (.cput w c k) one fun r b => .ok (r.setCreg c ((r.creg c).set k.toNat (r.reg w) k.isLt)) b)
/-- R453. -/
def execICspl (eng : Fin 26) (w : BitVec 5) (c : BitVec 4) (s : State) : Out :=
  s.run (idGo eng (.cspl w c) one fun r b => .ok (r.setCreg c (Vector.replicate 4 (r.reg w))) b)

/-! Granary reads (R455). -/

/-- The check of a Granary access. -/
def granChk (a : Int) (n : Nat) : Chk := chk (a < 0 || (granSize : Int) < a + n) 0x08
/-- A Granary read after its checks: an uncorrectable error is counted by the Granary and is a program fault (R262). -/
def granRes (a : Int) (ue : Bool) (b : Block) (res : IdRes) : IdRes := if ue then .fault 0x09 (granReadUe a.toNat b) else res
/-- Size and sign of a Granary load. -/
def granForm : GranOp → Nat × Bool
  | .gld => (8, false)
  | .glw => (4, true)
  | .glwu => (4, false)
  | .glh => (2, false)
/-- A Granary load. -/
def idGran (eng : Fin 26) (op : GranOp) (rd ra : BitVec 5) (imm : BitVec 16) (ue : Bool) : Block → Block :=
  idGo eng (.gload op rd ra imm) one fun r b =>
    let a := eaOf (r.reg ra) imm.toInt
    checked b [granChk a (granForm op).1]
      (granRes a ue b (.ok (r.setReg rd (loadVal (granForm op).2 (readBytes b.granMem a.toNat (granForm op).1))) b))
/-- R455. -/
def execIGld (eng : Fin 26) (rd ra : BitVec 5) (imm : BitVec 16) (ue : Bool) (s : State) : Out := s.run (idGran eng .gld rd ra imm ue)
/-- R455. -/
def execIGlw (eng : Fin 26) (rd ra : BitVec 5) (imm : BitVec 16) (ue : Bool) (s : State) : Out := s.run (idGran eng .glw rd ra imm ue)
/-- R455. -/
def execIGlwu (eng : Fin 26) (rd ra : BitVec 5) (imm : BitVec 16) (ue : Bool) (s : State) : Out := s.run (idGran eng .glwu rd ra imm ue)
/-- R455. -/
def execIGlh (eng : Fin 26) (rd ra : BitVec 5) (imm : BitVec 16) (ue : Bool) (s : State) : Out := s.run (idGran eng .glh rd ra imm ue)
/-- R453. -/
def execIGldc (eng : Fin 26) (cd : BitVec 4) (wa : BitVec 5) (imm : BitVec 17) (ue : Bool) (s : State) : Out :=
  s.run (idGo eng (.gldc cd wa imm) one fun r b =>
    let a := eaOf (r.reg wa) imm.toInt
    checked b [granChk a 32] (granRes a ue b (.ok (r.setCreg cd (lanesOf (readBytes b.granMem a.toNat 32))) b)))
/-- The offset of the bale that a word in the layout of w4 names; all ones where it is not in its ring. -/
def baleOffset (b : Block) (v : DWord) : DWord :=
  let r := (v.extractLsb' 32 2).toNat
  match if (b.rate r).on then (b.rate r).bale (v.extractLsb' 0 32).toNat else none with
  | some x => BitVec.ofNat 64 (baleOfs b r x)
  | none => BitVec.allOnes 64
/-- R455. -/
def execIGbale (eng : Fin 26) (rd ra : BitVec 5) (s : State) : Out :=
  s.run (idGo eng (.gbale rd ra) one fun r b => .ok (r.setReg rd (baleOffset b (r.reg ra))) b)
/-- The cost of a copy: 1 and one for each 16 bytes begun (R467). -/
def copyCost (rb : BitVec 5) (r : Run) : Nat := 1 + ceilDiv (r.reg rb).toNat 16
/-- R455. -/
def execIGcpy (eng : Fin 26) (rd ra rb : BitVec 5) (ue : Bool) (s : State) : Out :=
  s.run (idGo eng (.gcpy rd ra rb) (copyCost rb) fun r b =>
    let n := (r.reg rb).toNat
    let a := eaOf (r.reg ra) 0
    let d := eaOf (r.reg rd) 0
    checked b ([chk (n = 0 || 4096 < n) 0x08, granChk a n] ++ lsChk d n 1 true)
      (granRes a ue b (.ok r (lsWrite eng.val d.toNat (readBytes b.granMem a.toNat n) b))))

/-! Heap (R427, R456). -/

/-- The check of a heap access of n bytes by an item. -/
def heapChk (it : Item) (a : Int) (n : Nat) : Chk := chk (it.heap.2 = 0 || a % 8 != 0 || a < 0 || (it.heap.2 : Int) < a + n) 0x0A
/-- The check of a copied length. -/
def copyChk (n : Nat) : Chk := chk (n < 8 || 4096 < n || n % 8 != 0) 0x0A
/-- A log entry is added, unless it would take the log past 64 KiB (R457). -/
def logAdd (e : LogEntry) (r : Run) (b : Block) : IdRes :=
  if 65536 < logSize (r.log ++ [e]) then .fault 0x10 b else .ok { r with log := r.log ++ [e] } b
/-- A heap store's log entry: the offset counts from the heap's start. -/
def heapStore (it : Item) (a : Nat) (l : List Byte) : LogEntry := ⟨5, 0, leBytes 8 (it.heap.1 + a) ++ l⟩
/-- Committed heap bytes of an item's region. -/
def heapRead (b : Block) (it : Item) (a n : Nat) : List Byte := readBytes b.ddr (heapBase + it.heap.1 + a) n
/-- R456. -/
def execIHld (eng : Fin 26) (rd ra : BitVec 5) (imm : BitVec 16) (s : State) : Out :=
  s.run (idGo eng (.hld rd ra imm) one fun r b =>
    let a := eaOf (r.reg ra) imm.toInt
    checked b [heapChk r.item a 8] (.ok (r.setReg rd (loadVal false (heapRead b r.item a.toNat 8))) b))
/-- R456. -/
def execIHst (eng : Fin 26) (rs ra : BitVec 5) (imm : BitVec 16) (s : State) : Out :=
  s.run (idGo eng (.hst rs ra imm) one fun r b =>
    let a := eaOf (r.reg ra) imm.toInt
    checked b [heapChk r.item a 8] (logAdd (heapStore r.item a.toNat (leBytes 8 (r.reg rs).toNat)) r b))
/-- R456. -/
def execIHrd (eng : Fin 26) (rd ra rb : BitVec 5) (s : State) : Out :=
  s.run (idGo eng (.hrd rd ra rb) (copyCost rb) fun r b =>
    let n := (r.reg rb).toNat
    let a := eaOf (r.reg ra) 0
    let d := eaOf (r.reg rd) 0
    checked b ([copyChk n, heapChk r.item a n] ++ lsChk d n 8 true) (.ok r (lsWrite eng.val d.toNat (heapRead b r.item a.toNat n) b)))
/-- R456. -/
def execIHwr (eng : Fin 26) (rd ra rb : BitVec 5) (ue : Bool) (s : State) : Out :=
  s.run (idGo eng (.hwr rd ra rb) one fun r b =>
    let n := (r.reg rb).toNat
    let a := eaOf (r.reg ra) 0
    let d := eaOf (r.reg rd) 0
    checked b ([copyChk n] ++ lsChk a n 8 false ++ [heapChk r.item d n, chk ue 0x80])
      (logAdd (heapStore r.item d.toNat (lsRead b eng.val a.toNat n)) r b))

/-! System instructions (R454) and effects (R457–R466). -/

/-- R454. -/
def execINop (eng : Fin 26) (s : State) : Out := s.run (idGo eng .nop one fun r b => .ok r b)
/-- R466: the item ends; an uncorrectable error in its log is a hardware fault (R430). -/
def idDone (eng : Fin 26) (logUe : Bool) (b : Block) : Block :=
  match (b.eng eng.val).run with
  | none => b
  | some r =>
    if !b.up || !fetchOk r.pc || decode (progAt b r.pc.toNat) != some .done then b
    else if r.item.budget < r.count + 1 then itemFault eng.val r 0x07 r.pc b
    else if logUe then itemFault eng.val r 0x81 r.pc b
    else itemDone eng.val { r with pc := r.pc + 4, count := r.count + 1 } b
/-- R466. -/
def execIDone (eng : Fin 26) (logUe : Bool) (s : State) : Out := s.run (idDone eng logUe)
/-- R443, R454. -/
def execITime (eng : Fin 26) (rd rb : BitVec 5) (s : State) : Out :=
  s.run (idGo eng (.time rd rb) one fun r b =>
    let t := if r.item.ordered then r.item.t else b.now
    let f := if r.item.ordered then 0 else fracOf t
    .ok ((r.setReg rd (BitVec.ofNat 64 (secOf t))).setReg rb (BitVec.ofNat 64 (nsOf t % 2 ^ 30 * 2 ^ 16 + f))) b)
/-- R454: BUDGET less the count after this instruction. -/
def execIBudl (eng : Fin 26) (rd : BitVec 5) (s : State) : Out :=
  s.run (idGo eng (.budl rd) one fun r b => .ok (r.setReg rd (BitVec.ofNat 64 (r.item.budget - r.count))) b)
/-- R457, R460. -/
def execISpush (eng : Fin 26) (rd ra rb : BitVec 5) (ue : Bool) (s : State) : Out :=
  s.run (idGo eng (.spush rd ra rb) one fun r b =>
    let n := (r.reg rb).toNat
    let a := eaOf (r.reg ra) 0
    let q := (r.reg rd).toNat
    let data := [(0x07 : Byte), BitVec.ofNat 8 (n - 1)] ++ (lsRead b eng.val a.toNat (64 * n)).drop 2
    checked b ([chk (n = 0 || 256 < n) 0x0B] ++ lsChk a (64 * n) 64 false
        ++ [chk (a < 0x20000) 0x0B, chk (q != 63 && q != 0x40) 0x0B, chk ue 0x80])
      (logAdd ⟨1, q, data⟩ r b))
/-- An engine pops from a silo: the entry, whether the silo was empty, COUNT after the pop (R195, R461). -/
def engPop (p q : Nat) (b : Block) : List Byte × Bool × Nat × Block :=
  match siloTake q b with
  | (some e, c) => (e, false, (c.silo q).q.length, modEng p (fun s => { s with popped := mput [] s.popped q e }) c)
  | (none, c) => (padTo 64 (mget [] (b.eng p).popped q), true, 0, c)
/-- R461. -/
def execISpop (eng : Fin 26) (rd ra rb : BitVec 5) (s : State) : Out :=
  s.run (idGo eng (.spop rd ra rb) one fun r b =>
    let q := (r.reg ra).toNat
    let d := eaOf (r.reg rb) 0
    let (e, empty, n, c) := engPop eng.val q b
    checked b ([chk (q < 48 || 55 < q) 0x0B] ++ lsChk d 64 64 true ++ [chk r.item.ordered 0x0B])
      (.ok (r.setReg rd (BitVec.ofNat 64 (b01 empty * 2 ^ 63 + n % 2 ^ 15))) (lsWrite eng.val d.toNat e c)))
/-- R462. -/
def execIRaise (eng : Fin 26) (ra : BitVec 5) (s : State) : Out :=
  s.run (idGo eng (.raise ra) one fun r b =>
    let ch := (r.reg ra).toNat
    checked b [chk (31 < ch) 0x0C, chk (decide (ch < 16) != r.item.ordered) 0x0C, chk (ch < 16 && r.item.d = 3) 0x0D]
      (logAdd ⟨2, ch, []⟩ r b))
/-- R463. -/
def execIAset (eng : Fin 26) (ra rb : BitVec 5) (s : State) : Out :=
  s.run (idGo eng (.aset ra rb) one fun r b =>
    let src := (r.reg ra).toNat
    checked b [chk (255 < src) 0x0E, chk (ownerNow b src != 4) 0x0E, chk (!r.item.ordered) 0x0E]
      (logAdd ⟨3, src, leBytes 8 (b01 ((r.reg rb).getLsbD 0))⟩ r b))
/-- R464. -/
def execIErec (eng : Fin 26) (rd ra rb : BitVec 5) (s : State) : Out :=
  s.run (idGo eng (.erec rd ra rb) one fun r b =>
    let code := (r.reg rd).toNat
    checked b [chk (code < 0xC00 || 0xFFF < code) 0x0F]
      (logAdd ⟨4, code, leBytes 4 (r.reg ra).toNat ++ leBytes 4 (r.reg rb).toNat⟩ r b))
/-- R465. -/
def execILsend (eng : Fin 26) (ra : BitVec 5) (ue : Bool) (s : State) : Out :=
  s.run (idGo eng (.lsend ra) one fun r b =>
    let a := eaOf (r.reg ra) 0
    checked b (lsChk a 64 64 false ++ [chk ue 0x80]) (logAdd ⟨6, 0, lsRead b eng.val a.toNat 64⟩ r b))
/-- R445, R450: no instruction can be fetched or decoded at the item's pc. -/
def execIllegalInstruction (eng : Fin 26) (ecc : Bool) (s : State) : Out :=
  s.run fun b => match (b.eng eng.val).run with
    | none => b
    | some r =>
      if !b.up then b
      else if !fetchOk r.pc then itemFault eng.val r 0x02 r.pc b
      else if ecc then itemFault eng.val r 0x80 r.pc b
      else if (decode (progAt b r.pc.toNat)).isNone then itemFault eng.val r 0x01 r.pc b
      else b

end Sys2Proof.Machine
end

