-- ==== Sys2Proof/Machine/Image.lean ====
section
/-! DEFINITION. The settings image as a slot of the MRAM holds it: its header, a section for each page and one for each
table (R516). -/

namespace Sys2Proof.Machine
open Sys2Proof

/-- A table section: first address, entries, bytes from one entry to the next, and the runs of bytes of an entry that the
image holds. -/
structure TableSection where
  start : Nat
  count : Nat
  stride : Nat
  runs : List (Nat × Nat)
deriving DecidableEq, Repr

/-- The table sections, in ascending BAR0 offset, the calibration table after the stream table (R41, R516). Left out are
the reserved bytes and those that the part writes, as the owning chapters' tables give them; an entry's bytes come to the
number that R516 states. -/
def tableSections : List TableSection :=
  [ ⟨0x100000, 8128, 128, [(0, 13), (14, 5), (20, 12)]⟩, ⟨0x1FE000, 64, 128, [(0, 13), (14, 5), (20, 12), (64, 64)]⟩,
    ⟨0x2000000, 65536, 16, [(0, 16)]⟩, ⟨0x200000, 256, 32, [(0, 23)]⟩, ⟨0x204000, 64, 256, [(0, 7), (8, 4), (64, 192)]⟩,
    ⟨0x300000, 16, 0x1000, [(0, 0xC0C)]⟩, ⟨0x320000, 2, 0x1000, [(0, 2048)]⟩, ⟨0x322000, 2, 0x1000, [(0, 1024)]⟩,
    ⟨0x400000, 512, 64, [(0, 19)]⟩, ⟨0x410000, 4096, 64, [(0, 36)]⟩, ⟨0x500000, 64, 2048, [(0, 28), (64, 1152)]⟩,
    ⟨0x540000, 256, 32, [(0, 20)]⟩, ⟨0x542000, 16, 64, [(0, 22)]⟩, ⟨0x550000, 64, 256, [(0, 21), (24, 224)]⟩,
    ⟨0x580000, 16, 256, [(0, 104)]⟩, ⟨0x600000, 32, 256, [(0, 48), (64, 128)]⟩, ⟨0x700000, 1024, 64, [(0, 2), (4, 24), (32, 32)]⟩,
    ⟨0x740000, 4096, 16, [(0, 5)]⟩ ]
/-- Bytes of one entry in a section. -/
def TableSection.entryLen (t : TableSection) : Nat := sumN (t.runs.map (·.2))
/-- Bytes of the table sections. -/
def tablesLen : Nat := sumN (tableSections.map fun t => t.count * t.entryLen)
/-- The value of a setting in a snapshot: the factory's where none is listed. -/
def snapWord (ws : WMap) (a : Nat) : Word := mget (regDefault a) ws a
/-- A byte of a table in a snapshot. -/
def snapByte (ws : WMap) (a : Nat) : Byte := nth (leBytes 4 (snapWord ws (a / 4 * 4)).toNat) (a % 4) 0
/-- A table's section. -/
def tableImage (ws : WMap) (t : TableSection) : List Byte :=
  (List.range t.count).flatMap fun i => t.runs.flatMap fun r => (List.range r.2).map fun k => snapByte ws (t.start + t.stride * i + r.1 + k)
/-- The class N words of a page in ascending offset; in PHEST's place of PE_CH_PU and PE_CH_CTL stand those of every channel
(DESIGN CHOICE 159: R516 is silent on words behind an index). -/
def pageWords (p : Nat) : List Nat :=
  (List.range 0x400).flatMap fun i =>
    let a := pg p (4 * i)
    if p = 0x24 && (i = 0x11 || i = 0x12) then (List.range 528).map fun c => 0x3000000 + 16 * c + 4 * (i - 0x11)
    else if isSetting a then [a] else []
/-- A page's section: its lead, then its words. -/
def pageImage (ws : WMap) (p : Nat) : List Byte :=
  let l := pageWords p
  leBytes 4 (p * 2 ^ 16 + l.length) ++ l.flatMap fun a => leBytes 4 (snapWord ws a).toNat
/-- The header of an image of so many bytes, without its CRC. -/
def imageHead (s : SetSlot) (len : Nat) : List Byte := leBytes 4 0x53455431 ++ leBytes 4 s.gen ++ leBytes 4 s.schema ++ leBytes 4 len ++ zeros 44
/-- The settings image of a slot (R516): the CRC covers the whole image with its own field taken as 0. -/
def settingsImage (s : SetSlot) : List Byte :=
  let body := allPages.flatMap (pageImage s.words) ++ tableSections.flatMap (tableImage s.words)
  let head := imageHead s (64 + body.length)
  head ++ leBytes 4 (crc32c (head ++ zeros 4 ++ body)) ++ body

end Sys2Proof.Machine
end

