-- ==== Sys2Proof/Machine/Pair.lean ====
section
/-! DEFINITION. Paired operation (R471–R502): the pair link, the lease line, mirroring on the standby, digests,
arbitration, takeover and release. -/

namespace Sys2Proof.Machine
open Sys2Proof

/-! What a member knows of itself and its partner (R471, R472). -/

/-- The latched straps, in the order of R79. -/
def ownStraps (b : Block) : BitVec 4 := BitVec.ofNat 4 (b.f (pg 0x00 0x050) 3 0)
/-- The members' straps disagree on seniority or on the witness (R472). -/
def strapConflict (b : Block) (h : PlHello) : Bool :=
  h.straps.getLsbD 1 == (ownStraps b).getLsbD 1 || h.straps.getLsbD 2 != (ownStraps b).getLsbD 2
/-- Seniority in effect: the lower identity's where the straps agree (R472). -/
def Block.senior (b : Block) : Bool :=
  let own := (ownStraps b).getLsbD 1
  match b.pair.partner with
  | some h => if h.straps.getLsbD 1 = own then decide (Config.deviceId.toNat < h.identity.toNat) else own
  | none => own
/-- The witness decides: strapped on both members, and not found faulty (R472, R492). -/
def Block.witness (b : Block) : Bool :=
  (ownStraps b).getLsbD 2 && !b.pair.lease.witFault && (b.pair.partner.all fun h => h.straps.getLsbD 2)
/-- Own LEASE_MS. -/
def ownLease (b : Block) : Nat := b.f (pg 0x60 0x040) 22 16
/-- P in ms: the larger of both members' (R472). -/
def leaseMs (b : Block) : Nat := match b.pair.partner with
  | some h => max (ownLease b) h.leaseMs
  | none => ownLease b
/-- P. -/
def leaseP (b : Block) : Gt := gtMs (leaseMs b)
/-- G. -/
def leaseG : Gt := gtMs 2
/-- Changes the lease line's state. -/
def modLease (f : LeaseSt → LeaseSt) (b : Block) : Block := modPair (fun p => { p with lease := f p.lease }) b
/-- Claim-ready (R474). -/
def claimReady (b : Block) : Bool :=
  b.running && b.dev.step == .done && b.time.valid && b.bist.level != 2 && !b.t (pg 0x60 0x084) 0
/-- The partner's heartbeats show it HOLDING while the link is up (R491). -/
def partnerHolds (b : Block) : Bool := b.pair.linkUp && b.pair.beat.any (·.holding)
/-- The standby's lag in ms (R478). -/
def lagMs (b : Block) : Nat := (b.pair.markRx - b.mark) / gtMs 1
/-- A linked standby. -/
def Block.linked (b : Block) : Bool := b.pair.role == .standby || b.pair.role == .converging
/-- The PAIR page is degraded while a conflict or a lease-wire fault stands (R472, R491). -/
def pairDegrade (b : Block) : Block :=
  let c := b.pair.partner.any fun h => strapConflict b h || h.leaseMs != ownLease b
  stsBit 0x60 2 (c || b.pair.lease.wireFault) b

/-! Frames (R482–R485). -/

/-- A lane carries frames. -/
def linkTrained (b : Block) : Bool := b.member && b.up && !b.inReset 0x09 && b.pair.lanes != 0
/-- T_r of a request made now: the first lead-rate bale time at least 100 ms later (R481). -/
def rejoinTime (b : Block) : Gt :=
  let t := b.now + gtMs 100
  match leadRate b with
  | some r => nextInst (b.rateHz r) (t - 1)
  | none => t
/-- HELLO as this member sends it (R471). -/
def ownHello (b : Block) (rejoin : Bool) : PlHello :=
  { identity := Config.deviceId, straps := ownStraps b, govern := b.mode.govern, leaseMs := ownLease b, rejoin := rejoin,
    digest := sharedDigest b, image := imageVersions b }
/-- Sends HELLO; a detached standby's asks to rejoin (R481). -/
def sendHello (b : Block) : Block :=
  let det := b.pair.role == .detached
  b |> plSend (.hello (ownHello b (det || b.pair.rejoin)))
    |> modPair (fun p => { p with
        helloSent := true, helloAt := some b.mono, rejoinAt := if det then some (rejoinTime b) else p.rejoinAt })
/-- A detached standby asks to rejoin where the link is up. -/
def requestRejoin (b : Block) : Block := onlyIf (b.pair.role == .detached && b.pair.linkUp && b.pair.formed) sendHello b
/-- R471: HELLO, every 10 ms until both have been sent and received. -/
def execHelloTx (s : State) : Out :=
  s.run fun b =>
    let due := match b.pair.helloAt with
      | some t => decide (t + gtMs 10 ≤ b.mono)
      | none => true
    if linkTrained b && due && !(b.pair.formed && b.pair.helloSent) then sendHello b else b
/-- R485: HEARTBEAT, every 250 µs. -/
def execHeartbeatTx (lane : Fin 2) (s : State) : Out :=
  s.run fun b =>
    let on := if b.pair.lanes.getLsbD lane.val then lane.val else 1 - lane.val
    let due := match b.pair.beatAt with
      | some t => decide (t + gtNs 250000 ≤ b.mono)
      | none => true
    if !linkTrained b || !due then b else
    b |> plSend (.heartbeat {
          stamp := shortNat (stampNow b (pg 0x02 (0x100 + 4 * on))), holding := b.pair.holding, inStep := b.pair.role == .standby,
          converging := b.pair.role == .converging, health := b.bist.level, govern := b.mode.govern, ready := claimReady b,
          lagMs := if b.linked then satU 16 (lagMs b) else 0 })
      |> modPair (fun p => { p with beatAt := some b.mono }) |> usedFree
/-- R482: an ACK-only frame. -/
def execAckTx (s : State) : Out := s.run fun b => onlyIf (linkTrained b) (plSend .ack) b
/-- Frames up to an acknowledged SEQ are free. -/
def rtxDrop (ack : Nat) (l : List (Nat × Gt × PlMsg)) : List (Nat × Gt × PlMsg) :=
  if l.any fun e => e.1 = ack then (l.dropWhile fun e => e.1 != ack).drop 1 else l
/-- What a frame of any type does at its arrival: counted, discarded where its CRC is bad; else its acknowledgement, its
liveness, its place in the sequence: a gap returns a NAK and the frame waits to be sent again (R482, R483, R485). A HELLO
that starts its sender's sequence anew starts the receiver's. -/
def plArrive (hd : PlHead) (msg : PlMsg) (f : Block → Block) (b : Block) : Block :=
  if !linkTrained b then b
  else if !hd.good then cnt (pg 0x09 0x220) b
  else
    let fresh := match msg with
      | .hello _ => hd.seq = 1 && !hd.again && b.pair.rxSeq != 0
      | _ => false
    let c := b |> cnt (pg 0x09 0x208) |> onlyIf fresh plLost
      |> modPair (fun p => { p with lastRx := b.mono, lanesRx := p.lanes, rtx := rtxDrop hd.ack p.rtx })
      |> onlyIf (!b.pair.linkUp) (fun b => b |> modPair (fun p => { p with linkUp := true }) |> irq 0x60 2 |> irq 0x09 0)
    if !plSequenced msg then f c
    else
      let next := (c.pair.rxSeq + 1) % 2 ^ 32
      if hd.seq = next then c |> modPair (fun p => { p with rxSeq := next, nakSent := none }) |> f
      else if (hd.seq + 2 ^ 32 - next) % 2 ^ 32 < 2 ^ 31 && c.pair.nakSent != some next then
        c |> cnt (pg 0x09 0x228) |> modPair (fun p => { p with nakSent := some next }) |> plSend (.nak next)
      else c
/-- R482: an ACK-only frame arrives. -/
def execPlAckRx (hd : PlHead) (s : State) : Out := s.run (plArrive hd .ack id)
/-- R482: a NAK arrives; what is not acknowledged is sent again from the missing SEQ. -/
def execPlNakRx (hd : PlHead) (missing : BitVec 32) (s : State) : Out :=
  s.run (plArrive hd (.nak missing.toNat) fun b =>
    forEach (b.pair.rtx.dropWhile fun e => e.1 != missing.toNat) (fun e b => b |> plEmit e.1 true e.2.2 |> cnt (pg 0x09 0x218)) b)
/-- R482: a frame stays unacknowledged for 1 ms. -/
def execPlRetxTimeout (s : State) : Out :=
  s.run fun b => match b.pair.rtx.head? with
  | some e => if b.member && e.2.1 + gtMs 1 ≤ b.mono then plLost b else b
  | none => b
/-- The link goes down; the record names the lanes that were up at the last valid frame (R485, R502). -/
def linkDown (b : Block) : Block :=
  b |> modPair (fun p => { p with linkUp := false, beat := none }) |> pairEvr 0x801 b.pair.lanesRx.toNat 0 |> irq 0x60 2 |> irq 0x09 0
    |> plLost
/-- R485: no valid frame within PL_HB_TO. -/
def execPairLinkTimeout (s : State) : Out :=
  s.run fun b =>
    if b.pair.linkUp && b.pair.lastRx + gtNs (b.f (pg 0x09 0x048) 16 0 * 1000) ≤ b.mono then b |> cnt (pg 0x09 0x238) |> linkDown
    else b
/-- R471, R482, R500: a lane gains or loses block lock; lanes train from the restore of the settings on. -/
def execPairLinkLaneChange (lane : Fin 2) (lock : Bool) (s : State) : Out :=
  s.run fun b =>
    let m := 1#2 <<< lane.val
    let en := b.t (pg 0x09 0x040) lane.val
    let was := b.pair.lanes.getLsbD lane.val
    let now := lock && en && b.member && b.linesOn && !b.inReset 0x09
    if was = now then b else
    b |> modPair (fun p => { p with lanes := if now then p.lanes ||| m else p.lanes &&& ~~~m })
      |> onlyIf (!now) (cnt (pg 0x09 0x230)) |> irq 0x09 1

/-! Release and takeover (R487, R493, R494). -/

/-- A holder releases the role (R487, R379): 0 renewal check, 1 request, 2 divergence, 3 Keep or reset, 4 witness,
5 both holding. -/
def release (cause : Nat) (b : Block) : Block :=
  if !b.pair.holding then b else
  b |> modPair (fun p => { p with holding := false, acting := true, faults := [] })
    |> modLease (fun l => { l with claimAt := none, pulseAt := none, ownAt := l.pulseAt, lost := false })
    |> setRole .noRole |> sbAlert 4 |> govHold |> plSend (.release b.now b.pair.lastMirror) |> cnt (pg 0x60 0x240) |> pairEvr 0x803 cause 0
/-- The records that a new holder still finishes: those stamped before T_take. -/
def inqBefore (b : Block) (t : Gt) : List (Nat × PlMsg) :=
  b.pair.inq.filter fun e => match e.2 with
    | .mirror l => decide (widen b.now (leAt l 0 10) < t)
    | _ => true
/-- The last MIRROR SEQ that is taken, once the received records are finished. -/
def lastTaken (b : Block) : Nat :=
  ((b.pair.inq.filterMap fun e => match e.2 with
    | .mirror _ => some e.1
    | _ => none).getLast?).getD b.pair.rxMirror
/-- The next bale that a takeover replays (R494). -/
def takeReplay (b : Block) : Block :=
  match b.pair.takeReplays with
  | [] => b
  | e :: l => if b.gran.replay.isSome then b else b |> modPair (fun p => { p with takeReplays := l }) |> replayStart e.1 e.2 2
/-- This member takes the role (R493): 0 lease expired, 1 released, 2 witness. -/
def takeRole (cause : Nat) (b : Block) : Block :=
  let t := b.now
  let was := b.linked
  let inq := inqBefore b t
  let c := b |> modPair (fun p => { p with
      holding := true, acting := false, inq := inq, takeAt := if was then some t else none, rejoinAt := none, rejoin := false,
      mirroring := p.linkUp && p.formed, mirrorFrom := t, takeReplays := p.arbs.map fun x => (x.rate, x.idx) })
  let c := c |> dropDigests |> modPair (fun p => { p with faults := [] })
    |> modLease (fun l => { l with
        claimAt := none, backoff := none, witAt := none, released := false, lost := false, pulseAt := some b.mono,
        holdFrom := none })
    |> emit (.lease 1) |> setRole .active |> govUnhold |> almDrive
    |> wn (pg 0x60 0x060) (secOf t) |> wn (pg 0x60 0x064) (secOf t / 2 ^ 32) |> wn (pg 0x60 0x068) (nsOf t)
    |> cnt (pg 0x60 0x238)
  c |> pairEvr 0x802 cause (lastTaken c) |> drainInq 4096 |> mirrorEnd |> takeReplay
/-- Frames at the Gleaner's door and the watermark when a member starts to follow its partner's records (R475, R476). -/
def follow (b : Block) : Block :=
  let m := b.mark
  b |> cntBy (pg 0x60 0x258) (b.ports.toList.filter fun p => p.atGlean.isSome).length
    |> forEach [0, 1, 2, 3] (fun p => bufLeave p fun s => { s with atGlean := none })
    |> modGlean (fun g => { g with stby := some m }) |> modPair (fun p => { p with markRx := m, lagOverAt := none, takeAt := none })
/-- A member that has stopped acting sees its partner act (R379, R493): it follows where the link is up. -/
def yields (b : Block) : Block :=
  let c := b |> modPair (fun p => { p with acting := false, mirroring := false, compareFrom := b.now + 1 }) |> govUnhold
  let d := if c.pair.linkUp && c.pair.formed then c |> setRole .standby |> follow else setRole .detached c
  almDrive d
/-- The partner is seen to hold the role: a member without one becomes its standby. In Keep and
in a reset LEASE_IN is only observed (R496). -/
def seesHolder (b : Block) : Block :=
  if b.pair.holding || !b.up then b
  else if b.pair.acting then yields b
  else if b.pair.role == .forming || b.pair.role == .noRole then b |> setRole .detached |> requestRejoin
  else b

/-! The lease line (R486–R491). -/

/-- The partner's lease has run out: released, or no HOLD pulse for P + G (R487). -/
def leaseOut (b : Block) : Bool :=
  b.pair.lease.released || decide (b.pair.lease.holdAt.getD b.pair.lease.startAt + leaseP b + leaseG ≤ b.mono)
/-- LEASE_ALIVE. -/
def leaseAlive (b : Block) : Bool := b.pair.lease.holdAt.isSome && !leaseOut b
/-- The claim delay: one period for the junior before its first sight of a HOLD pulse, else none (R488). -/
def claimDelay (b : Block) : Gt := if b.senior || b.pair.lease.seen || b.pair.lease.delayDone then 0 else leaseP b
/-- The moment from which R488 allows the role. -/
def claimFrom (b : Block) : Gt :=
  (if b.pair.lease.released then b.pair.lease.relAt else b.pair.lease.holdAt.getD b.pair.lease.startAt + leaseP b + leaseG)
    + claimDelay b
/-- A lease that has run out while heartbeats show HOLDING is a lease-wire fault (R491). -/
def wireCheck (b : Block) : Block :=
  if b.member && !b.pair.holding && leaseOut b && partnerHolds b && !b.pair.lease.released && !b.pair.lease.wireFault then
    b |> modLease (fun l => { l with wireFault := true }) |> pairEvr 0x805 0 0 |> irq 0x60 1 |> sbAlert 4
      |> pairDegrade
  else b
/-- This member may claim now, but for the time. -/
def mayClaim (b : Block) : Bool :=
  b.member && !b.pair.holding && claimReady b && !partnerHolds b && !b.witness
/-- A CLAIM pulse is sent (R489). -/
def claimStart (b : Block) : Block :=
  b |> modLease (fun l => { l with claimAt := some b.mono, backoff := none }) |> emit (.lease 2)
/-- R489: the claim starts G before the moment that R488 allows. -/
def execLeaseClaim (s : State) : Out :=
  s.run fun b =>
    if mayClaim b && b.pair.lease.claimAt.isNone && b.pair.lease.backoff.isNone && claimFrom b ≤ b.mono + leaseG then
      b |> modLease (fun l => { l with contend := 0 }) |> claimStart
    else b
/-- R489: G has passed after the CLAIM pulse with no answer. -/
def execClaimGuardEnd (s : State) : Out :=
  s.run fun b => match b.pair.lease.claimAt with
  | none => b
  | some t =>
    if b.mono < t + leaseG then b
    else if mayClaim b && leaseOut b && claimFrom b ≤ b.mono then takeRole (b01 b.pair.lease.released) b
    else modLease (fun l => { l with claimAt := none }) b
/-- R489: the back-off after a contention ends. -/
def execClaimBackoffExpire (s : State) : Out :=
  s.run fun b => match b.pair.lease.backoff with
  | none => b
  | some t =>
    if b.mono < t then b
    else if mayClaim b then claimStart b
    else modLease (fun l => { l with backoff := none }) b
/-- R488: the junior's claim delay runs out. -/
def execClaimDelayExpire (s : State) : Out :=
  s.run fun b =>
    if b.member && !b.pair.holding && !b.senior && !b.pair.lease.seen && claimFrom b ≤ b.mono then
      modLease (fun l => { l with delayDone := true }) b
    else b
/-- Neither member's HOLD pulse has been seen for P + G, so that none holds the role (R63). -/
def leaseLost (b : Block) : Bool :=
  !b.pair.holding
    && decide (max (b.pair.lease.holdAt.getD b.pair.lease.startAt) (b.pair.lease.ownAt.getD 0) + leaseP b + leaseG ≤ b.mono)
/-- R487: the partner's lease runs out; R63: no member holds the role. -/
def execLeaseExpire (s : State) : Out :=
  s.run fun b =>
    if !b.member || !b.aon then b else
    let c := if !b.pair.lease.lost && leaseLost b then b |> modLease (fun l => { l with lost := true }) |> sbAlert 4 else b
    if !c.pair.lease.expired && leaseOut c then c |> modLease (fun l => { l with expired := true, holdFrom := none }) |> wireCheck
    else c
/-- b_k of R489. -/
def claimBits (k : Nat) : Nat := Config.deviceId.toNat / 2 ^ (4 * (k % 16)) % 16
/-- Contention of two claims (R489). -/
def contention (b : Block) : Block :=
  let k := b.pair.lease.contend
  let w := (1 + claimBits k) * leaseP b / 4 + (if b.senior then 0 else 2 * (leaseP b + leaseG))
  b |> modLease (fun l => { l with claimAt := none, contend := k + 1, backoff := some (b.mono + w) })
    |> cnt (pg 0x60 0x248) |> pairEvr 0x804 k 0
/-- Which of two holders releases (R490). -/
def bothYield (b : Block) : Bool := match b.pair.partner with
  | some h =>
    if h.straps.getLsbD 1 = (ownStraps b).getLsbD 1 then !b.pair.linkUp || decide (h.identity.toNat < Config.deviceId.toNat)
    else !b.senior
  | none => !b.senior
/-- A HOLD pulse of the partner (R486–R493). -/
def holdPulse (b : Block) : Block :=
  let l := b.pair.lease
  let gap := !(l.holdAt.any fun t => b.mono ≤ t + leaseP b)
  let c := b |> modLease (fun l => { l with
      holdAt := some b.mono, shownAt := some b.mono, seen := true, released := false, expired := false, lost := false, claimAt := none, backoff := none,
      holdFrom := if gap || l.holdFrom.isNone then some b.mono else l.holdFrom, wireFault := false })
    |> modLease (fun l => { l with
      witAt := if l.witHeld then l.witAt else l.witAt.map (· + leaseG), witHeld := l.witHeld || l.witAt.isSome })
    |> pairDegrade
  if c.pair.holding then
    onlyIf ((c.pair.lease.holdFrom.any fun t => t + leaseP c ≤ c.mono) && bothYield c) (release 5) c
  else seesHolder c
/-- A CLAIM pulse of the partner: a holder answers it, and a claim of one's own meets it. -/
def claimPulse (b : Block) : Block :=
  if b.pair.holding then emit (.lease 1) b
  else if b.pair.lease.claimAt.isSome then contention b
  else b
/-- R486: a pulse on LEASE_IN, by its width. -/
def execLeasePulseRx (widthNs : Nat) (s : State) : Out :=
  s.run fun b =>
    if !b.member || !b.aon || widthNs < 200 then b
    else if 400 ≤ widthNs && widthNs ≤ 2000 then b |> modLease (fun l => { l with lastClass := 1 }) |> holdPulse
    else if 3500 ≤ widthNs && widthNs ≤ 7000 then b |> modLease (fun l => { l with lastClass := 2 }) |> claimPulse
    else b |> modLease (fun l => { l with lastClass := 3 }) |> cnt (pg 0x60 0x250)
/-- R490: a renewal instant: the holder checks itself and drives a HOLD pulse, or releases. -/
def execLeaseRenewal (readHigh : Bool) (s : State) : Out :=
  s.run fun b => match b.pair.lease.pulseAt with
  | none => b
  | some t =>
    if !b.pair.holding || b.mono < t + leaseP b / 4 then b
    else if claimReady b && readHigh && b.mono ≤ t + leaseP b / 4 + gtNs 1000 then
      b |> emit (.lease 1) |> modLease fun l => { l with pulseAt := some b.mono }
    else release 0 b

/-! The witness (R492). -/

/-- R492: an edge of the filtered WIT_N. -/
def execWitnessEdge (high : Bool) (s : State) : Out :=
  s.run fun b =>
    let c := { b with balls := { b.balls with witN := high } }
    if !c.member || !c.aon then c
    else
      let c := if high then modLease (fun l => { l with witFault := false, witAt := none, witHeld := false }) c else c
      if !c.witness then c
      else if high then release 4 c
      else if claimReady c && !c.pair.holding then modLease (fun l => { l with witAt := some c.mono, witHeld := false }) c
      else c
/-- R492: G after the fall of WIT_N, twice G where a HOLD pulse was seen. -/
def execWitnessGrantGuardEnd (s : State) : Out :=
  s.run fun b => match b.pair.lease.witAt with
  | none => b
  | some t =>
    if b.mono < t + leaseG then b
    else if b.witness && !b.balls.witN && claimReady b && !b.pair.holding then takeRole 2 b
    else modLease (fun l => { l with witAt := none }) b
/-- R492: both WIT_N have been low for more than 10 ms: the witness counts as faulty. -/
def execWitnessFaultTimeout (s : State) : Out :=
  s.run fun b =>
    if b.member && b.aon && b.witness && !b.balls.witN then modLease (fun l => { l with witFault := true, witAt := none }) b else b

/-! HELLO and heartbeats (R471, R472, R485). -/

/-- The shared settings are sent in frames of 8,192 bytes; a shorter one is the last. -/
def sendSettings (b : Block) : Block :=
  let l := sharedImage b
  forEach (List.range (l.length / 8192 + 1)) (fun i => plSend (.settings (8192 * i) (slice l (8192 * i) 8192))) b
/-- T_eff of a mode that takes force from now (R28). -/
def modeTime (b : Block) : Gt := match leadRate b with
  | some r => nextInst (b.rateHz r) b.now
  | none => b.now
/-- What the active member does with a partner's HELLO: its mode, or the change of mode that pends, and its
settings go over where they differ, and a rejoin is fixed (R30, R473, R481). -/
def helloActive (h : PlHello) (b : Block) : Block :=
  let c := if h.digest = sharedDigest b then b else sendSettings b
  let c := match c.mode.pend with
    | some (m, te) => plSend (.mode m te) c
    | none => if h.govern = c.mode.govern then c else plSend (.mode c.mode.govern (modeTime c)) c
  if h.rejoin then modPair (fun p => { p with mirroring := true, mirrorFrom := rejoinTime b, markTx := 0 }) c else c
/-- R472: a HELLO arrives. -/
def execPlHelloRx (hd : PlHead) (h : PlHello) (s : State) : Out :=
  s.run (plArrive hd (.hello h) fun b =>
    let new := !b.pair.formed
    let c := modPair (fun p => { p with partner := some h, formed := true }) b
    let c := if !new then c else
      c |> onlyIf (strapConflict c h) (pairEvr 0x806 (ownStraps c).toNat h.straps.toNat)
        |> onlyIf (h.leaseMs != ownLease c) (pairEvr 0x807 (ownLease c) h.leaseMs)
        |> pairEvr 0x800 h.identity.toNat 0 |> onlyIf (c.pair.role == .forming) (setRole .noRole) |> updState false
    let c := c |> wn64 (pg 0x60 0x050) h.identity.toNat |> pairDegrade
    let c := if c.pair.holding then helloActive h c else c
    let c := onlyIf (!c.pair.helloSent) sendHello c
    onlyIf (partnerHolds c || leaseAlive c) seesHolder c)
/-- R485: a HEARTBEAT arrives: the partner's state, and the link's delay from the stamps at both ends (R118). -/
def execPlHeartbeatRx (hd : PlHead) (h : PlBeat) (lane : Fin 2) (ago : Nat) (s : State) : Out :=
  s.run (plArrive hd (.heartbeat h) fun b =>
    let sent := widen b.now h.stamp
    b |> modPair (fun p => { p with
          beat := some h, partner := p.partner.map fun q => { q with govern := h.govern } })
      |> wn (pg 0x09 0x058) (satU 32 ((stampAgo b (pg 0x02 (0x0F8 + 4 * lane.val)) ago - sent) / 65536)) |> wireCheck |> onlyIf h.holding seesHolder)

/-! What the standby takes (R475, R473, R479–R481). -/

/-- T_r has come: a new journal epoch, and the mirror from here on (R481). -/
def rejoinNow (b : Block) : Block :=
  b |> jrnEpoch |> setRole .converging |> dropDigests
    |> modPair (fun p => { p with rejoinAt := none, rejoin := false, compareFrom := b.pair.rejoinAt.getD b.now, inq := [], wq := [] })
    |> follow |> pairEvr 0x80C 0 0
/-- R481: T_r is reached. -/
def execRejoinEpoch (s : State) : Out :=
  s.run fun b => match b.pair.rejoinAt with
  | some t => if b.pair.role == .detached && b.pair.linkUp && b.running && t ≤ b.now then rejoinNow b else b
  | none => b
/-- A record of the mirror stamped t: a detached standby whose T_r is not later starts to take it. -/
def mirrorFor (t : Gt) (f : Block → Block) (b : Block) : Block :=
  if b.linked then f b
  else match b.pair.rejoinAt with
  | some r => if b.pair.role == .detached && b.running && r ≤ t then f (rejoinNow b) else b
  | none => b
/-- A message takes its place in the Gleaner's order. -/
def plQueue (seq : Nat) (m : PlMsg) (b : Block) : Block :=
  b |> modPair (fun p => { p with inq := p.inq ++ [(seq, m)] }) |> drainInq 4096
/-- A MIRROR record of a frame or local entry: it is journalled at once. -/
def mirrorRecord (hd : PlHead) (l : List Byte) (b : Block) : Block :=
  let t := widen b.now (leAt l 0 10)
  mirrorFor t (fun b =>
    b |> jrnPut t (l ++ freeBytes b (ceilDiv l.length 64 * 64 - l.length)) |> plQueue hd.seq (.mirror l)) b
/-- R475: a MIRROR record arrives: a frame's or local entry's journal record, or a W-path sample of R20, for whose record
the manual gives no form: it waits for the trackers and is not put in the ring. -/
def execPlMirrorRx (hd : PlHead) (record : PlMsg) (s : State) : Out :=
  s.run (match record with
    | .mirror l => plArrive hd (.mirror l) (mirrorRecord hd l)
    | .wpath sig g v ok => plArrive hd (.wpath sig g v ok) fun b => onlyIf b.linked (plQueue hd.seq (.wpath sig g v ok)) b
    | _ => id)
/-- The lag is judged at each WMARK (R478). -/
def lagCheck (b : Block) : Block :=
  let lag := lagMs b
  let b := modPair (fun p => { p with lagPeak := max p.lagPeak (satU 16 lag) }) b
  if gtMs (b.f (pg 0x60 0x044) 26 16) < b.pair.markRx - b.mark then pairDetach 2 b
  else if b.pair.markRx - b.mark ≤ leaseP b then b
  else
    let first := quiet b.pair.lagOverAt b
    b |> onlyIf first (pairEvr 0x80F lag 0) |> modPair (fun p => { p with lagOverAt := some b.mono })
/-- R475, R478: a WMARK arrives. -/
def execPlWmarkRx (hd : PlHead) (t : Nat) (s : State) : Out :=
  s.run (plArrive hd (.wmark t) fun b =>
    mirrorFor t (fun b => b |> modPair (fun p => { p with markRx := t }) |> plQueue hd.seq (.wmark t) |> onlyIf b.linked lagCheck) b)
/-- R475: a table commit of the active member, with its t. -/
def execPlCommitRx (hd : PlHead) (addr : BitVec 32) (t : Nat) (ws : List Word) (s : State) : Out :=
  s.run (plArrive hd (.commit addr.toNat t ws) fun b =>
    if b.linked then plQueue hd.seq (.commit addr.toNat t ws) b
    else if b.pair.holding || !b.running then b
    else takeCommit addr.toNat t ws b)
/-- R30: the active member's mode and its T_eff; a mode adopted at a forming of the pair writes its record. -/
def execPlModeRx (hd : PlHead) (govern : Bool) (t : Nat) (s : State) : Out :=
  s.run (plArrive hd (.mode govern t) fun b =>
    let adopts := b.pair.partner.any fun h => h.govern == govern && b.mode.govern != govern
    let c := onlyIf (adopts && !b.pair.holding) (pairEvr 0x80D (b01 govern) 0) b
    if c.linked then plQueue hd.seq (.mode govern t) c
    else if c.pair.holding then c
    else modePend govern t c)
/-- R475, R263: the active member replays a bale. -/
def execPlReplayRx (hd : PlHead) (rate : Fin 4) (cause : Byte) (idx : BitVec 32) (s : State) : Out :=
  s.run (plArrive hd (.replay rate.val cause.toNat idx.toNat) fun b =>
    onlyIf b.linked (plQueue hd.seq (.replay rate.val cause.toNat idx.toNat)) b)
/-- One shared setting as received takes force as a write of it would. -/
def takeShared (a : Nat) (v : Word) (b : Block) : Block :=
  let m := w32 (sharedMask a)
  let new := (b.r a &&& ~~~m) ||| (v &&& m)
  if new = b.r a then b
  else if a / 0x1000 = 0x19 && 0x080 ≤ a % 0x1000 && a % 0x1000 < 0x180 && a % 0x40 = 0 then brCtlWrite (a % 0x1000 / 0x40 - 2) new b
  else if 0x10 ≤ a / 0x1000 && a / 0x1000 ≤ 0x13 && 0x100 ≤ a % 0x1000 && a % 0x1000 < 0x300 then
    siloCtl ((a / 0x1000 - 0x10) * 16 + (a % 0x1000 - 0x100) / 0x20) new b
  else if isTable a then takeCommit a b.mark [new] b
  else wr a new b
/-- The active member's shared settings replace this member's (R473): they are committed, and the standby rejoins. -/
def takeSettings (l : List Byte) (b : Block) : Block :=
  let ws := wordsOfImage (l.length / 8) l
  let gone := (sharedWords b).filter fun e => !(ws.any fun w => w.1 = e.1)
  b |> forEach gone (fun e => takeShared e.1 (regDefault e.1)) |> forEach ws (fun e => takeShared e.1 e.2)
    |> pairEvr 0x80E 0 0 |> settingsCommit |> requestRejoin
/-- R473: a frame of the active member's shared settings. -/
def execPlSettingsRx (hd : PlHead) (ofs : BitVec 32) (bytes : List Byte) (s : State) : Out :=
  s.run (plArrive hd (.settings ofs.toNat bytes) fun b =>
    if b.pair.holding || !b.up then b else
    let rx := (if ofs = 0 then [] else b.pair.settingsRx) ++ [(ofs.toNat, bytes)]
    if bytes.length = 8192 then modPair (fun p => { p with settingsRx := rx }) b
    else b |> modPair (fun p => { p with settingsRx := [] }) |> takeSettings (rx.flatMap (·.2)))
/-- The bale time of an index that wraps, near the present. -/
def idxTime (b : Block) (r idx : Nat) : Gt :=
  let f := b.rateHz r
  if f = 0 then 0 else
  let n := secOf b.now * f
  let base := n / 2 ^ 32 * 2 ^ 32 + idx
  let k := if base + 2 ^ 31 < n then base + 2 ^ 32 else if n + 2 ^ 31 < base then base - 2 ^ 32 else base
  mkGt (k / f) (instNs f (k % f))
/-- R479: the active member's digest of a bale. -/
def execPlBaleDigRx (hd : PlHead) (rate : Fin 4) (flags : Byte) (idx : BitVec 32) (digest : DWord) (s : State) : Out :=
  s.run (plArrive hd (.baleDig rate.val flags.toNat idx.toNat digest.toNat) fun b =>
    let r := rate.val
    let i := idx.toNat
    let d := digest.toNat
    if !comparesBales b (idxTime b r i) then b else
    match b.pair.ownBale.find? fun e => e.1 == r && e.2.1 == i with
    | some e =>
      let c := b |> modPair (fun p => { p with ownBale := p.ownBale.filter fun x => x != e }) |> cnt (pg 0x60 0x200)
      if e.2.2 = d then baleMatched c else startArb r i d e.2.2 c
    | none =>
      if b.digestsFull then pairDetach 2 b
      else modPair (fun p => { p with theirBale := p.theirBale ++ [(r, i, d)] }) b)
/-- R479: the active member's digest of an ordered commit. -/
def execPlCommitDigRx (hd : PlHead) (task d flags : Nat) (seq : BitVec 32) (t : Nat) (digest : DWord) (s : State) : Out :=
  s.run (plArrive hd (.commitDig task d flags seq.toNat t digest.toNat) fun b =>
    onlyIf (b.linked && (match b.upd.noCompare with
      | some u => decide (t < u)
      | none => true)) (theirCommitDig task seq.toNat t digest.toNat) b)
/-- The active member is found at fault; too often within 60 s it gives the role up (R480). -/
def activeAtFault (b : Block) : Block :=
  let l := b.mono :: b.pair.faults.filter fun t => b.mono < t + 60 * gtSec
  let c := b |> modPair (fun p => { p with faults := l }) |> updFail 4
  onlyIf (b.f (pg 0x60 0x040) 11 8 ≤ l.length && b.t (pg 0x60 0x040) 1 && b.pair.beat.any fun h => h.inStep && h.ready) (release 2) c
/-- R480: ARB: to the active member a request to replay, or the verdict; to the standby the digest of the other replay, or
its refusal. -/
def execPlArbRx (hd : PlHead) (rate : Fin 4) (verdict : Byte) (idx : BitVec 32) (digest : DWord) (s : State) : Out :=
  s.run (plArrive hd (.arb rate.val verdict.toNat idx.toNat digest.toNat) fun b =>
    let r := rate.val
    let i := idx.toNat
    if b.pair.holding then
      if verdict = 0 then
        if replayRefusal b r i false != 0 then b |> replayStart r i 3 |> plSend (.arb r 4 i 0) else replayStart r i 3 b
      else b |> arbNote r i verdict.toNat |> onlyIf (verdict == 2 || verdict == 3) activeAtFault
    else if b.linked then
      b |> modArb r i (fun x => if verdict = 4 then { x with refused := true } else { x with ra := some digest.toNat }) |> arbSettle r i
    else b)
/-- R263: the replayed bale closes; an arbitration's digest goes where it is compared. -/
def execReplayDone (s : State) : Out :=
  s.run fun b => match b.gran.replay with
  | none => b
  | some p =>
    if !p.recs.isEmpty && !p.bale.full then b else
    let c := replayClose p b
    let dig := ((c.rate p.rate).bale p.bale.idx).elim 0 (·.digest)
    let c := if p.cause != 3 then c
      else if c.pair.holding then plSend (.arb p.rate 0 p.bale.idx dig) c
      else c |> modArb p.rate p.bale.idx (fun x => { x with rs := some dig }) |> arbSettle p.rate p.bale.idx
    takeReplay c

/-! Other frames (R394, R487, R495). -/

/-- R487: RELEASE arrives: the partner's lease counts as expired from its instant. -/
def execPlReleaseRx (hd : PlHead) (t : Nat) (lastSeq : Nat) (s : State) : Out :=
  s.run (plArrive hd (.release t lastSeq) fun b =>
    b |> modPair (fun p => { p with beat := p.beat.map fun h => { h with holding := false } })
      |> modLease fun l => { l with released := true, relAt := b.mono - (b.now - t), holdFrom := none })
/-- R394: a trigger of the partner. -/
def execPlTriggerRx (hd : PlHead) (defn : Byte) (t : Nat) (s : State) : Out :=
  s.run (plArrive hd (.trigger defn.toNat t) (capPartner t))
/-- The header entry of a message that carries more (R495). -/
def pairHead (b : Block) (kind n : Nat) : List Byte :=
  entry ([0x08, BitVec.ofNat 8 n, BitVec.ofNat 8 kind, 0] ++ shortForm b.now)
/-- R484: a message from the partner's host. -/
def execPlHostmsgRx (hd : PlHead) (bytes : List Byte) (s : State) : Out :=
  s.run (plArrive hd (.hostmsg bytes) fun b => siloPut 59 (pairHead b 4 1 ++ padTo 64 bytes) b)
/-- R167: a FRAME item that the partner's classifier mirrors. -/
def execPlClsMirrorRx (hd : PlHead) (silo : Fin 64) (item : List Byte) (s : State) : Out :=
  s.run (plArrive hd (.clsMirror silo.val item) (siloPush silo.val item))
/-- R484: the partner's health report. -/
def execPlHealthRx (hd : PlHead) (report : List Byte) (s : State) : Out :=
  s.run (plArrive hd (.health report) fun b => siloPut 58 (pairHead b 3 2 ++ padTo 128 report) b)

/-! Commands of the PAIR page (R497, R499). -/

/-- A write of PAIR_REQ. -/
def pairReq (v : Word) (b : Block) : Block :=
  let ok := b.pair.beat.any fun h => h.inStep && h.ready
  let c := if !bitAt v 0 then b
    else if !b.pair.holding then err 0x60 0x20 b
    else if !bitAt v 2 && !ok then err 0x60 0x21 b
    else release 1 b
  if !bitAt v 1 then c
  else if c.pair.role != .detached || !c.pair.linkUp then err 0x60 0x22 c
  else requestRejoin c
/-- R487: PAIR_REQ.RELEASE. -/
def execPairReqRelease (ag : Agent) (v : Word) (s : State) : Out := s.run (cmdGate ag 0x60 0x080 (pairReq (putBit v 0 true)))
/-- R481: PAIR_REQ.REJOIN. -/
def execPairReqRejoin (ag : Agent) (v : Word) (s : State) : Out := s.run (cmdGate ag 0x60 0x080 (pairReq (putBit v 1 true)))
/-- R497: word 0 of PAIR_MBOX sends HOSTMSG with the words staged. -/
def mboxSend (v : Word) (b : Block) : Block :=
  if !b.pair.linkUp then err 0x60 0x23 b else
  b |> plSend (.hostmsg (bytesOfWords (v :: (List.range 15).map fun i => mget 0 b.pair.mbox (i + 1))))
    |> modPair (fun p => { p with mbox := [] })
/-- R497. -/
def execPairMboxSend (ag : Agent) (v : Word) (s : State) : Out := s.run (cmdGate ag 0x60 0x400 (mboxSend v))

/-! Starts, resets and Keep (R471, R496). -/

/-- The start: a member waits for its partner's HELLO; the claim delay applies anew; what
PAIR_LEASE shows stays, as its class says. -/
def pairStart (b : Block) : Block :=
  b |> setRole (if b.member then .forming else .single) |> modLease (fun l => {
    startAt := b.mono, shownAt := l.shownAt, lastClass := l.lastClass, contend := l.contend })
/-- What a reset or Keep leaves: the role is released, the link starts anew, digests and arbitration are gone. -/
def pairStop (rejoin : Bool) (b : Block) : Block :=
  b |> release 3
    |> modPair (fun p => { partner := none, lease := p.lease, rejoin := rejoin && p.role != .single, rxMirror := p.rxMirror })
    |> modGlean (fun g => { g with stby := none }) |> modLease (fun l => { l with claimAt := none, backoff := none, witAt := none })
    |> irq 0x60 0 |> govUnhold
/-- A block reset of PAIR: a standby detaches and rejoins. -/
def pairBlockReset (b : Block) : Block := b |> dropDigests |> pairDetach 4 |> requestRejoin
/-- A block reset of PLINK: the link retrains. -/
def plinkBlockReset (b : Block) : Block :=
  (if b.pair.linkUp then linkDown b else plLost b) |> modPair fun p => { p with lanes := 0 }
/-- PAIR_CTL is written: not while holding (R499). -/
def pairCtl (v : Word) (b : Block) : Block :=
  let old := b.r (pg 0x60 0x040)
  if b.pair.holding && (fld v 22 16 != fld old 22 16 || fld v 0 0 != fld old 0 0) then err 0x60 0x24 b
  else if fld v 22 16 = 0 || 100 < fld v 22 16 || fld v 11 8 = 0 then err 0x60 0x06 b
  else
    let was := b.member
    let c := b |> wr (pg 0x60 0x040) v |> pairDegrade
    if was = c.member then c
    else if c.member then pairStart c
    else c |> pairStop false |> setRole .single

end Sys2Proof.Machine
end

