-- ==== Sys2Proof/Machine/Upd.lean ====
section
/-! DEFINITION. Field update (R584–R604): staging, the package, the shadow run, the handover, probation and hand-back. -/

namespace Sys2Proof.Machine
open Sys2Proof

/-! Image slots (R584–R586). -/

/-- Offset and size of a part's region in a slot, by kind (R584). -/
def partRegion : Nat → Nat × Nat
  | 1 => (0x10000, 0x100000) | 2 => (0x110000, 0x20000) | 3 => (0x130000, 0x200000) | 4 => (0x330000, 0x40000)
  | 5 => (0x370000, 0x80000) | 6 => (0x3F0000, 0x600000) | 7 => (0x9F0000, 0x200000) | 8 => (0xBF0000, 0x100000)
  | _ => (0, 0)
/-- First MRAM byte of an image slot (R36). -/
def slotBase (i : Nat) : Nat := i * 0x1000000
/-- First MRAM byte of delta staging (R36). -/
def deltaBase : Nat := 0x2000000
/-- First byte of update staging and its length (R35). -/
def stagingBase : Nat := 0x3C0000000
/-- Its length. -/
def stagingSize : Nat := 0x20000000
/-- The slot that does not run. -/
def otherSlot (b : Block) : Fin 2 := 1 - b.upd.running
/-- A slot of the state. -/
def Block.imgSlot (b : Block) (i : Fin 2) : ImgSlot := b.upd.slots[i]
/-- Changes an image slot. -/
def modImg (i : Fin 2) (f : ImgSlot → ImgSlot) (b : Block) : Block :=
  modUpd (fun u => { u with slots := u.slots.set i (f u.slots[i]) }) b
/-- Size of a part of a slot. -/
def ImgSlot.size (s : ImgSlot) (k : Nat) : Nat := (mget {} s.parts k).size
/-- Bytes of a part of a slot. -/
def partBytes (b : Block) (i : Fin 2) (k : Nat) : List Byte :=
  readBytes b.mram (slotBase i.val + (partRegion k).1) ((b.imgSlot i).size k)

/-! Progress (R600). -/

/-- The sequence number that the phase concerns. -/
def updSeq (b : Block) : Nat := if b.upd.phase = 7 then b.image.seq else (b.imgSlot (otherSlot b)).seq
/-- An UPD_PROGRESS entry. -/
def progress (b : Block) : Block :=
  siloPut 61 (entry ([0x0A, 0, BitVec.ofNat 8 b.upd.phase, BitVec.ofNat 8 b.upd.result] ++ leBytes 4 (updSeq b) ++ shortForm b.now
    ++ [BitVec.ofNat 8 b.upd.part, 0] ++ leBytes 4 b.upd.done ++ leBytes 4 b.upd.total)) b
/-- PHASE changes: an entry, the interrupt and the partner (R595, R600, R602). -/
def setPhase (p : Nat) (b : Block) : Block :=
  if b.upd.phase = p then b else b |> modUpd (fun u => { u with phase := p }) |> progress |> irq 0x6C 0 |> updState false
/-- The phase while no command runs. -/
def restPhase (b : Block) : Nat := match (b.imgSlot (otherSlot b)).st with
  | 1 => 3
  | 2 => 4
  | _ => 0
/-- RESULT. -/
def setResult (c : Nat) (b : Block) : Block := modUpd (fun u => { u with result := c }) b
/-- A command is refused. -/
def updRefuse (c : Nat) (b : Block) : Block := b |> err 0x6C c |> setResult c

/-! Owner locks (R598). -/

/-- The partner's versions are known and differ from this member's. -/
def versionsDiffer (b : Block) : Bool := b.member && b.upd.partner.any fun p => p.2.2.2.2 != imageVersions b
/-- The hold on the owner locks. -/
def lockHeld (b : Block) : Bool :=
  b.upd.phase = 6 || b.upd.phase = 7 || (b.member && b.upd.partner.any fun p => p.1 = 6 || p.1 = 7) || versionsDiffer b
/-- While the hold lasts PG_LOCK.LOCK is 1 in every page. -/
def lockAll (b : Block) : Block := onlyIf (lockHeld b) (forEach allPages fun p => wbit (pg p 0x028) 0 true) b

/-! Loading (R591). -/

/-- UPD_CMD has its guard. -/
def updGuard (v : Word) (f : Block → Block) (b : Block) : Block := if fld v 31 16 != 0x5550 then updRefuse 0x20 b else f b
/-- Bytes enter update staging. -/
def stageIn (ofs : Nat) (l : List Byte) (b : Block) : Block :=
  { b with ddr := writeBytes b.ddr (stagingBase + ofs) l }
/-- LOAD. -/
def updLoad (ag : Agent) (b : Block) : Block :=
  if ag == .side || (b.upd.phase != 0 && b.upd.phase != 4) then updRefuse 0x21 b
  else if stagingSize < b.f (pg 0x6C 0x058) 29 0 then updRefuse 0x22 b
  else b |> setResult 0 |> setPhase 1
/-- R591: UPD_CMD LOAD. -/
def execUpdLoad (ag : Agent) (v : Word) (s : State) : Out := s.run (cmdGate ag 0x6C 0x05C (updGuard v (updLoad ag)))
/-- R591: the reads have returned these bytes, with a completion error or without. -/
def execUpdLoadDone (bytes : List Byte) (ok : Bool) (s : State) : Out :=
  s.run fun b =>
    if b.upd.phase != 1 || b.inReset 0x6C then b else
    let l := bytes.take (b.f (pg 0x6C 0x058) 29 0)
    let c := b |> stageIn 0 l |> modUpd (fun u => { u with fill := l.length }) |> onlyIf (!ok) (updRefuse 0x22)
    c |> setPhase (restPhase c) |> irq 0x6C 1
/-- UPD_DATA_CMD. -/
def updAppend (ag : Agent) (v : Word) (b : Block) : Block :=
  let n := fld v 11 0
  let o := (b.agent ag).updOfs
  if fld v 31 16 != 0x4441 then updRefuse 0x20 b
  else if b.upd.phase != 0 && b.upd.phase != 4 then updRefuse 0x21 b
  else if n < 4 || 2048 < n || n % 4 != 0 then err 0x6C 0x06 b
  else if stagingSize < o + n then updRefuse 0x22 b
  else
    let l := bytesOfWords ((List.range (n / 4)).map fun i => mget 0 (b.agent ag).updWin i)
    b |> stageIn o l |> modAgent ag (fun g => { g with updOfs := o + n }) |> modUpd fun u => { u with fill := max u.fill (o + n) }
/-- R591: APPEND. -/
def execUpdAppend (ag : Agent) (v : Word) (s : State) : Out := s.run (cmdGate ag 0x6C 0x088 (updAppend ag v))

/-! The package (R588–R590). -/

/-- The entry of a part in a manifest. -/
def pkgPart (m : List Byte) (i : Nat) : PkgPart :=
  let o := 64 + 96 * i
  { kind := leAt m o 1, mode := leAt m (o + 1) 1, version := leAt m (o + 4) 4, base := leAt m (o + 8) 4, size := leAt m (o + 12) 4,
    ofs := leAt m (o + 16) 4, bytes := leAt m (o + 20) 4, crcOfs := leAt m (o + 24) 4, nblock := leAt m (o + 28) 4,
    sha := slice m (o + 32) 48 }
/-- Parts in order, with the block CRCs placed one after the other, and kinds ascending. -/
def partsWell (mb pb : Nat) : Nat → Nat → List PkgPart → Bool
  | _, crc, [] => crc == mb
  | k, crc, p :: l =>
    k < p.kind && p.kind ≤ 8 && p.mode ≤ 1 && (p.mode = 0 || p.base = 0) && 1 ≤ p.size && p.size ≤ (partRegion p.kind).2 &&
    p.ofs % 8 = 0 && mb + 96 ≤ p.ofs && p.ofs + p.bytes ≤ pb && p.nblock = ceilDiv p.size 65536 && p.crcOfs = crc &&
    partsWell mb pb p.kind (crc + 4 * p.nblock) l
/-- The manifest's form is right (R592, step 1). -/
def manifestWell (m : List Byte) : Bool :=
  let n := leAt m 5 1
  let mb := leAt m 8 4
  let pb := leAt m 12 4
  leAt m 0 4 = 0x53455031 && leAt m 4 1 = 1 && 1 ≤ n && n ≤ 8 && leAt m 6 2 ≤ 1 && slice m 16 4 = [0x52, 0x51, 0x57, 0x38] &&
  slice m 28 36 = zeros 36 && pb ≤ stagingSize && mb + 96 ≤ pb &&
  partsWell mb pb 0 (64 + 96 * n) ((List.range n).map (pkgPart m))
/-- A payload carried out on the installed part: the result, or none where it is malformed (R590). -/
def payloadRun (whole : Bool) (old : List Byte) : Nat → List Byte → List Byte → Option (List Byte)
  | 0, _, _ => none
  | n + 1, l, acc =>
    if l.isEmpty then some acc
    else if l.length < 16 || slice l 1 3 != [0, 0, 0] then none
    else
      let len := leAt l 4 4
      match leAt l 0 1 with
      | 1 =>
        let src := leAt l 8 4
        if whole || leAt l 12 4 != 0 || old.length < src + len then none
        else payloadRun whole old n (l.drop 16) (acc ++ slice old src len)
      | 2 =>
        let pad := ceilDiv len 8 * 8
        if l.length < 8 + pad then none else payloadRun whole old n (l.drop (8 + pad)) (acc ++ slice l 8 len)
      | 3 =>
        if slice l 9 7 != zeros 7 then none
        else payloadRun whole old n (l.drop 16) (acc ++ List.replicate len (nth l 8 0))
      | _ => none
/-- The package in staging is checked (R592, steps 1–3): 0 or a code, and the kind it concerns. -/
def pkgCheck (b : Block) (m : List Byte) (ps : List PkgPart) (key : Option (List Byte)) : Nat × Nat :=
  let mb := leAt m 8 4
  let sig := readBytes b.ddr (stagingBase + mb) 96
  let slot := b.keys.slot (b.f (pg 0x6C 0x048) 7 0)
  if !manifestWell m then (0x23, 0)
  else match key with
  | none => (0x24, 0)
  | some k =>
    if leAt m 24 4 != slot.keyid.toNat || !Config.ecdsaVerify k (Config.sha384 (m.take mb)) sig then (0x24, 0)
    else match ps.find? fun p => p.mode = 0 && p.base != b.image.version p.kind with
    | some p => (0x26, p.kind)
    | none => if 0x800000 < sumN (ps.map (·.bytes)) then (0x27, 0) else (0, 0)
/-- A package is rejected (R592). -/
def updReject (kind code : Nat) (changed : Bool) (b : Block) : Block :=
  let seq := if changed then (b.imgSlot (otherSlot b)).seq else leAt (readBytes b.ddr stagingBase 64) 20 4
  let c := b |> onlyIf changed (modImg (otherSlot b) fun s => { s with st := 5 }) |> updRefuse code |> evr 0xA01 seq (kind * 256 + code)
    |> cnt (pg 0x6C 0x110)
  c |> setPhase (restPhase c) |> irq 0x6C 1
/-- Deltas placed one after the other in delta staging. -/
def placeDeltas : Nat → List PkgPart → List PkgPart
  | _, [] => []
  | o, p :: l => { p with ofs := o } :: placeDeltas (o + p.bytes) l
/-- The manifest that stands in update staging. -/
def stagedManifest (b : Block) : List Byte := readBytes b.ddr stagingBase (min (leAt (readBytes b.ddr stagingBase 64) 8 4) stagingSize)
/-- The parts that it lists. -/
def stagedParts (m : List Byte) : List PkgPart := (List.range (min (leAt m 5 1) 8)).map (pkgPart m)
/-- The inactive slot is FILLING, with the manifest and signature; the payloads go to delta staging (R592, step 4). -/
def stageFill (b : Block) : Block :=
  let m := stagedManifest b
  let ps := stagedParts m
  let sig := readBytes b.ddr (stagingBase + m.length) 96
  let qs := placeDeltas 0 ps
  let mram := (ps.zip qs).foldl (fun r e => writeBytes r (deltaBase + e.2.ofs) (readBytes b.ddr (stagingBase + e.1.ofs) e.1.bytes)) b.mram
  { b with mram := mram }
    |> modImg (otherSlot b) (fun _ => { st := 1, gen := 0, seq := leAt m 20 4, manifest := m ++ sig })
    |> modUpd (fun u => { u with pkg := qs, same := (leAt m 6 2).testBit 0, total := sumN (ps.map (·.nblock)) }) |> setPhase 3
/-- STAGE, up to the slot's FILLING (R592, steps 1–4): in brace it pauses before its first MRAM write. -/
def updStage (b : Block) : Block :=
  if b.upd.phase != 0 && b.upd.phase != 4 then updRefuse 0x21 b else
  let m := stagedManifest b
  let ps := stagedParts m
  let b := b |> setResult 0 |> modUpd (fun u => { u with part := 0, done := 0, total := 0 }) |> setPhase 2
  let (key, c) := keyUse (b.f (pg 0x6C 0x048) 7 0) 7 b
  match pkgCheck c m ps key with
  | (0, _) => if c.supply.brace then c else stageFill c
  | (code, kind) => updReject kind code false c
/-- R592: UPD_CMD STAGE. -/
def execUpdStage (ag : Agent) (v : Word) (s : State) : Out := s.run (cmdGate ag 0x6C 0x05C (updGuard v updStage))
/-- The block CRCs of a result are those of the manifest. -/
def blocksGood (m : List Byte) (p : PkgPart) (r : List Byte) : Bool :=
  (List.range p.nblock).all fun i => crc32c (slice r (65536 * i) (min 65536 (p.size - 65536 * i))) = leAt m (p.crcOfs + 4 * i) 4
/-- A part is applied: its blocks, its entries of progress. -/
def applied (k n : Nat) (b : Block) : Block :=
  let d := b.upd.done
  let c := modUpd (fun u => { u with part := k, done := d + n }) b
  c |> onlyIf (d / 256 != (d + n) / 256) progress |> progress
/-- One listed part is built (R592, step 5): none where it fails, with the code. -/
def buildPart (m : List Byte) (bad : Option Nat) (p : PkgPart) (b : Block) : Nat × Block :=
  let i := otherSlot b
  let old := partBytes b b.upd.running p.kind
  match payloadRun (p.mode = 1) old (p.bytes + 1) (readBytes b.mram (deltaBase + p.ofs) p.bytes) [] with
  | none => (0x27, b)
  | some r =>
    if r.length != p.size then (0x27, b)
    else if bad = some p.kind || !blocksGood m p r then (0x28, b)
    else
      let c := { b with mram := writeBytes b.mram (slotBase i.val + (partRegion p.kind).1) r }
        |> modImg i (fun s => { s with parts := mins s.parts p.kind { version := p.version, size := p.size, sha := p.sha } })
      (if Config.sha384 r = p.sha then 0 else 0x29, applied p.kind p.nblock c)
/-- Every listed part in order, up to the first failure: its kind and code. -/
def buildParts (m : List Byte) (bad : Option Nat) : List PkgPart → Block → (Nat × Nat) × Block
  | [], b => ((0, 0), b)
  | p :: l, b => match buildPart m bad p b with
    | (0, c) => buildParts m bad l c
    | (code, c) => ((p.kind, code), c)
/-- An unlisted part is copied from the running slot (R592, steps 6 and 7). -/
def copyPart (k : Nat) (b : Block) : Nat × Block :=
  let i := otherSlot b
  let r := partBytes b b.upd.running k
  match b.image.parts.find? fun e => e.1 = k with
  | none => (0, modImg i (fun s => { s with parts := mins s.parts k { version := b.image.version k, size := 0, sha := Config.sha384 [] } }) b)
  | some e =>
    (if Config.sha384 r = e.2.sha then 0 else 0x29,
      { b with mram := writeBytes b.mram (slotBase i.val + (partRegion k).1) r } |> modImg i fun s => { s with parts := mins s.parts k e.2 })
/-- The unlisted parts in order, up to the first failure. -/
def copyParts : List Nat → Block → (Nat × Nat) × Block
  | [], b => ((0, 0), b)
  | k :: l, b => match copyPart k b with
    | (0, c) => copyParts l c
    | (code, c) => ((k, code), c)
/-- The build of the inactive slot ends (R592, steps 5–8). -/
def stageEnd (bad : Option Nat) (b : Block) : Block :=
  let i := otherSlot b
  let m := (b.imgSlot i).manifest
  match buildParts m bad b.upd.pkg b with
  | ((k, code), c) =>
    if code != 0 then updReject k code true c else
    let rest := (List.range 8).filterMap fun k => if b.upd.pkg.any (fun p => p.kind = k + 1) then none else some (k + 1)
    match copyParts rest c with
    | ((k, code), c) =>
      if code != 0 then updReject k code true c else
      c |> modImg i (fun s => { s with st := 2 }) |> cnt (pg 0x6C 0x100) |> cnt (pg 0x78 0x110) |> evr 0xA00 (c.imgSlot i).seq c.upd.pkg.length
        |> modUpd (fun u => { u with part := 0 }) |> setPhase 4 |> irq 0x6C 1
/-- R592: the build ends. The operand names a kind whose block read back wrong from MRAM. It pauses in brace. -/
def execUpdStageDone (badKind : Option Nat) (s : State) : Out :=
  s.run fun b =>
    if b.supply.brace || !b.up || b.inReset 0x6C then b
    else if b.upd.phase = 2 then stageEnd badKind (stageFill b)
    else if b.upd.phase = 3 then stageEnd badKind b
    else b

/-! Activation (R593–R596). -/

/-- An island is declared or an oscillation alarm stands, or one ended less than QUIET_S ago (R593). -/
def alarmRecent (b : Block) : Bool :=
  b.isl.grps.any (fun g => g.2.declared) || b.osc.trks.any (fun t => t.2.alarm) ||
  b.upd.alarmEnd.any fun t => b.mono < t + b.f (pg 0x6C 0x040) 25 16 * gtSec
/-- Why an activation is refused, 0 where it is not; spares count where `spare` says so (R593). -/
def activateCheck (b : Block) (spare : Bool) : Nat :=
  if alarmRecent b then 0x2A
  else if !b.balls.backupN then 0x2B
  else if !b.balls.updInhibitN then 0x2C
  else if b.t (pg 0x6C 0x040) 31 then 0x2D
  else if !b.running || b.settings.writing.isSome || b.settings.deferred then 0x33
  else if spare && !b.spareFree 24 && !b.spareFree 25 then 0x2F
  else if b.member && (!b.pair.linkUp || (b.pair.beat.any fun h => h.health = 2) || b.upd.partner.any fun p => 5 ≤ p.1) then 0x2E
  else 0
/-- SHADOW starts (R596): the new image runs beside the old. -/
def shadowStart (b : Block) : Block :=
  b |> modUpd (fun u => { u with
        shadowAt := b.mono, spare := none, th := none, failAt := none, faults := b.bist.standing &&& faultCauses, slotHeld := true })
    |> setPhase 6 |> lockAll |> evr 0xA02 (b.imgSlot (otherSlot b)).seq 0 |> engRefresh
/-- An activation is abandoned: the old image never stopped (R596). Code 0 is ABORT, which is no error. -/
def updAbandon (code : Nat) (b : Block) : Block :=
  let i := otherSlot b
  b |> modImg i (fun s => { s with st := 5 }) |> (if code = 0 then setResult 0 else updRefuse code) |> evr 0xA06 (b.imgSlot i).seq code
    |> modUpd (fun u => { u with spare := none, th := none, slotHeld := false }) |> setPhase 0 |> engRefresh
/-- ACTIVATE. -/
def updActivate (b : Block) : Block :=
  let c := if b.upd.phase != 4 then 0x21 else activateCheck b true
  if c != 0 then updRefuse c b
  else if b.member then b |> setResult 0 |> setPhase 5
  else b |> setResult 0 |> shadowStart
/-- The levels of BACKUP_N (bit 0) and UPD_INHIBIT_N (bit 1), for whose change the table has no row (DESIGN CHOICE 226). -/
def updPins (pins : BitVec 2) (b : Block) : Block :=
  { b with balls := { b.balls with backupN := pins.getLsbD 0, updInhibitN := pins.getLsbD 1 } }
/-- R593: UPD_CMD ACTIVATE, with the levels that it finds on the two balls. -/
def execUpdActivate (ag : Agent) (v : Word) (pins : BitVec 2) (s : State) : Out :=
  s.run fun b => cmdGate ag 0x6C 0x05C (updGuard v updActivate) (updPins pins b)
/-- ABORT ends an activation, or fails its probation. -/
def updAbort (b : Block) : Block :=
  if b.upd.phase = 5 then b |> setResult 0 |> setPhase 4
  else if b.upd.phase = 6 then updAbandon 0 b
  else if b.upd.phase = 7 then updFail 5 b
  else updRefuse 0x21 b
/-- R599: UPD_CMD ABORT. -/
def execUpdAbort (ag : Agent) (v : Word) (s : State) : Out := s.run (cmdGate ag 0x6C 0x05C (updGuard v updAbort))
/-- Digests stop being compared from a handover on that changes results, and are compared again from the one after which
the versions match (R599, Pairs). -/
def compareFollows (t : Gt) (same : Bool) (b : Block) : Block :=
  if !b.member then b
  else if !versionsDiffer b then
    if b.upd.noCompare.isSome then
      b |> modUpd (fun u => { u with noCompare := none }) |> modPair (fun p => { p with compareFrom := t, matches_ := 0 })
    else b
  else if same || b.upd.noCompare.isSome then b
  else b |> modUpd (fun u => { u with noCompare := some t }) |> onlyIf b.linked (setRole .converging)
/-- R595: the partner's UPD_STATE: a request is granted or not, an own request is answered (R594). -/
def updHears (state : Nat) (data : List Byte) (b : Block) : Block :=
  let fl := leAt data 0 1
  let grant := fl.testBit 1
  let req := decide (state = 5) && !grant
  let c := modUpd (fun u => { u with partner := some (state, grant, fl.testBit 0, leAt data 1 4, slice data 5 32) }) b
  -- a request that is granted starts the hold on the locks here too (R598)
  let gives := req && (if c.upd.phase = 5 then !c.senior else c.upd.phase != 6 && c.upd.phase != 7)
  let c := onlyIf gives (modUpd fun u => { u with partner := u.partner.map fun p => (6, p.2) }) c
  let c := c |> lockAll |> compareFollows c.now (fl.testBit 0)
  if c.upd.phase = 5 then
    if grant then shadowStart c
    else if req && !gives then updState false c
    else c |> updRefuse 0x2E |> setPhase 4 |> onlyIf req (updState true)
  else if req then updState gives c
  else c
/-- R595. -/
def execPlUpdStateRx (hd : PlHead) (state : Byte) (data : List Byte) (s : State) : Out :=
  s.run (plArrive hd (.update state.toNat data) (updHears state.toNat data))
/-- The lead-rate bale time later than t, or t where no rate is enabled. -/
def leadAfter (b : Block) (t : Gt) : Gt := match leadRate b with
  | some r => nextInst (b.rateHz r) t
  | none => t
/-- The self-checks end (R596, R597). The operands: the settings as the new image's migration gives them where the schema
versions differ, none where it fails; and whether every self-check passed. -/
def shadowEnd (mig : Option (List (Nat × Word))) (pass : Bool) (b : Block) : Block :=
  let same := b.slot.schema == (b.imgSlot (otherSlot b)).version 8
  let words := if same then some b.slot.words else mig.map fun l =>
    l.foldl (fun m e => if isSetting e.1 then mput (regDefault e.1) m e.1 e.2 else m) []
  if !pass then updAbandon 0x31 b
  else match words with
  | none => updAbandon 0x30 b
  | some w =>
    if b.upd.shadowLeft != 0 || b.upd.spare.isNone then b else
    let c := activateCheck b false
    if c != 0 then updAbandon c b
    else
      let x : SetSlot :=
        { written := false, good := true, gen := b.slot.gen + 1, schema := (b.imgSlot (otherSlot b)).version 8, words := w }
      b |> modSet (fun s => { s with slots := s.slots.set (1 - s.active) x })
        |> modUpd fun u => { u with mig := w, th := some (leadAfter b (b.now + gtMs 100)) }
/-- R597. -/
def execUpdShadowDone (mig : Option (List (Nat × Word))) (pass : Bool) (s : State) : Out :=
  s.run fun b => if b.upd.phase != 6 || b.upd.th.isSome || b.inReset 0x6C then b else shadowEnd mig pass b
/-- R596: SHADOW has run for SHADOW_MAX_S. -/
def execUpdShadowTimeout (s : State) : Out :=
  s.run fun b =>
    if b.upd.phase = 6 && b.upd.th.isNone && b.upd.shadowAt + b.f (pg 0x6C 0x044) 7 0 * gtSec ≤ b.mono then updAbandon 0x31 b else b

/-! Handover, probation, hand-back (R597–R599). -/

/-- A setting takes force from a time on, as a write of it would. -/
def takeSetting (t : Gt) (a : Nat) (v : Word) (b : Block) : Block :=
  if b.r a = v || a % 0x1000 = 0x028 && a < 0x100000 then b
  else if a / 0x1000 = 0x19 && 0x080 ≤ a % 0x1000 && a % 0x1000 < 0x180 && a % 0x40 = 0 then brCtlWrite (a % 0x1000 / 0x40 - 2) v b
  else if isTable a then takeCommit a t [v] b
  else wr a v b
/-- Settings replaced from a time on. -/
def takeSettingsAt (t : Gt) (ws : WMap) (b : Block) : Block :=
  let gone := (settingWords b).filter fun e => !(ws.any fun w => w.1 = e.1)
  b |> forEach gone (fun e => takeSetting t e.1 (regDefault e.1)) |> forEach ws (fun e => takeSetting t e.1 e.2)
/-- The image that runs changes at a time: settings as commits with it, programs after the items before it (R597). -/
def switchTo (i : Fin 2) (ws : WMap) (t : Gt) (b : Block) : Block :=
  b |> modUpd (fun u => { u with running := i, reloadAt := some t }) |> takeSettingsAt t ws
/-- The new image takes over at T_h (R597). -/
def handover (t : Gt) (b : Block) : Block :=
  let i := otherSlot b
  let idx := match leadRate b with
    | some r => baleIndex (b.rateHz r) t
    | none => 0
  let c := b |> modUpd (fun u => { u with old := settingWords b, failAt := none }) |> modImg i (fun s => { s with st := 3 })
    |> switchTo i b.upd.mig t |> cnt (pg 0x6C 0x108) |> evr 0xA03 (b.imgSlot i).seq idx
    |> wn (pg 0x6C 0x074) (secOf t) |> wn (pg 0x6C 0x078) (secOf t / 2 ^ 32) |> wn (pg 0x6C 0x07C) (nsOf t) |> setPhase 7
  compareFollows t b.upd.same c
/-- R597: T_h has come. -/
def execUpdHandover (s : State) : Out :=
  s.run fun b => match b.upd.th with
  | some t => if b.upd.phase = 6 && t ≤ b.now && !b.inReset 0x6C then handover t b else b
  | none => b
/-- Probation passes (R599): the migrated settings' commit record, then the two slots' state lines. -/
def probationPass (b : Block) : Block :=
  let i := b.upd.running
  let o := otherSlot b
  let seq := b.image.seq
  let a : Fin 2 := 1 - b.settings.active
  let w : SetSlot := { written := true, good := true, gen := b.slot.gen + 1, schema := b.image.version 8, words := b.upd.mig }
  b |> modSet (fun s => { s with slots := s.slots.set a w, active := a }) |> wf setSts 8 8 a.val |> wn (pg 0x00 0x108) w.gen
    |> modImg i (fun s => { s with st := 4, gen := (b.imgSlot o).gen + 1 }) |> modImg o (fun s => { s with st := 6 })
    |> evr 0xA04 seq i.val |> modUpd (fun u => { u with spare := none, slotHeld := false, mig := [], old := [], faults := 0 })
    |> setPhase 0 |> irq 0x6C 1 |> engRefresh
/-- The end of probation. -/
def probationEnd (b : Block) : Gt := b.upd.th.getD 0 + b.f (pg 0x6C 0x040) 11 0 * gtSec
/-- R599: PROB_S seconds have run out with no failure; the MRAM writes wait for a brace to end (R98). -/
def execUpdProbationPass (s : State) : Out :=
  s.run fun b => if b.upd.phase = 7 && b.upd.failAt.isNone && !b.supply.brace && probationEnd b ≤ b.now then probationPass b else b
/-- The slot of a failed probation is rejected, and told (R599). -/
def handback (cause : Nat) (b : Block) : Block :=
  let i := b.upd.running
  let o := otherSlot b
  b |> evr 0xA05 b.image.seq cause |> cnt (pg 0x6C 0x118) |> irq 0x6C 2 |> updRefuse 0x32
    |> modImg i (fun s => { s with st := 5 })
    |> modUpd (fun u => { u with running := o, spare := none, slotHeld := false, failAt := none, mig := [], old := [], faults := 0 })
/-- R599: T_b has come: the old image takes the work back. -/
def execUpdHandback (s : State) : Out :=
  s.run fun b => match b.upd.failAt with
  | some (t, cause) =>
    let tb := leadAfter b (t + gtMs 10)
    if b.upd.phase = 7 && tb ≤ b.now then
      let c := b |> handback cause |> switchTo (otherSlot b) b.upd.old tb |> setPhase 0 |> engRefresh
      compareFollows tb b.upd.same c
    else b
  | none => b
/-- R599: a watchdog of the new firmware trips: it fails a probation, and in SHADOW the self-checks (R596). -/
def execFirmwareWatchdogTrip (s : State) : Out :=
  s.run fun b => if b.upd.phase = 6 then updAbandon 0x31 b else updFail 1 b

/-! Starts, resets and Keep (R586, R601). -/

/-- The slot to start, before its parts are verified: the ACTIVE one, of two the one with the higher GEN (R586). -/
def startSlot (b : Block) : Fin 2 :=
  let x := b.imgSlot 0
  let y := b.imgSlot 1
  if x.st = 4 && (y.st != 4 || y.gen ≤ x.gen) then 0 else if y.st = 4 then 1 else 0
/-- A probation that a reset or Keep has ended is handed back at the next start (R586, R601). -/
def startBack (b : Block) : Block :=
  if (b.imgSlot b.upd.running).st != 3 then b else
  let old := b.upd.old
  b |> handback 6 |> setSettings old |> modUpd fun u => { u with phase := 0 }
/-- R586: the slot's parts are verified; bad names the slots of which a part fails. The answer tells whether one starts. -/
def imageStart (bad : BitVec 2) (b : Block) : Bool × Block :=
  let b := startBack b
  let i := startSlot b
  let o : Fin 2 := 1 - i
  if !bad.getLsbD i.val then (true, modUpd (fun u => { u with running := i }) b)
  else if (b.imgSlot o).st = 6 && !bad.getLsbD o.val then
    (true, b |> modImg o (fun s => { s with st := 4 }) |> modImg i (fun s => { s with st := 5 }) |> modUpd (fun u => { u with running := o })
      |> evr 0xA07 (b.imgSlot o).seq 0)
  else (false, b)
/-- What a cold or warm reset or Keep does to an update in progress: a load ends, a shadow is abandoned, a probation has
failed and is handed back at the start (R601). -/
def updStop (b : Block) : Block :=
  if b.upd.phase = 6 then updAbandon 0x33 b
  else if b.upd.phase = 7 then b
  else modUpd (fun u => { u with phase := restPhase b, partner := none }) b
/-- After a power loss the build resumes, from a DONE_BLK that every 16 blocks renew: how far the build came is a free value
(R592, DEDUCED 141). -/
def updResume (b : Block) : Block :=
  let s := b.imgSlot (otherSlot b)
  let n := Config.freeNat b.freeCtr % (b.upd.total / 16 + 1) * 16
  if s.st = 1 then
    usedFree b |> modImg (otherSlot b) (fun s => { s with doneBlk := n }) |> modUpd (fun u => { u with phase := 3 }) |> evr 0xA08 s.seq n
  else b
/-- A block reset of UPD: a shadow is abandoned, a probation fails (R601). -/
def updBlockReset (b : Block) : Block :=
  if b.upd.phase = 6 then updAbandon 0x31 b else if b.upd.phase = 7 then updFail 6 b
  else if b.upd.phase = 1 then modUpd (fun u => { u with phase := restPhase b }) b else b
/-- A link reset ends a LOAD with 0x21 (R601). -/
def updLinkReset (b : Block) : Block := if b.upd.phase = 1 then (let c := updRefuse 0x21 b; setPhase (restPhase c) c) else b

/-- What a UPD register shows where it follows from the state (R602). -/
def liveUpd (ag : Agent) (b : Block) (o : Nat) : Option Nat :=
  let u := b.upd
  let busy := u.phase != 0 && u.phase != 4
  match o with
  | 0x04C => some (b01 busy * 2 ^ 31 + u.phase * 2 ^ 24 + u.part * 2 ^ 16 + u.result)
  | 0x060 => some u.fill
  | 0x064 => some (u.done * 2 ^ 16 + u.total)
  | 0x068 => some (b01 (u.slots[1].st = 4) * 2 ^ 31 + u.slots[0].st * 2 ^ 24 + u.slots[1].st * 2 ^ 20)
  | 0x06C => some b.image.seq
  | 0x070 => some (if (b.imgSlot (otherSlot b)).st = 2 then (b.imgSlot (otherSlot b)).seq else 0)
  | 0x080 => some (if u.phase = 7 then ceilDiv (probationEnd b - b.now) gtSec else 0)
  | 0x084 => some (b.agent ag).updOfs
  | _ => if 0x0C0 ≤ o && o < 0x0E0 then some (b.image.version ((o - 0x0C0) / 4 + 1)) else none

end Sys2Proof.Machine
end

