-- ==== Sys2Proof/Machine/Show.lean ====
section
/-! DEFINITION. What every register shows, page by page, where it follows from the state at the moment of the read. -/

namespace Sys2Proof.Machine
open Sys2Proof

/-- MODE_STS (R32). -/
def modeSts (b : Block) : Nat := (leadRate b).getD 0 * 256 + b01 b.mode.pend.isSome * 2 + b01 b.mode.shown

/-- Milliseconds of arrival time that the present epoch's retained records span (R234). -/
def jrnSpan (b : Block) : Nat :=
  match b.glean.recs.filter fun r => r.epoch == b.glean.epoch with
  | [] => 0
  | r :: l => ((l.getLast?.getD r).stamp - r.stamp) / gtMs 1
/-- What a GLEAN register shows (R234). Reads of CAL_UNIT to CAL_ANG give the committed entry of CAL_IDX. -/
def liveGlean (b : Block) (o : Nat) : Option Nat :=
  let on := entriesNow b fun _ => true
  match o with
  | 0x044 => some (min (Config.gleanShare (secOf b.now - 1)).toNat 1000)
  | 0x048 => some (max (b.f (pg 0x18 0x048) 31 16) (lagUs b) * 2 ^ 16 + lagUs b)
  | 0x04C => some on.length
  | 0x050 => some (sumN (on.map fun e => e.2.nph))
  | 0x080 => some b.glean.head
  | 0x084 => some (b.glean.head / 2 ^ 32)
  | 0x088 => some (jrnSpan b)
  | 0x08C => some (b.glean.epoch % 256)
  | _ =>
    if 0x064 ≤ o && o < 0x074 then some (b.n (calAddr (b.f (pg 0x18 0x060) 15 0) + (o - 0x064))) else none

/-- The code of a pair state (R474). -/
def PairRole.code : PairRole → Nat
  | .single => 0 | .forming => 1 | .active => 2 | .standby => 3 | .converging => 4 | .detached => 5 | .noRole => 6
/-- PAIR_STS (R497). -/
def pairSts (b : Block) : Nat :=
  b.pair.role.code * 2 ^ 28 + b01 b.senior * 2 ^ 24 + b01 (claimReady b) * 2 ^ 21 + b01 b.pair.linkUp * 2 ^ 20
    + b01 (leaseAlive b) * 2 ^ 19 + b01 (partnerHolds b) * 2 ^ 18 + b01 b.pair.holding * 2 ^ 17
    + b01 b.pair.lease.claimAt.isSome * 2 ^ 16
/-- PAIR_PARTNER (R497): straps from HELLO, the rest from the latest heartbeat. -/
def pairPartner (b : Block) : Nat :=
  (match b.pair.partner with | some h => h.straps.toNat * 2 ^ 24 | none => 0)
    + match b.pair.beat with
      | some h => h.health % 4 * 2 ^ 20 + b01 h.govern * 2 ^ 19 + b01 h.holding * 2 ^ 17 + b01 h.inStep * 2 ^ 16 + satU 16 h.lagMs
      | none => 0
/-- PAIR_LEASE (R497). -/
def pairLease (b : Block) : Nat :=
  let l := b.pair.lease
  satU 16 ((b.mono - l.shownAt.getD l.startAt) / gtMs 1) * 2 ^ 16 + min l.contend 255 * 2 ^ 8 + l.lastClass % 4
/-- What a PAIR register shows (R497). -/
def livePair (b : Block) (o : Nat) : Option Nat :=
  let lag := if b.linked then satU 16 (lagMs b) else 0
  match o with
  | 0x048 => some (pairSts b)
  | 0x04C => some (pairPartner b)
  | 0x058 => some (max b.pair.lagPeak lag * 2 ^ 16 + lag)
  | 0x05C => some (pairLease b)
  | _ => none
/-- What a PLINK register shows (R500). -/
def livePlink (b : Block) (o : Nat) : Option Nat :=
  let up := fun i => b.t (pg 0x09 0x040) i && b.pair.lanes.getLsbD i
  match o with
  | 0x044 => some (b01 (up 1) * 2 ^ 9 + b01 (up 0) * 2 ^ 8 + b.pair.lanes.toNat * 2 ^ 4 + b01 (up 0 && up 1) * 2 + b01 b.pair.linkUp)
  | 0x054 => some (max (b.f (pg 0x09 0x054) 31 16) (ceilDiv (rtxFill b) 1024) * 2 ^ 16 + ceilDiv (rtxFill b) 1024)
  | _ => none
/-- ROT_STS (R536). -/
def rotSts (b : Block) : Nat :=
  (match b.bist.rot with | some r => 2 ^ 31 + r.engine * 2 ^ 24 + r.spare * 2 ^ 16 | none => 0) + b.bist.rotDone % 2 ^ 16
/-- HK_STS (R291): bit 31 is HK_REF_FAIL. -/
def liveHk (b : Block) (o : Nat) : Option Nat :=
  if o = 0x048 then some (putBit (b.r (pg 0x21 0x048)) 31 b.hk.hkFail).toNat
  else if o = 0x044 then some (b.n (pg 0x21 0x044) ||| 0x00FF6003)
  else none

/-- Frames wait or travel at a port. -/
def portBusy (s : PortSt) : Bool :=
  s.sending.isSome || s.atGlean.isSome || !(s.rx.isEmpty && s.q0.isEmpty && s.q1.isEmpty && s.q2.isEmpty && s.d3.isEmpty && s.d4.isEmpty
    && s.c3.isEmpty && s.c4.isEmpty)
/-- PG_STS.BUSY: the block of a page has work in progress (R44; DEDUCED 206 says what counts as such work). -/
def pageBusy (b : Block) (p : Nat) : Bool :=
  if 0x04 ≤ p && p ≤ 0x07 then portBusy (b.port (p - 4))
  else if 0x40 ≤ p && p ≤ 0x59 then (liveEng b (p - 0x40) 0x044).any fun v => v.testBit 31
  else match p with
  | 0x00 => b.settings.writing.isSome || b.settings.deferred || b.mode.pend.isSome
  | 0x01 => b.supply.busy
  | 0x02 => b.time.slewEnd.isSome || b.time.stepWait.isSome || b.time.setPend.isSome
  | 0x09 => !b.pair.rtx.isEmpty
  | 0x18 => !b.glean.locq.isEmpty || (List.range 4).any fun q => (b.port q).atGlean.isSome
  | 0x19 => b.gran.replay.isSome || (List.range 4).any fun r => !(b.rate r).opens.isEmpty
  | 0x20 => (List.range 16).any fun c => !(b.chan c).pend.isEmpty
  | 0x22 => !b.chain.swaps.isEmpty
  | 0x23 => !b.chain.rsSwaps.isEmpty
  | 0x28 => !b.gran.toOsc.isEmpty
  | 0x29 => !b.gran.toIsl.isEmpty
  | 0x2A => !b.gran.toAlm.isEmpty || !b.alm.reqs.isEmpty
  | 0x2B => !b.gran.toCo.isEmpty || !b.gov.wait.isEmpty
  | 0x30 => !b.cap.queue.isEmpty || (List.range 32).any fun d => (b.cdef d).ph == .recording || (b.cdef d).held.isSome
  | 0x38 => !(b.thr.raised.isEmpty && b.thr.held.isEmpty && b.thr.pend.isEmpty && b.thr.done.isEmpty)
  | 0x60 => !(b.pair.inq.isEmpty && b.pair.arbs.isEmpty && b.pair.takeReplays.isEmpty)
  | 0x64 => !(b.evr.queue.isEmpty && b.evr.occ.isEmpty)
  | 0x68 => b.keys.write.isSome || b.keys.verifying.isSome || !b.keys.signing.isEmpty
  | 0x6C => b.upd.phase != 0
  | 0x70 => b.bist.rot.isSome
  | 0x7C => b.keys.clearing.isSome
  | 0x81 => b.sb.resp.any fun r => !r.ready
  | _ => false
/-- PG_STS.SETTLED: the part has started, the page is powered and in no reset, and what its outputs settle from is over
(R44, R45; DEDUCED 206). -/
def pageSettled (b : Block) (p : Nat) : Bool :=
  let base := b.dev.step == .done && !b.dev.cold && !b.dev.warm && b.powered p && !b.inReset p
  base && (if 0x04 ≤ p && p ≤ 0x07 then (b.port (p - 4)).link
    else match p with
    | 0x01 => !b.supply.busy
    | 0x02 => b.time.valid && b.time.slewEnd.isNone
    | 0x09 => b.pair.linkUp
    | 0x20 | 0x22 => (List.range 16).all fun c => !(b.chan c).on || !(b.chan c).pSupp
    | 0x23 => (svOn b).all fun v => (b.svSt v).settle = 0
    | 0x60 => b.pair.role != .forming && b.pair.role != .converging
    | _ => true)
/-- The raw causes that stand as levels: conditions of the block. A cause that names an occurrence lasts no longer than the step
that sets PG_IRQ, and reads 0 (R44; DEDUCED 8). -/
def irqLevel (b : Block) (p : Nat) : Nat :=
  let f := fun (l : List (Nat × Bool)) => sumN (l.map fun e => b01 e.2 * 2 ^ e.1)
  let chans := fun (q : ChanSt → Bool) => (List.range 16).any fun c => q (b.chan c)
  if 0x10 ≤ p && p ≤ 0x13 then maskOf 16 fun i => (b.silo ((p - 0x10) * 16 + i)).marker
  else if 0x40 ≤ p && p ≤ 0x57 then f [(0, (b.eng (p - 0x40)).gone)]
  else match p with
  | 0x20 => f [(3, b.hk.refFail), (2, chans (·.sat)), (1, chans (·.opened))]
  | 0x21 => f [(2, b.hk.hkFail), (1, b.n (pg 0x21 0x050) != 0)]
  | 0x22 => f [(2, b.n (pg 0x22 0x05C) != 0)]
  | 0x2A => f [(2, (List.range 16).any fun i => (b.ball i).latched)]
  | 0x2B => f [(2, b.gov.hold)]
  | 0x38 => f [(2, b.t (pg 0x38 0x00C) 2), (1, !b.thr.held.isEmpty)]
  | 0x60 => f [(1, b.pair.lease.wireFault)]
  | 0x7C => f [(0, b.keys.latched)]
  | _ => 0
/-- PG_STS: DEGRADED and FAULT as kept, SETTLED and BUSY as they stand. -/
def pgSts (b : Block) (p : Nat) : Word :=
  putBit (putBit (b.r (pg p 0x00C)) 1 (pageSettled b p)) 0 (pageBusy b p)

/-- What a register shows where it follows from the state and not from its stored word. -/
def showWord (ag : Agent) (b : Block) (p o : Nat) : Option Nat :=
  let own := match p with
    | 0x00 => if o = 0x044 then some (modeSts b) else none
    | 0x09 => livePlink b o
    | 0x18 => liveGlean b o
    | 0x19 => liveGran b o
    | 0x20 => liveAcq b o
    | 0x21 => liveHk b o
    | 0x22 => liveWin b o
    | 0x23 => liveRs b o
    | 0x24 => livePhest b o
    | 0x28 => liveOsc b o
    | 0x29 => liveIsl b o
    | 0x2A => liveAlm b o
    | 0x2B => liveGov b o
    | 0x30 => liveCap b o
    | 0x38 => liveThr b o
    | 0x60 => livePair b o
    | 0x6C => liveUpd ag b o
    | 0x70 => if o = 0x050 then some (rotSts b) else none
    | _ => if 0x40 ≤ p && p ≤ 0x59 then liveEng b (p - 0x40) o else none
  own.orElse fun _ => liveWord ag b p o

/-- The value of a register or table word as it stands live, for an agent. -/
def liveReg (ag : Agent) (b : Block) (a : Nat) : Word :=
  if a < 0x100000 then
    let p := a / 0x1000
    let o := a % 0x1000
    if o = 0x00C then pgSts b p
    else if o = 0x010 then putBit (w32 (irqLevel b p)) 31 (0 < b.f (pg p 0x01C) 31 8)
    else if o = 0x024 then mget 0 (b.agent ag).seq p
    else match rowOf a with
      | none => 0
      | some r =>
        if r.acc == .wo then 0 else
        match showWord ag b p o with
        | some v => w32 v
        | none => b.r a
  else b.r a

end Sys2Proof.Machine
end

