-- ==== Sys2Proof/Machine/Recorder.lean ====
section
/-! DEFINITION. The event recorder (R541–R553): admission at the grant point, the write to the ring, the buckets, the
search at start, and the two agents' windows. -/

namespace Sys2Proof.Machine
open Sys2Proof

/-- Address of a code's rate entry (R545). -/
def rateAt (code : Nat) : Nat := 0x740000 + code % 4096 * 16
/-- The bucket size of a code in 10^-6 record. -/
def bucketCap (b : Block) (code : Nat) : Nat := b.f (rateAt code) 15 8 * 1000000
/-- Tokens in a code's bucket: full where none are listed (R546). -/
def bucketOf (b : Block) (code : Nat) : Nat := match b.evr.tokens.find? (fun e => e.1 == code) with
  | some e => min e.2 (bucketCap b code)
  | none => bucketCap b code
/-- Sets the tokens of a code's bucket. -/
def setBucket (code n : Nat) (b : Block) : Block := { b with evr := { b.evr with tokens := mins b.evr.tokens code n } }
/-- The global bucket's size (R546). -/
def globalCap : Nat := 4096 * 1000000
/-- EVR counter i (R554). -/
def evrCnt (i : Nat) : Nat := pg 0x64 (0x200 + 8 * i)
/-- SUPPRESSED of a code (R545). -/
def supprAt (code : Nat) : Nat := rateAt code + 8

/-- The words of a snapshot set that are valid: the first with VALID at 0 ends the list (R548). -/
def snapAddrs (b : Block) (set : Nat) : List Nat :=
  (((List.range 16).map fun i => b.r (pg 0x64 (0x800 + 0x40 * set + 4 * i))).takeWhile fun w => bitAt w 31).map fun w =>
    pg (fld w 19 12) (fld w 11 2 * 4)
/-- The value a snapshot takes of a register (R548). -/
def snapRead (b : Block) (a : Nat) : Word := if b.powered (a / 0x1000) then liveReg .host b a else 0xFFFFFFFF

/-- Admission: SEQ, times, counters and snapshot in one step (R541, R544, R547, R548). -/
def admitted (o : EvrOcc) (b : Block) : EvrRec × Block :=
  let code := o.code % 4096
  let snap := b.f (rateAt code + 4) 7 0
  let on := snap.testBit 7
  let as_ := if on then snapAddrs b (snap % 32) else []
  let suppr := b.n (supprAt code)
  let body := leBytes 4 b.evr.next.toNat ++ leBytes 2 code ++ [BitVec.ofNat 8 as_.length, BitVec.ofNat 8 (b01 on * 128 + b01 on * (snap % 32))]
    ++ leBytes 8 (b.evr.opSec % 2 ^ 40) ++ leBytes 4 b.evr.pcyc ++ shortForm b.now ++ [0, 0]
    ++ leBytes 4 o.arg1.toNat ++ leBytes 4 o.arg2.toNat ++ leBytes 4 suppr ++ leBytes 4 (b.n (pg 0x00 0x108))
    ++ padTo 64 (bytesOfWords (as_.map (snapRead b)))
  let r : EvrRec :=
    { seq := b.evr.next, code := code, timeValid := b.time.valid, suppr := suppr, body := body,
      snapPartial := as_.any fun a => !b.powered (a / 0x1000) }
  (r, { b with evr := { b.evr with next := b.evr.next + 1 } } |> wr (supprAt code) 0)

/-- A record's 128 bytes as committed (R547). -/
def recBytes (r : EvrRec) (lostBefore : Bool) : List Byte :=
  let flags := b01 r.timeValid * 2 ^ 15 + b01 r.deferred * 2 ^ 14 + b01 lostBefore * 2 ^ 13 + b01 r.snapPartial * 2 ^ 12 + r.code
  let l := padTo 124 (splice r.body 4 (leBytes 2 flags))
  l ++ leBytes 4 (crc32c l)
/-- MRAM address of a sequence number's position (R541). -/
def ringAt (seq : Word) : Nat := 0x02C00000 + seq.toNat % 65536 * 128
/-- A record of this sequence number at or past the head moves the head. -/
def headAfter (b : Block) (seq : Word) : Word :=
  if (seq - b.evr.head).toNat < 2 ^ 31 then seq + 1 else b.evr.head
/-- The write of a record to its ring position, and its mirror to silo 60 (R542, R551). -/
def commitRec (r : EvrRec) (b : Block) : Block :=
  let l := recBytes r b.evr.lostBefore
  let h := headAfter b r.seq
  let b2 := { b with
      mram := writeBytes b.mram (ringAt r.seq) l,
      evr := { b.evr with head := h, lostBefore := false, full := b.evr.full || decide (65536 ≤ h.toNat) || (h == 0 && r.seq != 0) } }
    |> cnt (evrCnt 0) |> onlyIf r.deferred (cnt (evrCnt 3)) |> cnt (pg 0x78 0x110)
  if b.t (rateAt r.code) 5 && b.dev.st != .keep then
    siloPut 60 (padTo 64 ([0x09, 0x02, 0, 0] ++ leBytes 4 h.toNat) ++ l) b2
  else b2

/-- The latest occurrence, if any, is at least one second of the always-on timer past (DEDUCED 129, 183). -/
def quietFor (b : Block) (t : Option Nat) : Bool := match t with
  | none => true
  | some m => decide (m + 1000 ≤ b.evr.aonMs)
/-- A suppressed occurrence (R546). -/
def suppress (code : Nat) (globalShort : Bool) (b : Block) : Block :=
  let first := quietFor b b.evr.supprAt
  { b with evr := { b.evr with supprAt := some b.evr.aonMs } } |> cnt32 (supprAt code) |> cnt (evrCnt 1)
    |> onlyIf globalShort (cnt (evrCnt 2)) |> onlyIf first (irq 0x64 0)
/-- An admitted record enters the queue, bypasses it, or is lost at a full queue (R542). -/
def enqueue (o : EvrOcc) (b : Block) : Block :=
  let code := o.code % 4096
  if code = 0x010 || code = 0x012 then
    let (r, b2) := admitted o b
    commitRec r b2
  else if b.evr.queue.length < 256 then
    let (r, b2) := admitted o b
    { b2 with evr := { b2.evr with queue := b2.evr.queue ++ [{ r with deferred := b.supply.brace }] } }
  else
    let first := quietFor b b.evr.lossAt
    let b2 := { b with evr := { b.evr with lostBefore := true, lossAt := some b.evr.aonMs } }
      |> cnt32 (pg 0x64 0x05C) |> cnt32 (supprAt code)
    if first then b2 |> irq 0x64 1 |> evr 0x020 (b2.n (pg 0x64 0x05C)) 0 else b2
/-- One occurrence is decided (R546). -/
def decide1 (o : EvrOcc) (b : Block) : Block :=
  let code := o.code % 4096
  if b.t (rateAt code) 7 then b else
  let b2 := cntWrap (rateAt code + 12) b
  if b.t (rateAt code) 6 then
    if b.evr.unlimited < 1000 then
      enqueue o { b2 with evr := { b2.evr with unlimited := b2.evr.unlimited + 1 } }
    else suppress code true b2
  else
    let own := decide (1000000 ≤ bucketOf b code)
    let glob := decide (b.evr.globalUsed + 1000000 ≤ globalCap)
    if own && glob then
      b2 |> setBucket code (bucketOf b code - 1000000)
        |> (fun c => { c with evr := { c.evr with globalUsed := c.evr.globalUsed + 1000000 } }) |> enqueue o
    else suppress code (own && !glob) b2
/-- The place of an occurrence among those in ascending code order, after its equals. -/
def occInsert (o : EvrOcc) : List EvrOcc → List EvrOcc
  | [] => [o]
  | x :: l => if o.code < x.code then o :: x :: l else x :: occInsert o l
/-- Those pending together, in ascending code order. -/
def occSort (l : List EvrOcc) : List EvrOcc := l.foldl (fun s o => occInsert o s) []

/-- R544: the occurrences pending at the grant point are decided together; before the search has ended they wait. -/
def execEvrOccurrence (s : State) : Out :=
  s.run fun b =>
    if !b.evr.ready then b else
    forEach (occSort b.evr.occ) decide1 { b with evr := { b.evr with occ := [] } }

/-- R542: the oldest queued record is written, unless brace defers MRAM writes. -/
def execEvrCommit (s : State) : Out :=
  s.run fun b =>
    if b.supply.brace then b else
    match b.evr.queue with
    | [] => b
    | r :: rest => commitRec r { b with evr := { b.evr with queue := rest } }

/-- R546: every ms of the always-on timer the buckets gain their refill. -/
def execEvrBucketRefill (s : State) : Out :=
  s.run fun b =>
    if b.dev.st == .off then b else
    let t := b.evr.tokens.map fun e => (e.1, min (e.2 + b.f (rateAt e.1) 31 16) (bucketCap b e.1))
    let gr := b.f (pg 0x64 0x040) 13 0 * 1000
    { b with evr := { b.evr with tokens := t, globalUsed := b.evr.globalUsed - gr, aonMs := b.evr.aonMs + 1 } }

/-- R546, R547: at each whole second of the always-on timer the cap's count returns to 0 and OP_SEC increases. -/
def execEvrSecondTick (s : State) : Out :=
  s.run fun b =>
    if b.dev.st == .off || b.evr.aonMs / 1000 ≤ b.evr.secDone then b else
    let kept := if b.supply.brace then b.evr.flushed.1 else b.evr.opSec + 1
    { b with evr := { b.evr with unlimited := 0, secDone := b.evr.aonMs / 1000, opSec := b.evr.opSec + 1, flushed := (kept, b.evr.flushed.2) } }

/-- A position holds a record whose CRC is good (R543). -/
def recGood (l : List Byte) : Bool := leAt l 124 4 == crc32c (l.take 124) && l.length == 128
/-- Positions of the ring that hold any byte other than 0. -/
def ringUsed (b : Block) : List Nat :=
  (b.mram.filterMap fun e =>
    if 0x02C00000 ≤ e.1 && e.1 < 0x03400000 then some ((e.1 - 0x02C00000) / 128) else none).eraseDups
/-- The sequence numbers of good records at their own positions. -/
def ringSeqs (b : Block) : List Nat :=
  (ringUsed b).filterMap fun p =>
    let l := readBytes b.mram (0x02C00000 + p * 128) 128
    if recGood l && leAt l 0 4 % 65536 == p then some (leAt l 0 4) else none
/-- R543: the head is one more than the highest SEQ with a good CRC. -/
def execEvrRingSearch (s : State) : Out :=
  s.run fun b =>
    if b.evr.ready || !b.aon then b else
    let l := ringSeqs b
    let h : Word := if l.isEmpty then 0 else w32 (l.foldl max 0 + 1)
    { b with evr := { b.evr with ready := true, head := h, next := h, full := b.evr.full || decide (65536 ≤ h.toNat) } }

/-- The status of a window at a cursor (R549). -/
def winStatus (b : Block) (cur : Word) (l : List Byte) : Nat :=
  if 2 ^ 31 ≤ (cur - b.evr.tail).toNat then 1
  else if (cur - b.evr.head).toNat < 2 ^ 31 then 2
  else if recGood l && w32 (leAt l 0 4) == cur then 0 else 3
/-- A read of word 0 of EVR_WIN (R549). -/
def evrWin (ag : Agent) (b : Block) : Block :=
  let cur := (b.agent ag).evrCur
  let l := readBytes b.mram (ringAt cur) 128
  let st := winStatus b cur l
  let w := if st = 0 then wordsOf 32 l else List.replicate 32 0
  b |> modAgent ag (fun g => { g with evrWin := w, evrWinSts := st, compl := nth w 0 0 })
/-- R549. -/
def execEvrWinRead (ag : Agent) (s : State) : Out := s.run (byAgent ag (evrWin ag))

/-- A write to EVR_ADV (R550). -/
def evrAdvance (ag : Agent) (v : Word) (b : Block) : Block :=
  let n := fld v 15 0
  if n = 0 then err 0x64 0x06 b else modAgent ag (fun g => { g with evrCur := g.evrCur + w32 n }) b
/-- R550. -/
def execEvrAdv (ag : Agent) (v : Word) (s : State) : Out := s.run (cmdGate ag 0x64 0x084 (evrAdvance ag v))

end Sys2Proof.Machine
end

