-- ==== Sys2Proof/Machine/Supply.lean ====
section
/-! DEFINITION. Supervisors, brace and the adaptive-voltage loop (R93–R100). Their intervals run on always-on time. -/

namespace Sys2Proof.Machine
open Sys2Proof

/-- AVS_STS as the loop stands (R110). -/
def avsSts (b : Block) : Nat :=
  let s := b.supply
  s.reqMv * 2 ^ 16 + s.readMv * 16 + b01 s.atCeil * 8 + b01 s.fault * 4 + b01 s.busy * 2 + b01 s.avsOn
/-- SUP_STS as the supervisors stand (R110). -/
def supSts (b : Block) : Nat := b01 b.supply.brace * 256 + maskOf 5 fun i => b.supply.warn.any fun x => x.val == i
/-- AVS_STS, SPEED_STS and SUP_STS, of class W, follow the loop and the supervisors at their next event (DESIGN CHOICE 185). -/
def supShow (b : Block) : Block :=
  b |> wn (pg 0x01 0x048) (avsSts b) |> wn (pg 0x01 0x04C) (pat 16 b.supply.margin * 2 ^ 16 + b.supply.speed % 2 ^ 16)
    |> wn (pg 0x01 0x050) (supSts b)
/-- Changes the supervisors and the loop. -/
def modSup (f : Supply → Supply) (b : Block) : Block := { b with supply := f b.supply }

/-! Supervisors (R97–R100). -/

/-- The warning level of a supply, mV: for VDD_CORE 50 mV under the request, the lower one while it changes (R97). -/
def warnLevel (b : Block) (i : Fin 5) : Nat :=
  if i = 1 then 760 else if i = 3 then 3140 else if i = 4 then
    (if b.supply.busy then min b.supply.reqMv b.supply.okMv else b.supply.reqMv) - 50
  else 1710
/-- The reset level of a supply, mV (R97). -/
def resetLevel (i : Fin 5) : Nat := if i = 1 then 720 else if i = 3 then 2970 else if i = 4 then 500 else 1620
/-- Supplies seen above their warning level plus 20 mV hold no reset any more (R97). -/
def suppliesUp (up : BitVec 5) (b : Block) : Block :=
  modSup (fun s => { s with low := s.low.filter fun i => !up.getLsbD i.val }) b
/-- One of these supplies still holds its matching reset (R97). -/
def Block.heldBy (b : Block) (l : List (Fin 5)) : Bool := b.supply.low.any l.contains

/-- Record 0x010 is committed first (R98): the recorder decides it at once. Before the search at the start has ended no record can be
written, and the occurrence waits (R543). -/
def recordNow (o : EvrOcc) (b : Block) : Block := if b.evr.ready then decide1 o b else evr o.code o.arg1.toNat o.arg2.toNat b
/-- The journal pointers and the operating counters are flushed to MRAM (R98). -/
def flushMram (b : Block) : Block :=
  { b with
    glean := { b.glean with flushed := b.glean.head }
    evr := { b.evr with flushed := (b.evr.opSec, b.evr.pcyc) }
    supply := { b.supply with flushed := true } }
/-- Brace begins: the record, the flush, the deferral of MRAM writes, in this order (R98). -/
def braceEnter (i : Fin 5) (b : Block) : Block :=
  let c := b |> recordNow ⟨0x010, w32 i.val, 0⟩ |> flushMram |> modSup (fun s => { s with brace := true })
  { c with evr := { c.evr with queue := c.evr.queue.map fun r => { r with deferred := true } } } |> wbit (pg 0x78 0x040) 2 true
/-- A supply falls below its warning level: brace begins, or a brace under way takes another dip (R98, R100). -/
def supplyWarn (i : Fin 5) (mv : Nat) (b : Block) : Block :=
  if b.supply.warn.contains i || !b.aon || warnLevel b i ≤ mv then b else
  b |> modSup (fun s => { s with warn := s.warn ++ [i], dips := s.dips ++ [⟨i, b.mono, mv⟩] })
    |> onlyIf (!b.supply.brace) (braceEnter i) |> supShow
/-- R98. -/
def execSupplyWarning (supply : Fin 5) (mv : Nat) (s : State) : Out := s.run (supplyWarn supply mv)

/-- The step in which a supply's lowest voltage is tracked, mV (R99). -/
def dipStep (i : Fin 5) : Nat := if i = 1 || i = 4 then 4 else if i = 3 then 16 else 8
/-- A dip record (R99): its lowest voltage, rounded down to the tracking step (DESIGN CHOICE 186), and its duration. -/
def dipRecord (d : Dip) (lowMv usAgo : Nat) (b : Block) : Block :=
  let low := min d.lowMv lowMv / dipStep d.supply * dipStep d.supply
  let us := (b.mono - d.start) / gtNs 1000 - usAgo
  b |> evr 0x011 (d.supply.val * 2 ^ 28 + low % 4096 * 2 ^ 16) (satU 32 us) |> cnt32 (pg 0x01 0x054)
    |> wn (pg 0x01 0x058) (d.supply.val * 2 ^ 28 + low % 4096 * 2 ^ 16 + satU 16 us)
/-- The dips in order with what the supervisors tracked of each. -/
def dipRecords : List Dip → List (Nat × Nat) → Block → Block
  | [], _, b => b
  | d :: l, ws, b => dipRecords l ws.tail (dipRecord d (ws.headD (d.lowMv, 0)).1 (ws.headD (d.lowMv, 0)).2 b)
/-- A deferred MRAM write goes on (R99). -/
def waitResume (w : MramWait) (b : Block) : Block := match w with
  | .settings => settingsResume b
  | .repair => rmapNext b
  | .key => modKeys (fun k => { k with deferred := false }) b
/-- Brace ends: dip records, then the deferred MRAM writes in the order of issue (R99). -/
def braceExit (lows : List (Nat × Nat)) (b : Block) : Block :=
  if !b.supply.brace then b else
  b |> dipRecords b.supply.dips lows
    |> modSup (fun s => { s with brace := false, flushed := false, warn := [], dips := [], low := [], waits := [] })
    |> wbit (pg 0x78 0x040) 2 false |> forEach b.supply.waits waitResume
    |> (fun c => { c with evr := { c.evr with flushed := (c.evr.opSec, c.evr.pcyc) } }) |> supShow
/-- R99. -/
def execBraceExit (lows : List (Nat × Nat)) (s : State) : Out := s.run (braceExit lows)

/-! The adaptive-voltage loop (R93–R96). -/

/-- S meets or misses a margin in per cent, judged exactly: M < p where S / 1.10 < 1 + p / 100 (R93). -/
def marginBelow (speed p : Nat) : Bool := decide (speed * 1000 < 11264 * (100 + p))
/-- M in 0.1 % (R110), rounded down (DESIGN CHOICE 187). -/
def marginOf (speed : Nat) : Int := (speed * 10000 : Int) / 11264 - 1000
/-- A PMBus transaction with the regulator at AVS_CTL.ADDR (R94). -/
def pmbus (command : Nat) (data : List Byte) (b : Block) : Block := emit (.pmbus (b.f (pg 0x01 0x040) 6 0) command data) b
/-- VOUT_COMMAND with a request, in the format of VOUT_MODE (R94). -/
def voutCommand (mv : Nat) (b : Block) : Block := pmbus 0x21 (leBytes 2 (Config.voutWord (b.supply.vmode.getD 0) mv)) b
/-- A request is written to the regulator (R94): it awaits its confirmation. -/
def avsWrite (mv : Nat) (b : Block) : Block :=
  b |> modSup (fun s => { s with reqMv := mv, busy := true, stepAt := b.mono, polledAt := b.mono }) |> voutCommand mv
/-- A step, where the request changes. -/
def avsStep (mv : Nat) (b : Block) : Block := if mv = b.supply.reqMv then b else avsWrite mv b
/-- The request the loop moves to from the present one (R93, R96). A step that would pass the floor, the 850 mV ceiling or the manual
target ends there (DESIGN CHOICE 188). -/
def avsTarget (b : Block) (speed : Nat) : Nat :=
  let req := b.supply.reqMv
  let ctl := b.r (pg 0x01 0x040)
  let floor := fld ctl 27 16
  let sag := b.supply.brace && b.supply.warn.contains 4
  if bitAt ctl 7 then
    let t := b.f (pg 0x01 0x044) 11 0
    if req < t then min t (req + 10) else if sag then req else max t (req - 10)
  else if marginBelow speed 15 && req < 850 then min 850 (req + 10)
  else if !marginBelow speed 25 && speed * 1000 != 11264 * 125 && floor < req && !sag then max floor (req - 10)
  else req
/-- AT_CEIL follows the margin at 850 mV; its rise writes the record and degrades the page (R95). -/
def avsCeil (speed : Nat) (b : Block) : Block :=
  let now := marginBelow speed 15 && b.supply.reqMv == 850
  let was := b.supply.atCeil
  let b2 := b |> modSup (fun s => { s with atCeil := now }) |> stsBit 0x01 2 now
  if now && !was then
    b2 |> err 0x01 0x23 |> evr 0x009 (pat 16 b.supply.margin * 2 ^ 16 + speed % 2 ^ 16) 0 |> healthCond 1 true
  else if was && !now then healthCond 1 false b2 else b2
/-- R93: every 10 ms the loop evaluates the margin. -/
def execAvsEvaluate (speed : BitVec 16) (s : State) : Out :=
  s.run fun b =>
    if !b.supply.avsOn || b.mono < b.supply.evalAt + gtMs 10 then b else
    let v := speed.toNat
    let b2 := b |> modSup (fun s => { s with speed := v, margin := marginOf v, evalAt := b.mono }) |> avsCeil v
    supShow (if b2.supply.busy || b2.supply.fault then b2 else avsStep (avsTarget b2 v) b2)

/-- A failed transaction or a request that has not settled (R95): the last confirmed request is held. -/
def avsFailed (code : Nat) (b : Block) : Block :=
  b |> modSup (fun s => { s with fault := true, busy := false, failMv := s.reqMv, reqMv := s.okMv, retryAt := b.mono })
    |> err 0x01 code |> evr 0x008 code b.supply.okMv |> healthCond 0 true |> supShow
/-- What a transaction's answer does: a failure, or its value goes on (R95, R111). -/
def withReply (reply : PmbusReply) (f : Nat → Block → Block) (b : Block) : Block := match reply with
  | .noAck => avsFailed 0x20 b
  | .badPec => avsFailed 0x21 b
  | .value v => f v b
/-- The regulator's VOUT_MODE is read, once after each cold reset (R94). -/
def readVoutMode (reply : PmbusReply) (b : Block) : Block :=
  b |> pmbus 0x20 [] |> withReply reply fun v => modSup fun s => { s with vmode := some (v % 256) }
/-- The loop starts with the settings (R89, R94). -/
def avsStart (reply : PmbusReply) (b : Block) : Block :=
  if b.supply.avsOn then b
  else b |> modSup (fun s => { s with avsOn := true, evalAt := b.mono }) |> readVoutMode reply |> supShow
/-- The code of a failure (R111). -/
def avsCode : AvsFail → Nat
  | .noAck => 0x20 | .badPec => 0x21 | .notSettled => 0x22
/-- R95. -/
def execAvsSettleTimeout (why : AvsFail) (s : State) : Out :=
  s.run fun b =>
    if !b.supply.busy || (why == .notSettled && b.mono < b.supply.stepAt + gtMs 5) then b else avsFailed (avsCode why) b
/-- A reading within ±10 mV confirms the request, and that clears a fault (R94, R95). -/
def avsConfirm (mv : Nat) (b : Block) : Block :=
  let c := modSup (fun s => { s with readMv := mv % 4096, polledAt := b.mono }) b
  supShow (if mv ≤ b.supply.reqMv + 10 && b.supply.reqMv ≤ mv + 10 then
    c |> modSup (fun s => { s with busy := false, okMv := s.reqMv, fault := false }) |> onlyIf b.supply.fault (healthCond 0 false)
  else c)
/-- R94: READ_VOUT, 1 ms after the write and then every 1 ms. -/
def execAvsReadVout (reply : PmbusReply) (s : State) : Out :=
  s.run fun b =>
    if !b.supply.busy || b.mono < b.supply.polledAt + gtMs 1 then b
    else b |> pmbus 0x8B [] |> withReply reply avsConfirm
/-- R95: once a second after a fault the loop tries again: VOUT_MODE where that has not been read, then the step. -/
def execAvsRetry (vout : PmbusReply) (s : State) : Out :=
  s.run fun b =>
    if !b.supply.fault || b.supply.busy || b.mono < b.supply.retryAt + gtSec then b else
    let c := b |> modSup (fun s => { s with retryAt := b.mono }) |> onlyIf b.supply.vmode.isNone (readVoutMode vout)
    supShow (if c.supply.vmode.isNone then c else avsWrite c.supply.failMv c)
/-- R94: AVS_ALERT_N falls; STATUS_WORD is read and CLEAR_FAULTS sent. -/
def execAvsAlert (status : PmbusReply) (clear : PmbusReply) (s : State) : Out :=
  s.run fun b =>
    if !b.supply.avsOn then b else
    b |> pmbus 0x79 [] |> withReply status fun v b =>
      b |> onlyIf (v != 0) (err 0x01 0x24) |> pmbus 0x03 [] |> withReply clear fun _ b => b

end Sys2Proof.Machine
end

