-- ==== Sys2Proof/Machine/Dev.lean ====
section
/-! DEFINITION. Modes, operating states, resets, the start sequence, the watchdogs, brace's end and self-test
(R25–R33, R74–R80, R97–R101, R503–R518, R526–R537, R570, R571), with what each chapter's table of resets gives its
block. -/

namespace Sys2Proof.Machine
open Sys2Proof

/-! The operating mode (R28–R33). -/

/-- A mode in force from a time on; with a change of mode the adapted gains are gone (R29). -/
def modeTake (m : Bool) (te : Gt) (b : Block) : Block :=
  if m = b.mode.govern then { b with mode := { b.mode with pend := none } }
  else
    { b with mode := { b.mode with govern := m, changes := (te, m) :: b.mode.changes, pend := none } }
      |> wn (pg 0x00 0x040) (b01 m) |> forEach (List.range 16) (fun c => modCo c fun s => { s with g := none, bound := false })
/-- A mode in force at once where no bale rate is enabled: MODE_NOW shows it (R28, R32; DESIGN CHOICE 184). -/
def modeAtOnce (m : Bool) (te : Gt) (b : Block) : Block :=
  let c := modeTake m te b
  { c with mode := { c.mode with shown := m } }
/-- Why a mode request is refused, 0 where it is not (R31). -/
def modeRefusal (b : Block) : Nat :=
  if b.mode.pend.isSome then 0x21
  else if b.upd.phase = 6 || b.upd.phase = 7 then 0x22
  else if b.member && (b.linked || b.pair.role == .detached) then 0x23
  else if b.member && b.pair.role != .active then 0x24
  else 0
/-- A write of MODE_CTL (R28, R30): T_eff is fixed; without a bale rate the mode changes at once. -/
def modeReq (v : Word) (b : Block) : Block :=
  let code := modeRefusal b
  if code != 0 then err 0x00 code b else
  let m := bitAt v 0
  let c := wn (pg 0x00 0x040) (b01 m) b
  match leadRate b with
  | none => c |> modeAtOnce m b.now |> onlyIf b.mirrors (plSend (.mode m b.now))
  | some r =>
    let te := nextInst (b.rateHz r) b.now
    c |> modePend m te |> onlyIf b.mirrors (plSend (.mode m te))
/-- R28. -/
def execModeRequest (ag : Agent) (v : Word) (s : State) : Out := s.run (cmdGateL ag 0x00 0x040 (modeReq v))
/-- R29: T_eff is reached: every later bale is evaluated in the new mode. -/
def execModeChange (s : State) : Out :=
  s.run fun b => match b.mode.pend with
  | none => b
  | some (m, te) =>
    match leadRate b with
    | none => if te ≤ b.now then modeAtOnce m te b else b
    | some _ => if b.running && te ≤ b.mark then modeTake m te b else b
/-- After a start, and on return from Keep or Idle, MODE_CTL.MODE applies from the first bale of every rate, each of which
is later than the watermark; a pending request completes at the lead rate's (R33). -/
def modeRestart (b : Block) : Block :=
  let m := b.t (pg 0x00 0x040) 0
  match leadRate b with
  | some r => b |> modeTake m (b.mark + 1) |> onlyIf b.mode.pend.isSome (modePend m (nextInst (b.rateHz r) b.mark))
  | none => modeAtOnce m b.now b

/-! Slice overruns (R25). -/

/-- R25: the late slice completes with its outputs invalid; the slice's time has no stated value. -/
def sliceOver (u : SliceUnit) (b : Block) : Block :=
  let ns := Config.freeNat b.freeCtr
  let c := updFail 2 (usedFree b)
  match u with
  | .estimator =>
    let m := (sliceDue b).getD (b.chain.slice.elim 0 (· + 1))
    c |> modChain (fun s => { s with late := s.late ++ [m] }) |> setFault 0x24 |> cnt32 (pg 0x24 0x058) |> evr 0x412 (m % 12800) ns |> irq 0x24 1
  | .oscillation =>
    let j := b.osc.slice.elim 0 (· + 1)
    c |> modOsc (fun o => { o with late := true }) |> setFault 0x28 |> cnt32 (pg 0x28 0x04C) |> evr 0x502 (j % 12800) ns |> irq 0x28 3
  | .islanding =>
    c |> modIsl (fun i => { i with late := true }) |> setFault 0x29 |> cnt32 (pg 0x29 0x05C) |> evr 0x513 (b.gran.toIsl.head?.elim 0 (·.idx)) ns |> irq 0x29 2
/-- R25. -/
def execSliceOverrun (unit : SliceUnit) (s : State) : Out := s.run fun b => if b.up then sliceOver unit b else b

/-! Registers at a reset (R12, R45, R517). -/

/-- The register is of one of the classes. -/
def ofClass (cs : List Cls) (a : Nat) : Bool := (rowOf a).any fun r => cs.contains r.cls
/-- PG_CTL at an address. -/
def isPgCtl (a : Nat) : Bool := decide (a < 0x100000) && a % 0x1000 = 0x008
/-- Registers of the classes at their reset values; FREEZE, of class B, with them. -/
def regsReset (cs : List Cls) (p : Nat → Bool) (b : Block) : Block :=
  let fz := cs.contains .b
  { b with
    regs := b.regs.filterMap fun e =>
      if 0x100000 ≤ e.1 || !p (e.1 / 0x1000) then some e
      else if ofClass cs e.1 then none
      else if fz && isPgCtl e.1 then (let v := putBit e.2 2 false; if v = regDefault e.1 then none else some (e.1, v))
      else some e
    held := if fz then b.held.filter fun e => !p (e.1 / 0x1000) else b.held
    frozen := if fz then b.frozen.filter fun q => !p q else b.frozen }
/-- What an agent holds for registers of the classes (R47). -/
def agentReset (cs : List Cls) (g : AgentSt) : AgentSt :=
  { g with shadow := g.shadow.filter fun e => !ofClass cs e.1, stagedLo := g.stagedLo.filter fun e => !ofClass cs e.1 }
/-- The agents' own registers of class W: snapshots, windows, nonces, the data window (R49, R549, R570, R602). -/
def agentWarm (g : AgentSt) : AgentSt :=
  { agentReset [.w, .l, .b] g with
    bank := [], bankPages := [], seq := [], evrWin := [], evrWinSts := 0, attNonce := [], attStmt := [], attSts := 0, updOfs := 0,
    updWin := [] }
/-- Registers that follow what outlasts a reset: MRAM, repair map, lanes, health. -/
def statusRegs (b : Block) : Block :=
  b |> wbit (pg 0x78 0x040) 0 true |> wbit (pg 0x78 0x040) 2 b.supply.brace |> rmapRegs |> lanesReg |> healthRefresh

/-! What a reset or Keep does to each block (R145, R179, R203, R233, R265, R288, R321, R411, R436, R535, R578). -/

/-- Descriptors of a port end with 0x07 (R176, R179): the host's and those of its queue that p picks. -/
def descsEnd (p : Nat) (f : Desc → Bool) (b : Block) : Block :=
  b |> forEach (b.port p).d3 (fun d => descDone p true d 7) |> forEach ((b.port p).d4.filter f) (fun d => descDone p false d 7)
/-- A port: its link goes down, its buffers are emptied; descriptors end as f picks them. -/
def portStop (host : Bool) (f : Desc → Bool) (p : Nat) (b : Block) : Block :=
  b |> onlyIf host (descsEnd p f) |> portDown p 0 |> pauseOver p b.mono |> modPort p fun _ => {}
/-- PTP starts anew. -/
def ptpRestart (b : Block) : Block :=
  let on := match b.time.srcs[0].st with
    | .qualifying | .qualified => true
    | _ => false
  b |> onlyIf on (disqualify 0 0) |> modSrc 0 (fun _ => {})
    |> modTime fun t => { t with
        ptp := Vector.replicate 2 {}, tc := Vector.replicate 2 {}, ptpActive := 0, ptpIn := [], tcIn := [] }
/-- A silo: emptied, its markers and deferred drops cleared, its staged words gone. -/
def siloReset (q : Nat) (b : Block) : Block := b |> siloEmpty q |> modSilo q fun s => { s with stage := [] }
/-- The Gleaner: frames in progress are lost. -/
def gleanStop (b : Block) : Block :=
  { b with svIn := [] } |> modGlean fun g => { g with locq := [], cfgBit := [], rejAt := none, utcSkipAt := none, stby := none }
/-- The LPDDR5X's contents are lost: what its bytes hold then is undefined (R410, R411, R436). -/
def ddrLost (b : Block) : Block :=
  usedFree { b with ddr := writeBytes [] 0 ((Config.lostBytes b.freeCtr).take 0x400000000) }
/-- The engines' scratch is lost with their power (R503, R505). -/
def scratchLost (b : Block) : Block :=
  usedFree (modThr (fun h => { h with
    engs := h.engs.map fun e => { e with scratch := writeBytes [] 0x20000 ((Config.lostBytes b.freeCtr).take 0x60000) } }) b)
/-- The Granary's contents are lost: what its bytes hold then is undefined (R264, R265). -/
def granLost (b : Block) : Block :=
  usedFree { b with granMem := writeBytes [] 0 ((Config.lostBytes b.freeCtr).take granSize) }
/-- The Granary: open bales are abandoned without close or notice, the closed ones are left over. A warm reset returns
BR_LAYOUT_GEN to 0. -/
def granStop (warm : Bool) (b : Block) : Block :=
  b |> modGran (fun g => { rates := g.rates.map fun s =>
      { s with bales := [], next := 0, skips := [], gen := if warm then 0 else s.gen, layout := if warm then none else s.layout } })
    |> wbit (pg 0x19 0x074) 31 false
/-- A field channel with nothing but its settings. -/
def chanFresh (c : Nat) (b : Block) : Block := modChan c (fun _ => { ctl := b.r (pg 0x20 (0x100 + 4 * c)) }) b
/-- Pending swaps are cancelled (R301). -/
def swapsCancel (field sv : Bool) (b : Block) : Block :=
  b |> onlyIf field (fun b => b |> forEach b.chain.swaps (fun s => evr 0x411 s.set 0) |> modChain fun c => { c with swaps := [] })
    |> onlyIf sv (fun b => b |> forEach b.chain.rsSwaps (fun s => evr 0x411 (8 + s.set) 0) |> modChain fun c => { c with rsSwaps := [] })
/-- The chain and the estimator: F_trk 0, open windows lost, every channel disturbed. -/
def chainStop (b : Block) : Block :=
  b |> modChain (fun c => { chans := c.chans, swaps := c.swaps, rsSwaps := c.rsSwaps, rsFrom := c.rsFrom, gdLog := c.gdLog, tqLog := c.tqLog })
    |> forEach (List.range 16) chanFresh |> chainDisturbAll
/-- OPEN, SAT and REF_FAIL are cleared; the scan restarts. -/
def hkStop (b : Block) : Block :=
  { b with hk := { warm := b.hk.warm, hot := b.hk.hot, coolFrom := b.hk.coolFrom, forced := b.hk.forced } }
    |> healthCond 3 false |> healthCond 4 false |> healthCond 5 false
/-- The rotation stops; a rotation step's engine is back, untested. -/
def rotStop (fresh : Bool) (b : Block) : Block :=
  { b with bist := { b.bist with
      rot := none, rotPause := 0, rotNext := if fresh then 0 else b.bist.rot.elim b.bist.rotNext (·.engine),
      rotDone := if fresh then 0 else b.bist.rotDone } }
/-- The root, the DAK and the working keys are lost (Keep). -/
def keysLost (b : Block) : Block :=
  b |> modKeys (fun k => { k with
      rootOk := false, root := [], write := none, deferred := false, chal := none, verifying := none, signing := [],
      slots := k.slots.map fun e => (e.1, { e.2 with st := 0, key := [] }) })
/-- A settings commit in progress is abandoned: its slot's commit record is never written. -/
def commitDrop (b : Block) : Block :=
  b |> modSet (fun s => { s with writing := none, deferred := false }) |> wf setSts 31 30 0
/-- The data path stops, at a warm reset or at the entry to Keep. -/
def dataStop (keep : Bool) (b : Block) : Block :=
  b |> pairStop (!keep) |> updStop |> endSession (if keep then 4 else 3)
    |> forEach [0, 1, 2, 3] (portStop (!keep) (·.checked)) |> modPrp (fun s => if keep then { s with table := [] } else {})
    |> forEach (List.range 64) siloReset |> gleanStop |> granStop (!keep)
    |> onlyIf keep granLost |> onlyIf keep scratchLost
    |> onlyIf (!keep) (swapsCancel true true) |> chainStop |> hkStop
    |> oscReset |> islReset false |> almReset |> govReset |> capAbandon |> thrReset (!keep) |> rotStop (!keep)
    |> ptpRestart |> onlyIf keep keysLost |> commitDrop
    |> fun b => { b with balls := { b.balls with spt := 0 } }
/-- The data path runs again: after a start and on return from Keep. -/
def dataStart (b : Block) : Block :=
  b |> ratesResume |> modeRestart |> chainDisturbAll |> loadPrograms |> thrStart |> trendEpoch |> pairStart |> capStart |> almPins

/-! Operating states (R503–R506). -/

/-- The state changes (R519, R520). -/
def setState (st : PowerSt) (b : Block) : Block := { b with dev := { b.dev with st := st, prev := b.dev.st } }
/-- Record 0x002. -/
def stateRecord (old new : PowerSt) (cause : Nat) : Block → Block := evr 0x002 (old.code * 16 + new.code) cause
/-- Run to Idle: open bales close ABORTED; outputs stand at 0 and the alarm balls at INACT (R504). -/
def enterIdle (cause : Nat) (b : Block) : Block :=
  b |> granAbortAll |> setState .idle |> stateRecord .run .idle cause
    |> modGov (fun g => { g with wait := [] })
    |> forEach (List.range 16) (fun c b => b |> modCo c (fun s => { s with u := 0, us := [], sent := 0 }) |> wn (pg 0x2B (0x080 + 4 * c)) 0)
    |> (fun b => { b with balls := { b.balls with spt := 0 } }) |> almPins
/-- Idle to Run. -/
def enterRun (cause : Nat) (b : Block) : Block :=
  b |> setState .run |> stateRecord .idle .run cause |> ratesResume |> modeRestart |> almPins
/-- Run or Idle to Keep (R505). -/
def enterKeep (cause : Nat) (b : Block) : Block :=
  let old := b.dev.st
  let c := b |> dataStop true |> setState .keep |> stateRecord old .keep cause
  { c with dev := { c.dev with keepFrom := old, blocks := [] } } |> almPins |> capPins
/-- What a probation that Keep or a reset ended leaves is handed back, with the settings of before (R601). -/
def handBackDue (b : Block) : Block := startBack b
/-- A Keep that the die temperature forced is over: a part that is still hot is forced anew at the next scan (R104). -/
def thermalEnd (b : Block) : Block := { b with hk := { b.hk with forced := false, hot := false } }
/-- Keep to the state it was entered from: the data path restarts (R505). -/
def leaveKeep (cause : Nat) (b : Block) : Block :=
  let dst := b.dev.keepFrom
  let c := b |> handBackDue |> setState dst |> stateRecord .keep dst cause
  { c with dev := { c.dev with pufDue := true, link := c.dev.link || !c.balls.perstN } } |> thermalEnd |> jrnEpoch |> dataStart
/-- A state request (R505): during a start it waits for its end. -/
def stateReq (dst : PowerSt) (cause : Nat) (b : Block) : Block :=
  match b.dev.st, dst with
  | .starting, _ => { b with dev := { b.dev with waiting := some (dst, cause) } }
  | .run, .idle => enterIdle cause b
  | .idle, .run => enterRun cause b
  | .run, .keep => enterKeep cause b
  | .idle, .keep => enterKeep cause b
  | .keep, .run => leaveKeep cause b
  | .keep, .idle => leaveKeep cause b
  | _, _ => err 0x00 0x26 b
/-- Record 0x002's cause of an agent. -/
def causeOf (ag : Agent) : Nat := if ag == .host then 0 else 1
/-- A write of STATE_REQ: the guard, then the request. -/
def stateReqBy (ag : Agent) (guard : Half) (dst : PowerSt) : Block → Block :=
  cmdGate ag 0x00 0x084 fun b => if guard != 0x5354 then err 0x00 0x25 b else stateReq dst (causeOf ag) b
/-- R505. -/
def execStateReqRun (ag : Agent) (guard : Half) (s : State) : Out := s.run (stateReqBy ag guard .run)
/-- R504. -/
def execStateReqIdle (ag : Agent) (guard : Half) (s : State) : Out := s.run (stateReqBy ag guard .idle)
/-- R505. -/
def execStateReqKeep (ag : Agent) (guard : Half) (s : State) : Out := s.run (stateReqBy ag guard .keep)

/-! Link resets (R75, R507). -/

/-- The HOST function and the PCIe side at a link reset, alone or within a higher one. -/
def linkCore (b : Block) : Block :=
  { b with msixMask := BitVec.allOnes 64, msixPend := 0, wdogRuns := false, dev := { b.dev with link := true } }
    |> modAgent .host (fun g => { agentReset [.l] g with evrCur := 0 }) |> modAgent .side (agentReset [.l])
/-- A link reset. Of the block resets it absorbs that of HOST, the one block it resets (R508, R75; DEDUCED 219). -/
def linkDownReset (b : Block) : Block :=
  b |> endSession 3
    |> modKeys (fun k => { k with signing := k.signing.filter (!·.1) })
    |> forEach [0, 1, 2, 3] (fun p b => match (b.port p).d3.head? with
      | some d => descDone p true d 7 b
      | none => b)
    |> updLinkReset |> regsReset [.l] (fun _ => true) |> (fun b => { b with dev := { b.dev with blocks := b.dev.blocks.filter (· != 0x80) } })
    |> linkCore
/-- R75: absorbed while a higher reset is held, and ignored in Keep (R73); the ball's level is seen all the same. -/
def execLinkReset (src : LinkSrc) (s : State) : Out :=
  s.run fun b =>
    let c := if src = .perstLow then { b with balls := { b.balls with perstN := false } } else b
    if !c.aon || c.dev.st == .keep then c
    else if c.dev.warm || c.dev.link then { c with dev := { c.dev with link := c.dev.link || src = .perstLow } }
    else linkDownReset c
/-- R507: PCIE_PERST_N is high, or the time of a hot or function-level reset has passed. -/
def execLinkResetEnd (s : State) : Out :=
  s.run fun b => { b with balls := { b.balls with perstN := true }, dev := { b.dev with link := false } }

/-! Cold resets (R74, R77, R507). -/

/-- A glitch filter: shorter than 100 ns never acts, from the limit on it acts, between them it may or may not (R74). -/
def pulseActs (limNs ns : Nat) (b : Block) : Bool × Block :=
  if ns < 100 then (false, b) else if limNs ≤ ns then (true, b) else (Config.freeBool b.freeCtr, usedFree b)
/-- What outlasts a cold reset or the loss of power: MRAM, the tamper record, levels of balls, repairs, a supply that is
low. The operating counters and the journal head stand as of the last completed flush (R100; DESIGN CHOICE 189). -/
def coldCore (b : Block) : Block :=
  let gone := fun p => b.bist.map.any fun e => e.kind = 2 && e.unit = p
  let g := fun (a : AgentSt) => ({ popped := a.popped, compl := a.compl } : AgentSt)
  let k := b.keys
  { regs := b.regs.filter fun e => ofClass [.hold] e.1
    host := g b.host
    side := g b.side
    dev := { strapBalls := b.dev.strapBalls, testEn := b.dev.testEn, link := !b.balls.perstN }
    settings := { b.settings with writing := none, deferred := false }
    supply := { low := b.supply.low }
    balls := { b.balls with alm := 0, trigOut := false, ppsOut := false, spt := 0, inact := false }
    time := { ticks := b.time.ticks, xo := b.time.xo }
    evr := { next := b.evr.next, head := b.evr.head, full := b.evr.full, opSec := b.evr.flushed.1, pcyc := b.evr.flushed.2,
             flushed := b.evr.flushed, aonMs := b.evr.aonMs, secDone := b.evr.secDone, occ := b.evr.occ }
    mram := b.mram
    bist := b.bist.atStart
    keys := { enrol := k.enrol, helper := k.helper, anchor := k.anchor, latched := k.latched, class2 := k.class2, cause := k.cause,
              erasePend := k.erasePend, tampAt := k.tampAt, tampCount := k.tampCount, live := k.live, reEnrolled := k.reEnrolled,
              slots := k.slots.map fun e => (e.1, { copies := e.2.copies, commit := e.2.commit }) }
    glean := { head := b.glean.flushed, flushed := b.glean.flushed, epoch := b.glean.epoch }
    thr := { engs := Vector.ofFn fun (p : Fin 26) => { retired := gone p.val, popped := (b.eng p.val).popped, scratch := (b.eng p.val).scratch } }
    upd := { b.upd with fill := 0 }
    out := b.out
    freeCtr := b.freeCtr } |> granLost |> ddrLost
/-- A cold reset starts (R507, R508): the recorder's queue is lost (R553), every block stops, the rest is as made. -/
def coldStart (cause : Nat) (b : Block) : Block :=
  let c := { b with evr := { b.evr with queue := [], occ := [] } }
  let c := if b.dev.st == .off || b.dev.cold then c else c |> pairStop false |> updStop |> endSession 3
  let d := coldCore c
  { d with dev := { d.dev with cause := cause } }
/-- R74, R97. -/
def execColdReset (src : ColdSrc) (s : State) : Out :=
  s.run fun b => match src with
  | .powerOn => coldStart 1 b
  | .supervisor => if b.dev.st == .off then b else coldStart 2 b
  | .porN ns =>
    if b.dev.st == .off then b else
    let (acts, c) := pulseActs 10000 ns b
    if acts then coldStart 1 c else c
/-- Pages that VAA holds in block reset (R97). -/
def vaaBlocks (b : Block) : List Nat := if b.heldBy [3] then [0x20, 0x21] else []
/-- R77, R78, R97, R518: a supply of the always-on domain that is still low holds the reset. Straps and TEST_EN are sampled; with TEST_EN high the part does not leave cold reset. With RST_N low
the start goes on up to the warm reset that RST_N holds (R74). -/
def execColdResetEnd (rstN : Bool) (up : BitVec 5) (s : State) : Out :=
  s.run fun b =>
    let b := onlyIf b.dev.cold (suppliesUp up) b
    if !b.dev.cold || b.dev.testEn || b.dev.st == .off || b.heldBy [0, 1] then b else
    let n := b.evr.pcyc + b01 (b.dev.cause = 1)
    let c := { b with
      dev := { b.dev with
        cold := false, warm := !rstN || b.heldBy [2, 4], step := .puf, bootFrom := b.evr.aonMs, st := .starting, prev := .run,
        link := !b.balls.perstN, blocks := vaaBlocks b }
      evr := { b.evr with pcyc := n, flushed := (b.evr.flushed.1, n) }
      keys := { b.keys with armedFrom := some b.mono } }
    c |> wn (pg 0x00 0x050) b.dev.strapBalls.toNat |> wn (pg 0x00 0x08C) b.dev.cause |> statusRegs
/-- R80. -/
def execStrapChange (levels : BitVec 4) (s : State) : Out :=
  s.run fun b =>
    let latched := b.f (pg 0x00 0x050) 3 0
    let c := { b with dev := { b.dev with strapBalls := levels } }
    onlyIf (b.aon && b.dev.strapBalls.toNat = latched && levels.toNat != latched) (evr 0x007 latched levels.toNat) c
/-- R505: the supplies are removed. -/
def execPowerRemoved (s : State) : Out :=
  s.run fun b =>
    let c := coldCore { b with evr := { b.evr with queue := [], occ := [] } }
    scratchLost { c with dev := { c.dev with st := .off, cold := false } }

/-! Warm and watchdog resets (R74, R507–R510). -/

/-- A warm reset starts: absorbed by a cold one; a second one extends the first. -/
def warmStart (cause : Nat) (b : Block) : Block :=
  if b.dev.st == .off || b.dev.cold then b
  else if b.dev.warm then { b with dev := { b.dev with cause := cause } }
  else
    let dst := match b.dev.st with
      | .keep => b.dev.keepFrom
      | .starting => b.dev.target
      | st => st
    let keep := b.dev.st == .keep
    let c := b |> onlyIf (!keep) (dataStop false) |> onlyIf keep (fun b => b |> swapsCancel true true |> thermalEnd)
      |> modTime (fun t => { t with syncErr := false }) |> regsReset [.w, .l, .b] (fun _ => true) |> linkCore
    let d := if b.dev.st == .starting then c else setState .starting c
    { d with
      dev := { d.dev with
        warm := true, target := dst, cause := cause, blocks := [], link := !b.balls.perstN, pufDue := d.dev.pufDue || b.dev.st == .keep,
        step := if b.dev.st == .starting then b.dev.step else .launch }
      bist := { d.bist with seq := 0, ueTotal := 0, hsTotal := 0, mramCorr := 0 }
      mode := { d.mode with shown := d.t (pg 0x00 0x040) 0 }
      upd := { d.upd with fill := 0, result := 0 }
      host := agentWarm d.host
      side := agentWarm d.side } |> statusRegs |> engRefresh |> almPins |> capPins
/-- R74: RST_N. -/
def execWarmReset (lowNs : Nat) (s : State) : Out :=
  s.run fun b =>
    if b.dev.st == .off then b else
    let (acts, c) := pulseActs 1000 lowNs b
    if acts then warmStart 3 c else c
/-- R509, R97: RST_N is high, VIO and VDD_CORE hold no reset, and 20 µs have passed: the data path restarts from the journal's new epoch on. -/
def execWarmResetEnd (rstN : Bool) (up : BitVec 5) (s : State) : Out :=
  s.run fun b =>
    let b := onlyIf b.dev.warm (suppliesUp up) b
    if !b.dev.warm || !rstN || b.heldBy [2, 4] then b else
    let c := { b with dev := { b.dev with warm := false, blocks := vaaBlocks b } } |> wn (pg 0x00 0x08C) b.dev.cause
    if b.dev.step = .launch then handBackDue c else c
/-- R507: a request of the host, or of the side-band at DEV. -/
def rstReq (ag : Agent) (guard : Half) (b : Block) : Block :=
  if guard != 0x5752 then err 0x00 0x25 b else warmStart (if ag == .host then 5 else 4) b
/-- R507. -/
def execRstReqWarm (ag : Agent) (guard : Half) (s : State) : Out := s.run (cmdGate ag 0x00 0x088 (rstReq ag guard))
/-- Two watchdog resets came within 600 s before this one: of grid time, or of always-on time while VALID is 0 (R510). -/
def wdogThird (b : Block) : Bool :=
  match b.dev.wdogAt[1]? with
  | none => false
  | some (g, m) => match g with
    | some t => if b.time.valid then decide (b.now ≤ t + 600 * gtSec) else decide (b.mono ≤ m + 600 * gtSec)
    | none => decide (b.mono ≤ m + 600 * gtSec)
/-- R507, R510. -/
def execWatchdogExpire (s : State) : Out :=
  s.run fun b =>
    if !b.aon then b else
    let c := b |> evr 0x006 (b.n (pg 0x00 0x094)) 0 |> cnt32 (pg 0x00 0x094)
    let at_ := ((if b.time.valid then some b.now else none), b.mono)
    let third := wdogThird b
    let d := warmStart 7 { c with dev := { c.dev with wdogAt := (at_ :: c.dev.wdogAt).take 2 } }
    { d with dev := { d.dev with wdogIdle := d.dev.wdogIdle || third } }

/-! The start sequence (R518). -/

/-- R556: the root is regenerated; an erasure that was cut short resumes first (R575). -/
def execPufRegenerate (reads : List PufRead) (bad : BitVec 256) (s : State) : Out :=
  s.run fun b =>
    let start := b.dev.step = .puf && b.aon
    if !start && !(b.dev.pufDue && b.up) then b else
    let c := if b.keys.erasePend then modKeys (fun k => { k with erasePend := false, helper := [false, false], slots := [] }) b else b
    let d := regenerate reads bad c
    { d with dev := { d.dev with step := if start then .image else d.dev.step, pufDue := false } }
/-- R586: a part without an image that verifies does not leave the start. -/
def execImageVerify (badA badB : Bool) (s : State) : Out :=
  s.run fun b =>
    if b.dev.step != .image || !b.aon then b else
    let (ok, c) := imageStart (BitVec.ofNat 2 (b01 badA + 2 * b01 badB)) b
    { c with dev := { c.dev with step := if ok then .settings else .dead } }
/-- The sample-pulse generator's settings as restored (R145). -/
def spgStart (b : Block) : Block :=
  modTime (fun t => { t with
    spgRun := b.t (pg 0x02 0x0E4) 0, spgSrc := b.t (pg 0x02 0x0E4) 1, spgPend := none,
    spgDelay := #v[b.f (pg 0x02 0x0E8) 8 0, b.f (pg 0x02 0x0E8) 24 16, b.f (pg 0x02 0x0EC) 8 0, b.f (pg 0x02 0x0EC) 24 16] }) b
/-- R514: the settings are restored; silos, rates and balls follow them, and the first PMBus command may go out (R89). -/
def execSettingsRestore (bad : BitVec 2) (vout : PmbusReply) (s : State) : Out :=
  s.run fun b =>
    if b.dev.step != .settings || !b.aon then b else
    let ok := (restorePick b bad).isSome
    let c := b |> settingsRestore bad |> spgStart |> silosStart |> granRestore |> forEach (List.range 16) chanFresh |> almReset
    -- the first PMBus command may go out now (R89)
    let c := avsStart vout c
    { c with
      dev := { c.dev with step := .launch, slotOk := ok, target := if ok && c.t (pg 0x00 0x110) 0 then .run else .idle }
      mode := { govern := c.t (pg 0x00 0x040) 0, base := c.t (pg 0x00 0x040) 0, shown := c.t (pg 0x00 0x040) 0 }
      balls := { c.balls with inact := true } } |> almPins |> capPins
/-- R518: the LPDDR5X is trained, programs are loaded, the part enters its state. The start does not complete while XO_IN,
SDS_REFCLK or SDS_RCAL is missing (R84). It opens the journal's new epoch (R228). A request that came during the start acts now (R505). -/
def execStartComplete (trained serdes : Bool) (s : State) : Out :=
  s.run fun b =>
    let d := b.dev
    if d.step != .launch || d.cold || d.warm || d.st == .off || !trained || !serdes || !b.time.xo then b else
    let cold := d.cause ≤ 2
    let dst := if d.wdogIdle then .idle else d.target
    let c := b |> wf (pg 0x74 0x040) 1 0 3 |> jrnEpoch |> setState dst |> dataStart |> onlyIf cold updResume
      |> onlyIf cold (wn (pg 0x00 0x098) (b.evr.aonMs - d.bootFrom))
    let c := c |> evr 0x001 d.cause (c.n (pg 0x00 0x098))
      |> onlyIf (cold && !d.slotOk) (stateRecord .starting .idle 3)
      |> onlyIf (d.wdogIdle && d.target != .idle) (stateRecord d.target .idle 4)
    let e := { c with dev := { c.dev with step := .done, wdogIdle := false, waiting := none } }
    match d.waiting with
    | some (dst, cause) => stateReq dst cause e
    | none => e

/-! Block resets (R507). -/

/-- What a page's chapter states of its block reset. -/
def blockResetOf (p : Nat) (b : Block) : Block :=
  if 0x04 ≤ p && p ≤ 0x07 then portStop true (fun _ => true) (p - 4) b
  else if 0x10 ≤ p && p ≤ 0x13 then forEach (List.range 16) (fun i => siloReset ((p - 0x10) * 16 + i)) b
  else if 0x40 ≤ p && p ≤ 0x59 then engBlockReset (p - 0x40) b
  else match p with
  | 0x02 =>
    let was := b.time.selected != 0
    b |> modTime (fun t => { t with
        srcs := Vector.replicate 3 {}, selected := 0, locked := false, stepWait := none, slewEnd := none, slewOfs := 0,
        ptp := Vector.replicate 2 {}, tc := Vector.replicate 2 {}, ptpActive := 0, ptpIn := [], tcIn := [], ppsEdge := none })
      |> onlyIf was (evr 0x100 0 0) |> onlyIf (b.time.valid && was) enterHoldover
  | 0x08 => modPrp (fun s => { s with table := [], txSeq := 0 }) b
  | 0x09 => plinkBlockReset b
  | 0x19 => b |> granAbortAll |> modGran (fun g => { g with
      rates := g.rates.map fun s => { s with bales := [], next := 0, skips := [] }, replay := none, auto := [] })
      |> wbit (pg 0x19 0x074) 31 false
  | 0x20 => b |> forEach (List.range 16) chanFresh |> disturbField |> modChain fun c => { c with conv := none }
  | 0x21 =>
    { b with hk := { b.hk with at_ := none } } |> forEach (List.range 24) fun c => wbit (pg 0x21 (0x200 + 4 * c)) 31 false
  | 0x22 => b |> swapsCancel true false |> disturbField
  | 0x23 => b |> swapsCancel false true |> forEach (svOn b) disturbSv
  | 0x24 => modChain (fun c => { c with est := [] }) b
  | 0x28 => oscBlockReset b
  | 0x29 => islReset true b
  | 0x2A => almBlockReset b
  | 0x2B => { govReset b with balls := { b.balls with spt := 0 } }
  | 0x30 => capBlockReset b
  | 0x38 => thrBlockReset b
  | 0x60 => pairBlockReset b
  | 0x64 =>
    { b with evr := { b.evr with tokens := [], globalUsed := 0 } }
      |> modAgent .host (fun g => { g with evrCur := 0 }) |> modAgent .side fun g => { g with evrCur := 0 }
  | 0x68 =>
    b |> endSession 3 |> modKeys (fun k => { k with write := none, deferred := false, signing := [], verifying := none })
  | 0x6C => updBlockReset b
  | 0x70 => rotAbandon b
  | _ => b
/-- A block reset starts: absorbed by a higher one; class B fields return to their reset values. -/
def blockReset (p : Nat) (b : Block) : Block :=
  if !b.up && !(b.dev.st == .keep && keepPages.contains p) then b
  else if b.inReset p || (p = 0x80 && b.dev.link) then b
  else
    let c := b |> blockResetOf p |> regsReset [.b] (· = p) |> modAgent .host (fun g => { g with
        shadow := g.shadow.filter fun e => !(ofClass [.b] e.1 && e.1 / 0x1000 = p) })
      |> modAgent .side (fun g => { g with shadow := g.shadow.filter fun e => !(ofClass [.b] e.1 && e.1 / 0x1000 = p) })
    { c with dev := { c.dev with blocks := p :: c.dev.blocks } } |> almPins |> capPins
/-- R507: a write of PG_CTL.BRST, or the VAA supervisor for ACQ and HKADC. -/
def execBlockReset (src : BlockResetSrc) (s : State) : Out :=
  s.run fun b => match src with
  | .vaa => b |> blockReset 0x20 |> blockReset 0x21
  | .brst ag page =>
    let p := page.toNat
    if !b.agentUp ag || !b.powered p || !allPages.contains p then b
    else if ag == .side && !sbwAllows p 0x008 then err p 0x02 b
    else blockReset p b
/-- R507, R97: the block resumes, unless VAA still holds it. -/
def execBlockResetEnd (page : BitVec 8) (up : BitVec 5) (s : State) : Out :=
  s.run fun b =>
    let p := page.toNat
    let b := onlyIf (b.inReset p) (suppliesUp up) b
    if !b.inReset p || (vaaBlocks b).contains p then b else
    let c := { b with dev := { b.dev with blocks := b.dev.blocks.filter (· != p) } }
    match p with
    | 0x19 => ratesResume c
    | 0x20 => c |> disturbField
    | 0x24 => c
    | 0x2A => almBlockStart c
    | 0x30 => capStart c
    | _ => c

/-! Supplies at their reset levels (R97, R100). -/

/-- A supply at its reset level: record 0x012 is committed before the matching reset where the entry flush has completed
(R100); the supply holds that reset from now on (R97). -/
def supplyReset (i : Fin 5) (mv : Nat) (b : Block) : Block :=
  if b.dev.st == .off || resetLevel i ≤ mv then b else
  let b := modSup (fun s => { s with low := if s.low.contains i then s.low else s.low ++ [i] }) b
  if !b.aon then b else
  let c := onlyIf (b.supply.flushed && b.evr.ready) (decide1 ⟨0x012, w32 i.val, 0⟩) b
  if i = 0 || i = 1 then coldStart 2 c
  else if i = 3 then c |> blockReset 0x20 |> blockReset 0x21
  else warmStart 6 c
/-- R100. -/
def execSupplyResetLevel (supply : Fin 5) (mv : Nat) (s : State) : Out := s.run (supplyReset supply mv)

/-! Settings commits (R512, R513). -/

/-- R512: a write of SET_CMD with COMMIT. -/
def execSettingsCommit (ag : Agent) (guard : Half) (s : State) : Out :=
  s.run (cmdGate ag 0x00 0x100 (setCmd (w32 (guard.toNat * 2 ^ 16 + 1))))
/-- R512: the image is written and its commit record follows; in brace the write under way completes and the record waits (R98). -/
def execSettingsCommitDone (s : State) : Out := s.run fun b => if b.aon then imageDone b else b

/-! The host watchdog and the PCIe link (R63). -/

/-- R63. -/
def execHostWdogKick (_v : Word) (s : State) : Out :=
  s.run (cmdGate .host 0x80 0x04C fun b => { b with wdogKickAt := b.mono, wdogRuns := true })
/-- R63: HOST_WDOG_PERIOD has passed without a kick. -/
def execHostWdogExpire (s : State) : Out :=
  s.run fun b =>
    let per := b.n (pg 0x80 0x048)
    if b.wdogRuns && per != 0 && b.wdogKickAt + gtMs per ≤ b.mono then sbAlert 1 { b with wdogRuns := false } else b
/-- R63: more than 10 ms outside L0 and ASPM L1. -/
def execPcieLinkSilent (s : State) : Out := s.run fun b => if b.aon then sbAlert 1 b else b

/-! Rotation (R526–R528). -/

/-- Engines that the rotation can test: in service themselves. -/
def rotPick (b : Block) : Option Nat :=
  ((List.range 24).map fun i => (b.bist.rotNext + i) % 24).find? fun e => !(b.eng e).gone
/-- A degraded engine under a spare that covers it, the other spare being free: it is tested in its turn (R526). -/
def rotDegraded (b : Block) : Option (Nat × Nat) :=
  ((List.range 24).filterMap fun e =>
    if (b.eng e).degraded && !(b.eng e).retired && !(b.eng e).out then
      ([24, 25].find? fun p => (b.eng p).covers == some e && b.spareFree (49 - p)).map fun p => (e, p)
    else none).head?
/-- R526: a step starts: both spares free, or one of them covering the degraded engine that is tested. -/
def rotStart (b : Block) : Block :=
  if !b.up || b.inReset 0x70 || !b.t (pg 0x70 0x04C) 31 || b.bist.rot.isSome || b.mono < b.bist.rotPause then b else
  let go := fun (r : RotStep) => { b with bist := { b.bist with rot := some r } } |> engRefresh
  match rotDegraded b with
  | some (e, p) => go ⟨e, p, true⟩
  | none =>
    if b.spareFree 24 && b.spareFree 25 then
      match rotPick b with
      | some e => go ⟨e, 24, false⟩
      | none => b
    else b
/-- R526. -/
def execRotationStepStart (s : State) : Out := s.run rotStart
/-- R527: the test ends once the engine's item is at DONE. -/
def testDone (fail : Option (Fin 3)) (b : Block) : Block :=
  match b.bist.rot with
  | none => b
  | some r =>
    if (b.eng r.engine).run.isSome then b else
    let last := r.engine = 23 && !r.degraded
    let c := { b with bist := { b.bist with
        rot := none, rotNext := (r.engine + 1) % 24, rotPause := b.mono + b.f (pg 0x70 0x04C) 7 0 * gtSec } } |> cnt (bistCnt 3)
    let c := match fail with
      | some k =>
        c |> modEng r.engine (fun s => { s with retired := true }) |> modEng r.spare (fun s => { s with covers := some r.engine })
          |> rmapAdd 2 3 r.engine 0 0 |> evr 0xB03 r.engine (k.val + 1) |> irq 0x70 1
      | none =>
        if r.degraded then c |> modEng r.engine (fun s => { s with degraded := false, slow := 0 }) |> returned r.engine else c
    let c := if last then
        { c with bist := { c.bist with rotDone := c.bist.rotDone + 1 } } |> fun c => evr 0xB04 c.bist.rotDone 0 c
      else c
    engRefresh c
/-- R527. -/
def execEngineTestDone (fail : Option (Fin 3)) (s : State) : Out := s.run fun b => if b.up then testDone fail b else b
/-- A write of BIST_REQ (R536, R537). -/
def bistReq (v : Word) (b : Block) : Block :=
  let e := fld v 4 0
  if fld v 31 16 != 0x4254 then err 0x70 0x20 b
  else if !bitAt v 8 then b
  else if 24 ≤ e || (b.eng e).gone || !b.spareFree 24 || !b.spareFree 25 then err 0x70 0x21 b
  else { b with bist := { b.bist with rotNext := e } }
/-- R536. -/
def execBistReqTest (ag : Agent) (v : Word) (s : State) : Out := s.run (cmdGate ag 0x70 0x100 (bistReq (putBit v 8 true)))

/-! Handshake watchdogs (R529). -/

/-- The unit code of a page whose block is built of lanes (R530). -/
def laneUnit (p : Nat) : Option (Fin 4) := match p with
  | 0x18 => some 0
  | 0x24 => some 1
  | 0x28 => some 2
  | 0x29 => some 3
  | _ => none
/-- A trip: in an engine a hardware fault of its item, elsewhere a block reset; a second one of the stage within 60 s
retires its lane, or sets the fault cause. -/
def handshakeTrip (p stage : Nat) (lane : Option (Fin 4)) (b : Block) : Block :=
  let again := b.bist.trips.any fun e => e.1 = p && e.2.1 = stage && b.mono < e.2.2 + 60 * gtSec
  let c := b |> cnt (bistCnt 5) |> setFault p |> evr 0xB06 p stage |> healthHs
  let c := { c with bist := { c.bist with
    trips := (p, stage, b.mono) :: c.bist.trips.filter fun e => b.mono < e.2.2 + 60 * gtSec } }
  if 0x40 ≤ p && p ≤ 0x59 then engFault (if p < 0x58 then (b.serves (p - 0x40)).getD (p - 0x40) else p - 0x40) 0x82 c
  else
    let c := onlyIf again (match laneUnit p, lane with
      | some u, some l => retireLane u l 4
      | _, _ => healthCond 17 true) c
    onlyIf (c.t (pg 0x70 0x05C) 16) (blockReset p) c
/-- R529. -/
def execHandshakeTimeout (page : BitVec 8) (stage : Nat) (lane : Option (Fin 4)) (s : State) : Out :=
  s.run fun b => if b.up && allPages.contains page.toNat then handshakeTrip page.toNat stage lane b else b

/-! The health report (R533, R534). -/

/-- The words of a byte list. -/
def reportWords (l : List Byte) : List Word := (List.range 32).map fun i => w32 (leAt l (4 * i) 4)
/-- R534: at each whole second of grid time, or of always-on time while VALID is 0. -/
def healthReport (b : Block) : Block :=
  if !b.up || reportSecond b = b.bist.reportAt then b else
  let l := reportBytes b
  let c := { b with bist := { b.bist with
    reportAt := reportSecond b, seq := (b.bist.seq + 1) % 256, ceSec := 0, ddrCeSec := 0 } }
  c |> siloPut 62 l |> wrWords (pg 0x70 0x180) (reportWords l) |> wf (pg 0x70 0x040) 7 0 b.bist.seq |> irq 0x70 0
    |> onlyIf (b.member && b.pair.formed) (plSend (.health l))
/-- R534. -/
def execHealthReport (s : State) : Out := s.run healthReport

/-! Attestation (R570, R571). -/

/-- The 56 bytes of a part of the running image. -/
def partBytesOf (e : Nat × ImgPart) : List Byte :=
  [BitVec.ofNat 8 e.1, 0, 0, 0] ++ leBytes 4 e.2.version ++ padTo 48 e.2.sha
/-- Bytes 0–631 of a statement (R571). -/
def statementBody (ag : Agent) (nonce : List Byte) (b : Block) : List Byte :=
  let parts := b.image.parts.take 8
  let flags := b01 b.keys.reEnrolled * 8 + b01 b.keys.session.isSome * 4 + b01 (b.upd.phase = 7) * 2 + b01 (b.upd.slots[1].st = 4)
  padTo 632 (leBytes 4 0x47415431 ++ [1, BitVec.ofNat 8 parts.length] ++ leBytes 2 flags ++ leBytes 8 Config.deviceId.toNat
    ++ nonce ++ fullForm b.now ++ leBytes 5 (b.evr.opSec % 2 ^ 40) ++ [BitVec.ofNat 8 b.tq, 0, 0]
    ++ leBytes 4 b.evr.pcyc ++ leBytes 4 b.slot.gen ++ leBytes 4 (liveReg ag b (pg 0x7C 0x04C)).toNat ++ zeros 4
    ++ Config.sha384 (settingsImage b.slot) ++ Config.sha384 (Config.fuseMap ++ repairCopy b.bist)
    ++ parts.flatMap partBytesOf)
/-- The statement at the front is signed by the DAK. -/
def attReady (b : Block) : Block :=
  match b.keys.signing with
  | [] => b
  | (host, nonce) :: rest =>
    let ag : Agent := if host then .host else .side
    let body := statementBody ag nonce b
    let st := body ++ Config.ecdsaSign (b.keys.slot 0).key (Config.sha384 body)
    b |> modKeys (fun k => { k with signing := rest }) |> cnt (keyCnt 2)
      |> modAgent ag (fun g => { g with attStmt := st, attSts := w32 (2 ^ 30 + (g.attSts.toNat / 2 ^ 8 + 1) % 2 ^ 8 * 2 ^ 8) }) |> irq 0x68 1
/-- R570. -/
def execAttStatementReady (s : State) : Out := s.run fun b => if b.up && !b.inReset 0x68 then attReady b else b

end Sys2Proof.Machine
end

