-- ==== Sys2Proof/Machine/Hk.lean ====
section
/-! DEFINITION. The housekeeping converter: scans, limits, references, die temperature (R104, R281–R286). -/

namespace Sys2Proof.Machine
open Sys2Proof

/-- Channels that are always scanned (R281). -/
def hkAlways : Nat := 0x00FF6003
/-- Whether a channel is scanned: always, or by HK_EN; in Keep the sensors only (R286). -/
def hkOn (b : Block) (c : Nat) : Bool :=
  if b.dev.st == .keep then decide (16 ≤ c) else hkAlways.testBit c || b.t (pg 0x21 0x044) c
/-- Channels of a scan, ascending. -/
def hkChans (b : Block) : List Nat := those 24 (hkOn b)
/-- Samples of a conversion, as HK_CH_CTL says (R282). -/
def hkN (b : Block) (c : Nat) : Nat := 2 ^ min 8 (b.f (pg 0x21 (0x100 + 4 * c)) 3 0)
/-- Microseconds a scan of the channels takes, given a mask of enables and each channel's AVG (R282). -/
def hkTime (mask : Nat) (avg : Nat → Nat) : Nat :=
  sumN ((those 24 fun c => mask.testBit c || hkAlways.testBit c).map fun c => 3 + 2 ^ avg c)
/-- Always-on milliseconds between scans (R282, R286). -/
def hkPeriod (b : Block) : Nat := if b.dev.st == .keep then 100 else max 1 (b.f (pg 0x21 0x040) 9 0)
/-- Whether a multiple of the period has passed since the latest scan. -/
def hkDue (b : Block) : Bool :=
  let k := b.mono / gtMs (hkPeriod b)
  b.aon && !b.dev.warm && (match b.hk.at_ with
    | some a => decide (gtMs a < k * gtMs (hkPeriod b))
    | none => true)
/-- Limits of a channel, in 12-bit codes where it has HK_LIM, or the request ± 2 % on channels 2 and 15, judged exactly:
true where the mean is outside (R283). -/
def hkOutside (b : Block) (c mean : Nat) : Bool :=
  if c = 2 || c = 15 then
    let v := mean * 1250 * 100
    let r := b.supply.reqMv * 4096
    decide (v < r * 98) || decide (r * 102 < v)
  else
    let l := b.r (pg 0x21 (0x180 + 4 * c))
    decide (mean < fld l 11 0) || decide (fld l 27 16 < mean)
/-- One conversion: the result, and the limit check where it stands (R282, R283). -/
def hkConvert (c sum : Nat) (b : Block) : Block :=
  let res := pg 0x21 (0x200 + 4 * c)
  let mean := sum / hkN b c
  let was := b.t res 30
  let out := if 16 ≤ c || b.hk.hkFail then was else hkOutside b c mean
  b |> wn res (2 ^ 31 + b01 out * 2 ^ 30 + sum / 2 ^ min 8 (b.f (pg 0x21 (0x100 + 4 * c)) 11 8) % 2 ^ 20)
    |> onlyIf (out != was) (fun b => b |> wbit (pg 0x21 0x050) c out |> evr (if out then 0x408 else 0x409) c mean |> irq 0x21 1)

/-- e_r and e_b of a scan, over common denominators: (numerator, denominator) pairs (R284). -/
def hkErr (sum n : Nat) (bandgap : Bool) : Int × Int :=
  if bandgap then ((sum : Int) * 25 - n * 49152, n * 49152) else ((sum : Int) * 3 - n * 8192, n * 8192)
/-- The larger in magnitude of two errors. -/
def errMax (x y : Int × Int) : Int × Int := if x.1.natAbs * y.2.natAbs < y.1.natAbs * x.2.natAbs then y else x
/-- |e| ≤ tol ppm, exactly. -/
def errIn (tol : Nat) (e : Int × Int) : Bool := decide (e.1.natAbs * 1000000 ≤ tol * e.2.natAbs)
/-- An error in ppm, towards zero. -/
def errPpm (e : Int × Int) : Int := (e.1 * 1000000).tdiv e.2
/-- The verdict of R284: 0 good, 1 field reference failed, 2 housekeeping reference failed, 3 both. -/
def judgeRefs (er eb : Int × Int) (tol : Nat) : Nat :=
  if errIn tol er && errIn tol eb then 0 else if errIn tol eb then 1
  else if errIn tol (er.1 * eb.2 - eb.1 * er.2, er.2 * eb.2) then 2 else 3
/-- REF_FAIL changes (R285, R289, R532). -/
def setRefFail (v : Bool) (a1 a2 : Nat) (b : Block) : Block :=
  if b.hk.refFail == v then b else
  { b with hk := { b.hk with refFail := v } } |> evr (if v then 0x404 else 0x405) a1 a2 |> irq 0x20 3 |> healthCond 5 v
    |> onlyIf (!v) (forEach (those 16 fun c => (b.chain.chans.toList.getD c {}).ctl.getLsbD 31) disturb)
/-- HK_REF_FAIL changes. -/
def setHkFail (v : Bool) (a1 a2 : Nat) (b : Block) : Block :=
  if b.hk.hkFail == v then b else
  { b with hk := { b.hk with hkFail := v } } |> evr (if v then 0x406 else 0x407) a1 a2 |> irq 0x21 2 |> healthCond 4 v
/-- A scan's verdict on the references: three alike in a row set the flags, one second of good ones clears them (R284). -/
def hkJudge (sum : Nat → Nat) (b : Block) : Block :=
  let er := errMax (hkErr (sum 0) (hkN b 0) false) (hkErr (sum 1) (hkN b 1) false)
  let eb := hkErr (sum 14) (hkN b 14) true
  let v := judgeRefs er eb (b.f (pg 0x20 0x048) 15 0)
  let a1 := sarg (errPpm er)
  let a2 := sarg (errPpm eb)
  if v = 0 then
    let from_ := b.hk.goodFrom.getD (b.mono / gtMs 1)
    let b := { b with hk := { b.hk with bad := 0, badKind := 0, goodFrom := some from_ } }
    onlyIf (decide (from_ + 1000 ≤ b.mono / gtMs 1)) (fun b => b |> setRefFail false 0 0 |> setHkFail false 0 0) b
  else
    let n := if b.hk.badKind = v then b.hk.bad + 1 else 1
    let b := { b with hk := { b.hk with bad := n, badKind := v, goodFrom := none } }
    onlyIf (decide (3 ≤ n))
      (fun b => b |> onlyIf (v.testBit 0) (setRefFail true a1 a2) |> onlyIf (v.testBit 1) (setHkFail true a1 a2)) b

/-- The hottest sensor, the lowest of equals, and its mean (R104, R291). -/
def hottest (mean : Nat → Nat) : Nat × Nat :=
  (List.range 8).foldl (fun m i => if m.2 < mean (16 + i) then (i, mean (16 + i)) else m) (0, mean 16)
/-- The die temperature acts (R104). -/
def hkThermal (mean : Nat → Nat) (b : Block) : Block :=
  let h := hottest mean
  let warm := decide (2816 ≤ h.2)
  let hot := decide (3024 ≤ h.2)
  let cool := (List.range 8).all fun i => decide (mean (16 + i) < 2624)
  let was := b.hk
  let b := { b with hk := { b.hk with
    warm := warm, hot := hot, coolFrom := if cool then some (b.hk.coolFrom.getD (b.mono / gtMs 1)) else none } }
  b |> wn (pg 0x21 0x04C) (h.1 * 2 ^ 24 + h.2)
    |> onlyIf (warm && !was.warm) (evr 0x00A h.1 h.2) |> healthCond 2 warm
    |> onlyIf (hot && !was.hot) (fun b => b |> evr 0x00B h.1 h.2 |> onlyIf (b.dev.st != .keep) (fun b =>
      stateReq .keep 2 { b with hk := { b.hk with forced := true } }))

/-- A scan: the sums of its conversions, by channel (R282). -/
def hkScan (sums : Vector (BitVec 20) 24) (b : Block) : Block :=
  if !hkDue b || b.inReset 0x21 then b else
  let sum := fun c => min (sums.toList.getD c 0).toNat (4095 * hkN b c)
  let keep := b.dev.st == .keep
  let cs := hkChans b
  let b := { b with hk := { b.hk with at_ := some (b.mono / gtMs 1) } } |> forEach cs fun c => hkConvert c (sum c)
  let b := if keep then b else b |> healthCond 3 (b.n (pg 0x21 0x050) != 0) |> hkJudge sum |> wf (pg 0x21 0x048) 30 30 1
    |> wf (pg 0x21 0x048) 15 0 (hkTime (b.n (pg 0x21 0x044)) fun c => min 8 (b.f (pg 0x21 (0x100 + 4 * c)) 3 0))
    |> cntWrap (pg 0x21 0x054) |> irq 0x21 0
  hkThermal (fun c => sum c / hkN b c) b
/-- R282. -/
def execHkScan (sums : Vector (BitVec 20) 24) (s : State) : Out := s.run (hkScan sums)
/-- R104: ten seconds with every sensor below 100 °C end the Keep that the temperature forced. -/
def thermalResume (b : Block) : Block :=
  let cooled := match b.hk.coolFrom with
    | some t => decide (t + 10000 ≤ b.mono / gtMs 1)
    | none => false
  if b.dev.st == .keep && !b.dev.warm && b.hk.forced && cooled then
    leaveKeep 2 b
  else b
/-- R104. -/
def execThermalResume (s : State) : Out := s.run thermalResume

end Sys2Proof.Machine
end

