-- ==== Sys2Proof/Machine/Bus.lean ====
section
/-! DEFINITION. What a write of a register or table word does, page by page, and what a read does (R38–R57). -/

namespace Sys2Proof.Machine
open Sys2Proof

/-! Reads (R45–R49). -/

/-- A register of a page that FREEZE holds: a counter or a read-only status field, not a window or an agent's own
register; of the header PG_STS alone (R45). -/
def holdable (p : Nat) (r : RegRow) (o : Nat) : Bool :=
  (r.acc == .ro || r.acc == .rc) &&
    !(0x10 ≤ p && p ≤ 0x13 && 0x400 ≤ o) && !(p = 0x64 && (o = 0x088 || 0x100 ≤ o && o < 0x180)) &&
    !(p = 0x68 && ((0x0C0 ≤ o && o < 0x0E0) || o = 0x124 || (0x400 ≤ o && o < 0x6D8)))
/-- Whether an address reads as held now. -/
def heldNow (b : Block) (a : Nat) : Bool :=
  let p := a / 0x1000
  let o := a % 0x1000
  decide (a < 0x100000) && b.frozen.contains p && (o = 0x00C || (0x040 ≤ o && (rowOf a).any fun r => holdable p r o))
/-- The word an agent reads: the held value in a frozen page, else the live one. -/
def seen (ag : Agent) (b : Block) (a : Nat) : Word :=
  if heldNow b a then mget 0 b.held a else liveReg ag b a
/-- Addresses of a pair or group. -/
def groupAddrs (g : Nat × Nat) : List Nat := (List.range g.2).map fun i => g.1 + 4 * i
/-- A counter that a read clears: what counts are kept since a freeze stay (R45). A register of class W holds the largest
value since the last read, and a held one leaves it as it is. -/
def clearWord (a : Nat) (b : Block) : Block :=
  let peak := (rowOf a).any fun r => r.cls == .w
  if !heldNow b a then wr a 0 b
  else { b with held := mput 0 b.held a 0 } |> onlyIf (!peak) (wr a (b.r a - mget 0 b.held a))
/-- The same for a pair. -/
def clearPair (a : Nat) (b : Block) : Block :=
  if !heldNow b a then wn64 a 0 b
  else
    let h := (mget 0 b.held a).toNat + (mget 0 b.held (a + 4)).toNat * 2 ^ 32
    { b with held := mput 0 (mput 0 b.held a 0) (a + 4) 0 } |> wn64 a (b.n64 a + 2 ^ 64 - h)
/-- Whether a read clears a register (R11). -/
def isRc (a : Nat) : Bool := (rowOf a).any fun r => r.acc == .rc
/-- A read or a TAKE of a pair or group clears it where it is clear-on-read. -/
def clearGroup (g : Nat × Nat) (b : Block) : Block := onlyIf (isRc g.1) (clearPair g.1) b

/-- Peaks that a read of their register restarts. -/
def restartPeak (a : Nat) (b : Block) : Block :=
  let p := a / 0x1000
  let o := a % 0x1000
  if heldNow b a then b
  else if 0x04 ≤ p && p ≤ 0x07 && o = 0x078 then wf a 31 16 (ceilDiv (b.port (p - 4)).fill 1024) b
  else match p, o with
  | 0x08, 0x050 => modPrp (fun s => { s with peak := s.table.length }) b
  | 0x09, 0x054 => wf a 31 16 0 b
  | 0x18, 0x048 => wf a 31 16 0 b
  | 0x30, 0x05C => modCap (fun s => { s with peak := s.fill }) b
  | 0x60, 0x058 => modPair (fun s => { s with lagPeak := 0 }) b
  | _, _ => b

/-- The oldest entry of a silo, as a side-band READ of a pop window gives it (R197). -/
def siloPeek (q : Nat) (b : Block) : Block :=
  let e := match (b.silo q).q with
    | e :: _ => e.2
    | [] => []
  b |> keepPopped .side q e |> answer .side (w32 (wordAt e 0))
/-- A read of PG_ERR (R46). -/
def pgErr (ag : Agent) (p : Nat) (b : Block) : Block := b |> answer ag (b.r (pg p 0x01C)) |> wr (pg p 0x01C) 0
/-- A read of the first word of a pair or group (R47, R49). -/
def readGroup (ag : Agent) (g : Nat × Nat) (b : Block) : Block :=
  let ws := (groupAddrs g).map fun a => (a, seen ag b a)
  b |> modAgent ag (fun s => { s with shadow := ws.foldl (fun m e => mput 0 m e.1 e.2) s.shadow })
    |> answer ag (seen ag b g.1) |> clearGroup g
/-- A read of a clear-on-read register of 32 bits (R11); that of SPG_ERR_CNT clears SYNC_ERR as well (R146). -/
def readClear (ag : Agent) (a : Nat) (b : Block) : Block :=
  b |> answer ag (seen ag b a) |> clearWord a
    |> onlyIf (a = pg 0x02 0x0F4) (modTime fun t => { t with syncErr := false })
/-- The first access that recorded code 0x07 is kept (R40, R42, R64). -/
def unmapped (bar ofs : Nat) (b : Block) : Block :=
  b |> onlyIf (b.r (pg 0x80 0x050) = 0) (wn (pg 0x80 0x050) (bar * 2 ^ 30 + ofs)) |> err 0x80 0x07
/-- A read of one word: its value goes to the agent, with the side effects the word has. -/
def busRead (ag : Agent) (a : Nat) (b : Block) : Block :=
  match pageOf a with
  | none => b |> answer ag 0 |> onlyIf (ag == .host) (unmapped 0 a)
  | some p =>
    let o := a % 0x1000
    if 0x100000 ≤ a then answer ag (b.r a) b
    else if o = 0x01C then pgErr ag p b
    else match groupOf a with
    | some g =>
      if (b.agent ag).bankPages.contains p then answer ag (mget 0 (b.agent ag).bank a) b
      else if a = g.1 then readGroup ag g b
      else answer ag (mget 0 (b.agent ag).shadow a) b
    | none =>
      if isRc a then readClear ag a b
      else if 0x10 ≤ p && p ≤ 0x13 && 0x400 ≤ o && o < 0x800
          && (o % 0x40 = 0 || (ag == .host && !hostPops ((p - 0x10) * 16 + (o - 0x400) / 0x40))) then
        (if ag == .host then popWindow else siloPeek) ((p - 0x10) * 16 + (o - 0x400) / 0x40) b
      else if p = 0x64 && o = 0x100 then evrWin ag b
      else if p = 0x68 && o = 0x0C0 then ownChal ag b
      else b |> answer ag (seen ag b a) |> restartPeak a

/-! The page header (R44–R52). -/

/-- FREEZE becomes 1: the values of the page's counters and status fields are held (R45). -/
def freeze (p : Nat) (b : Block) : Block :=
  if b.frozen.contains p then b else
  let as_ := pg p 0x00C :: ((pageRows p).flatMap fun r => (List.range r.n).filterMap fun i =>
    let o := r.off + i * r.stride
    if holdable p r o then some (pg p o) else none)
  { b with held := as_.foldl (fun m a => mput 0 m a (liveReg .host b a)) b.held, frozen := p :: b.frozen }
    |> wbit (pg p 0x008) 2 true
/-- FREEZE returns to 0: the live values, with the counts kept since, appear (R45). -/
def unfreeze (p : Nat) (b : Block) : Block :=
  { b with held := b.held.filter fun e => e.1 / 0x1000 != p, frozen := b.frozen.filter (· != p) } |> wbit (pg p 0x008) 2 false
/-- A write of PG_CTL: ENABLE, FREEZE, BRST. -/
def pgCtl (p : Nat) (v : Word) (b : Block) : Block :=
  let en := bitAt v 0
  let b := if en = b.enabled p then b
    else if b.sharedHeld p 0x008 then err p 0x01 b
    else if 0x04 ≤ p && p ≤ 0x07 then portEnable (p - 4) en b
    else wbit (pg p 0x008) 0 en b
  b |> (if bitAt v 2 then freeze p else unfreeze p) |> onlyIf (bitAt v 1) (blockReset p) |> almPins |> capPins
/-- W1C of PG_IRQ: a group still pending sends again (R57). -/
def irqClear (p : Nat) (v : Word) (b : Block) : Block :=
  let c := wr (pg p 0x018) (b.r (pg p 0x018) &&& ~~~v) b
  match vecOf p with
  | some k => onlyIf (grpPending c k) (msixSend k) c
  | none => c
/-- PG_SNAP.RELEASE (R49). -/
def snapRelease (ag : Agent) (p : Nat) (b : Block) : Block :=
  modAgent ag (fun s => { s with
    bankPages := s.bankPages.filter (· != p), bank := s.bank.filter fun e => e.1 / 0x1000 != p }) b
/-- PG_SNAP.TAKE: every pair and group in one step (R49). -/
def snapTake (ag : Agent) (p : Nat) (b : Block) : Block :=
  let gs := (pageGroups p).map fun g => (pg p g.1, g.2)
  let ws := gs.flatMap fun g => (groupAddrs g).map fun a => (a, seen ag b a)
  b |> snapRelease ag p |> modAgent ag (fun s => { s with
      bank := ws.foldl (fun m e => mput 0 m e.1 e.2) s.bank, bankPages := p :: s.bankPages,
      seq := mput 0 s.seq p (mget 0 s.seq p + 1) })
    |> forEach gs clearGroup
/-- LOCK = 1 (R51). -/
def closeLock (p : Nat) (b : Block) : Block := wbit (pg p 0x028) 0 true b
/-- LOCK = 0: the host only, in an owner session, and not while an update holds the locks (R51, R593). A refused write
records 0x01 from either agent, whether LOCK is 1 or already 0 (DEDUCED, log entry 190). -/
def openLock (ag : Agent) (p : Nat) (b : Block) : Block :=
  if ag == .host && b.keys.session.isSome && !lockHeld b then wbit (pg p 0x028) 0 false b else err p 0x01 b

/-! Values that a register refuses, and what a write does beyond storing them. -/

/-- f where a value is permitted, else an error code. -/
def permit (ok : Bool) (p code : Nat) (f : Block → Block) (b : Block) : Block := if ok then f b else err p code b
/-- lo ≤ n ≤ hi. -/
def between (lo n hi : Nat) : Bool := decide (lo ≤ n) && decide (n ≤ hi)

/-- DEV (R28, R519). -/
def writeDev (ag : Agent) (a o : Nat) (v : Word) : Block → Block := match o with
  | 0x040 => modeReq v
  | 0x084 => fun b =>
    if fld v 31 16 != 0x5354 then err 0x00 0x25 b else match fld v 1 0 with
    | 0 => stateReq .run (causeOf ag) b
    | 1 => stateReq .idle (causeOf ag) b
    | 2 => stateReq .keep (causeOf ag) b
    | _ => err 0x00 0x26 b
  | 0x088 => fun b => if fld v 31 16 = 0x5752 && !bitAt v 0 then b else rstReq ag (BitVec.ofNat 16 (fld v 31 16)) b
  | 0x090 => permit (between 10 (fld v 15 0) 10000) 0x00 0x06 (wr a v)
  | 0x100 => setCmd v
  | _ => wr a v
/-- PWR (R110). -/
def writePwr (a o : Nat) (v : Word) : Block → Block := match o with
  | 0x040 => permit (between 550 (fld v 27 16) 850) 0x01 0x06 (wr a v)
  | 0x044 => permit (between 550 (fld v 11 0) 850) 0x01 0x06 (wr a v)
  | _ => wr a v

/-- The sample-pulse generator's settings wait for the next whole grid second; ENABLE acts at once (R143, R144). -/
def spgChange (b : Block) : Block :=
  let f := fun (o h l : Nat) => b.f (pg 0x02 o) h l
  modTime (fun t => { t with
    spgRun := b.t (pg 0x02 0x0E4) 0,
    spgPend := some ((secOf b.now + 1) * gtSec, b.t (pg 0x02 0x0E4) 1,
      #v[f 0x0E8 8 0, f 0x0E8 24 16, f 0x0EC 8 0, f 0x0EC 24 16]) }) b
/-- PTP_CTL: a change of domain or port starts PTP anew; roles are decided again (R129, R132, R146). -/
def ptpCtl (a : Nat) (v : Word) (b : Block) : Block :=
  let moved := fld v 31 24 != b.f a 31 24 || fld v 5 4 != b.f a 5 4
  b |> wr a v |> onlyIf moved ptpRestart |> ptpDecide
/-- A priority list that names a source twice (R147). -/
def namedTwice (v : Word) : Bool :=
  let l := [fld v 3 0, fld v 7 4, fld v 11 8].filter (· != 0)
  l.eraseDups.length != l.length
/-- TIME (R146, R147). -/
def writeTime (a o : Nat) (v : Word) (b : Block) : Block :=
  let put := wr a v
  match o with
  | 0x040 => permit (between 1 (fld v 23 16) 200 && 1 ≤ fld v 15 8 && fld v 1 0 < 2) 0x02 0x06 put b
  | 0x044 =>
    if 3 < fld v 3 0 || 3 < fld v 7 4 || 3 < fld v 11 8 then err 0x02 0x06 b
    else if namedTwice v then err 0x02 0x21 b
    else b |> put |> onlyIf (!bitAt v 16) (modTime fun t => { t with refOk := false }) |> reselect
  | 0x048 => permit (between 10 (fld v 31 16) 3600) 0x02 0x06 put b
  | 0x04C => permit (between 1000 v.toNat 1000000000) 0x02 0x06 put b
  | 0x05C => permit (between 10000 (fld v 16 0) 100000) 0x02 0x06 put b
  | 0x080 => permit (decide (fld v 29 0 < 1000000000)) 0x02 0x06 put b
  | 0x084 => timeSet b
  | 0x088 =>
    permit (!(bitAt v 16 && bitAt v 17)) 0x02 0x06 (fun b =>
      b |> put |> modTime (fun t => { t with leapAdd := 0 }) |> utcTrack |> reselect) b
  | 0x090 =>
    if fld v 7 6 = 3 then err 0x02 0x06 b
    else if 2 ≤ fld v 5 4 && passOn b then err 0x02 0x22 b
    else ptpCtl a v b
  | 0x0D0 => permit (between 1 (fld v 8 0) 500) 0x02 0x06 put b
  | 0x0DC => permit (fld v 2 0 < 5) 0x02 0x06 put b
  | 0x0E0 =>
    if b.isStandby then
      b |> wf a 15 0 (fld v 15 0) |> onlyIf (bitAt v 31 != b.t a 31) (err 0x02 0x01)
    else put b
  | 0x0E4 => b |> put |> spgChange
  | 0x0E8 => permit (fld v 8 0 ≤ 487 && fld v 24 16 ≤ 487) 0x02 0x06 (fun b => b |> put |> spgChange) b
  | 0x0EC => permit (fld v 8 0 ≤ 487 && fld v 24 16 ≤ 487) 0x02 0x06 (fun b => b |> put |> spgChange) b
  | _ => put b

/-- The taps of a transmitter fit (R181). -/
def ffeFits (v : Word) : Bool := decide (fld v 23 16 + fld v 15 8 + fld v 7 0 ≤ 64)
/-- Descriptors of the host's ring are outstanding (R177). -/
def ringBusy (b : Block) (p : Nat) : Bool := b.n (pg (4 + p) 0x06C) != b.n (pg (4 + p) 0x070)
/-- A port (R181, R182). -/
def writePort (p a o : Nat) (v : Word) (b : Block) : Block :=
  let put := wr a v
  let n := fld v 12 0
  match o with
  | 0x040 =>
    let old := b.r a
    if fld v 29 16 != 0 && !between 1518 (fld v 29 16) 9216 then err (4 + p) 0x06 b
    else if b.enabled (4 + p) && (bitAt v 0 != bitAt old 0 || bitAt v 2 != bitAt old 2) then err (4 + p) 0x20 b
    else if bitAt v 2 && !bitAt v 0 then err (4 + p) 0x21 b
    else put b
  | 0x054 => permit (!clsBad (fld v 7 0) (fld v 15 8)) (4 + p) 0x06 put b
  | 0x058 => permit (ffeFits v) (4 + p) 0x06 put b
  | 0x05C => permit (fld v 23 16 < fld v 31 24) (4 + p) 0x23 put b
  | 0x068 =>
    if ringBusy b p then err (4 + p) 0x22 b
    else permit ([16, 32, 64, 128, 256, 512, 1024, 2048, 4096].contains n) (4 + p) 0x06 put b
  | _ => put b
/-- PRP (R183, R184). -/
def writePrp (a o : Nat) (v : Word) (b : Block) : Block := match o with
  | 0x040 =>
    let pass := bitAt v 1
    if !between 10 (fld v 25 16) 1000 then err 0x08 0x06 b
    else if bitAt v 0 && !prpOn b && b.t (pg 0x04 0x040) 0 != b.t (pg 0x05 0x040) 0 then err 0x08 0x20 b
    else if pass && !passOn b && b.t (pg 0x06 0x040) 0 != b.t (pg 0x07 0x040) 0 then err 0x08 0x21 b
    else if pass && 2 ≤ ptpPort b then err 0x08 0x22 b
    else b |> prpSwitch (bitAt v 0) |> wr a v |> ptpDecide
  | 0x044 => permit (between 100 (fld v 15 0) 10000) 0x08 0x06 (wr a v) b
  | 0x048 => permit (between 10 (fld v 15 0) 10000) 0x08 0x06 (wr a v) b
  | _ => wr a v b
/-- PLINK (R500, R501): a lane taken out of service loses its lock. -/
def writePlink (a o : Nat) (v : Word) (b : Block) : Block :=
  let off := fun (i : Nat) (b : Block) =>
    if !bitAt v i && b.pair.lanes.getLsbD i then
      b |> modPair (fun s => { s with lanes := s.lanes &&& ~~~(1#2 <<< i) }) |> cnt (pg 0x09 0x230) |> irq 0x09 1
    else b
  match o with
  | 0x040 => permit (fld v 1 0 != 0 || !b.t (pg 0x60 0x040) 0) 0x09 0x20 (fun b => b |> wr a v |> off 0 |> off 1) b
  | 0x048 => permit (between 500 (fld v 16 0) 100000) 0x09 0x06 (wr a v) b
  | _ => permit (ffeFits v) 0x09 0x06 (wr a v) b
/-- A silo page: SQ_CTL and the push windows (R187, R198). -/
def writeSilo (p a o : Nat) (v : Word) (b : Block) : Block :=
  let base := (p - 0x10) * 16
  if 0x800 ≤ o then
    let q := base + (o - 0x800) / 0x40
    let w := o % 0x40 / 4
    if w = 0 then hostPush q v b
    else if !hostPushes q then err p 0x23 b
    else modSilo q (fun s => { s with stage := mput 0 s.stage w v }) b
  else if 0x100 ≤ o && o < 0x300 then siloCtl (base + (o - 0x100) / 0x20) v b
  else wr a v b
/-- GLEAN (R221, R225, R234). -/
def writeGlean (a o : Nat) (v : Word) (b : Block) : Block :=
  if 0x400 ≤ o && o < 0x800 then svWrite ((o - 0x400) / 16) (o % 16 / 4) v b
  else match o with
  | 0x060 => calLoad v b
  | 0x064 => stage calStage v b
  | 0x068 => stage (calStage + 4) v b
  | 0x06C => permit (between 0x20000000 v.toNat 0x7FFFFFFF) 0x18 0x06 (stage (calStage + 8) v) b
  | 0x070 => calCommit v b
  | _ => wr a v b
/-- GRAN (R245, R256, R266, R268). -/
def writeGran (a o : Nat) (v : Word) (b : Block) : Block :=
  if 0x200 ≤ o && o < 0x300 then stage a v b
  else if 0x080 ≤ o && o < 0x180 then
    let r := (o - 0x080) / 0x40
    let on := (b.rate r).on
    match (o - 0x080) % 0x40 with
    | 0x00 => brCtlWrite r v b
    | 0x04 =>
      let am := fld v 26 16
      if 2000 < am || !between 1 (fld v 10 0) 2000 then err 0x19 0x22 b
      else if on && (fld v 10 0 != waitMs b r || am != amendMs b r) then err 0x19 0x25 b
      else if am != 0 && b.f (brReg r 0x088) 15 0 ≤ ceilDiv (am * b.rateHz r) 1000 then err 0x19 0x24 b
      else wr a v b
    | 0x08 => if fld v 15 0 = 0 then err 0x19 0x22 b else if on then err 0x19 0x25 b else wr a v b
    | _ => if !between 64 v.toNat 3014720 then err 0x19 0x22 b else if on then err 0x19 0x25 b else wr a v b
  else match o with
  | 0x060 => rangeCmd v b
  | 0x070 => replayStart (fld v 1 0) (b.n (pg 0x19 0x06C)) 0 b
  | _ => wr a v b
/-- ACQ (R272, R289, R290). -/
def writeAcq (a o : Nat) (v : Word) (b : Block) : Block :=
  if 0x100 ≤ o then chCtlWrite ((o - 0x100) / 4) v b
  else match o with
  | 0x044 =>
    if !between 100 (fld v 27 16) 4000 || fld v 11 4 = 0 || fld v 3 0 = 0 then err 0x20 0x06 b
    else permit (!(List.range 16).any fun c => owTooHigh v (b.r (pg 0x20 (0x100 + 4 * c)))) 0x20 0x20 (wr a v) b
  | 0x048 => permit (between 500 (fld v 15 0) 50000) 0x20 0x06 (wr a v) b
  | _ => wr a v b
/-- HKADC (R282, R291, R292): a scan must end within PERIOD. -/
def writeHk (a o : Nat) (v : Word) (b : Block) : Block :=
  let avg := fun (b : Block) (c : Nat) => min 8 (b.f (pg 0x21 (0x100 + 4 * c)) 3 0)
  let fits := fun (b : Block) => decide (hkTime (b.n (pg 0x21 0x044)) (avg b) ≤ hkPeriod b * 1000)
  let put := fun (v : Word) (b : Block) => permit (fits (wr a v b)) 0x21 0x20 (wr a v) b
  if o = 0x040 then permit (between 1 (fld v 9 0) 1000) 0x21 0x06 (put v) b
  else if o = 0x044 then b |> put (v ||| w32 hkAlways) |> onlyIf (hkAlways &&& v.toNat != hkAlways) (err 0x21 0x21)
  else if 0x100 ≤ o && o < 0x160 then permit (fld v 11 8 ≤ 8 && fld v 3 0 ≤ 8) 0x21 0x06 (put v) b
  else wr a v b
/-- WIN, field chain (R301, R304, R322): a change of SET is a remap. -/
def writeWin (a o : Nat) (v : Word) (b : Block) : Block :=
  if o = 0x04C then wSwap v b
  else if 0x100 ≤ o && o < 0x140 then b |> wr a v |> onlyIf (fld v 18 16 != b.f a 18 16) (disturb ((o - 0x100) / 4))
  else wr a v b
/-- PHEST (R319, R325). -/
def writePhest (a o : Nat) (v : Word) (b : Block) : Block := match o with
  | 0x040 => permit (fld v 9 0 ≤ 527) 0x24 0x06 (wr a v) b
  | 0x044 => stage (0x3000000 + 16 * b.f (pg 0x24 0x040) 9 0) v b
  | 0x048 => peCommit v b
  | _ => wr a v b
/-- OSC (R333, R347, R350, R353). -/
def writeOsc (a o : Nat) (v : Word) (b : Block) : Block :=
  let on := b.t (pg 0x28 0x040) 3
  let ring := fun (base len : Nat) => decide (base + len ≤ 4096)
  if 0x800 ≤ o then
    if designUsed b ((o - 0x800) / 64) then err 0x28 0x29 b
    else permit (o % 64 != 56 || envFits v) 0x28 0x06 (wr a (if o % 64 = 60 then v &&& 0xFFFF else v)) b
  else match o with
  | 0x050 => if on then err 0x28 0x2A b else permit (ring (fld v 31 20) (b.f (pg 0x28 0x054) 12 0)) 0x28 0x28 (wr a v) b
  | 0x054 =>
    if on then err 0x28 0x2A b
    else if !between 1 (fld v 12 0) 4096 then err 0x28 0x06 b
    else permit (ring (b.f (pg 0x28 0x050) 31 20) (fld v 12 0)) 0x28 0x28 (wr a v) b
  | _ => wr a v b
/-- GOV (R387, R389). -/
def writeGov (a o : Nat) (v : Word) (b : Block) : Block :=
  if 0x200 ≤ o then permit (b.f (pg 0x2B 0x054) 31 30 = 0) 0x2B 0x23 (wr a v) b
  else match o with
  | 0x044 => permit (between 25 (fld v 9 0) 625) 0x2B 0x22 (wr a v) b
  | 0x048 => permit (between 100 v.toNat 2000000) 0x2B 0x22 (wr a v) b
  | 0x04C => permit (fld v 15 0 ≤ 60000) 0x2B 0x22 (wr a v) b
  | 0x054 =>
    if fld v 31 30 = 3 then err 0x2B 0x06 b
    else permit (fld v 31 30 != 2 || (b.keys.slot (fld v 23 16)).st = 1) 0x2B 0x23 (wr a v) b
  | _ => wr a v b

/-- The Stook export's template, lengths and ports as they would stand (R408, R415): fit to send, or no port named. -/
def capExpFits (b : Block) : Bool :=
  let hl := b.f (pg 0x30 0x06C) 7 0
  let seg := b.f (pg 0x30 0x060) 15 0
  let tmpl := (bytesOfWords ((List.range 32).map fun i => b.r (pg 0x30 (0x100 + 4 * i)))).take hl
  (List.range 4).all fun p => !b.t (pg 0x30 0x060) (28 + p) ||
    (between 42 hl 128 && seg != 0 && (tmplV4 (outerTpid b p) tmpl || tmplV6 (outerTpid b p) tmpl) &&
      decide (hl + 12 + seg + 4 + (if prpOn b && p < 2 then 6 else 0) ≤ maxLen b p))
/-- A write of an area's place: inside Stook memory, apart from the others, used by no enabled definition; its extents
are gone (R403, R413, R415). -/
def capAreaWrite (i a : Nat) (v : Word) (b : Block) : Block :=
  let s := fld v 6 0
  let n := fld v 15 8
  let clash := (List.range 4).any fun j =>
    let w := b.r (pg 0x30 (0x080 + 16 * j))
    j != i && fld w 15 8 != 0 && s < fld w 6 0 + fld w 15 8 && fld w 6 0 < s + n
  if !between 1 n 128 then err 0x30 0x06 b
  else if 128 < s + n || clash then err 0x30 0x20 b
  else if (List.range 32).any fun d => (capCfg b d).en && (capCfg b d).area = i then err 0x30 0x25 b
  else b |> wr a v |> modArea i fun _ => {}
/-- CAP (R413, R415). -/
def writeCap (a o : Nat) (v : Word) (b : Block) : Block :=
  let exp := fun (b : Block) => permit (capExpFits (wr a v b)) 0x30 0x27 (wr a v) b
  if 0x080 ≤ o && o < 0x0C0 then
    if o % 16 = 0 then capAreaWrite ((o - 0x080) / 16) a v b else tailWrite ((o - 0x080) / 16) v b
  else if 0x100 ≤ o && o < 0x180 then exp b
  else match o with
  | 0x040 => b |> wr a v |> capPins
  | 0x044 => permit (fld v 15 0 != 0) 0x30 0x06 (wr a v) b
  | 0x050 => if b.up then capHostTrig v b else b
  | 0x054 => if b.up then capArmBits v b else b
  | 0x058 => capStopBits v b
  | 0x060 => permit (fld v 23 16 != 0) 0x30 0x06 exp b
  | 0x06C => permit (between 42 (fld v 7 0) 128) 0x30 0x27 exp b
  | _ => wr a v b
/-- THR (R437, R439): a timer waits for its next instant. -/
def writeThr (a o : Nat) (v : Word) (b : Block) : Block :=
  if 0x100 ≤ o && o < 0x180 then
    permit (!bitAt v 31 || between 100 (fld v 25 0) 60000000) 0x38 0x24 (fun b =>
      b |> wr a v |> modThr fun h => { h with timers := mput 0 h.timers ((o - 0x100) / 4) b.now }) b
  else if o = 0x044 then permit (fld v 23 16 != 0 && between 10 (fld v 9 0) 1000) 0x38 0x24 (wr a v) b
  else wr a v b
/-- PAIR (R497). -/
def writePair (a o : Nat) (v : Word) (b : Block) : Block :=
  if 0x400 ≤ o then
    if o = 0x400 then mboxSend v b else modPair (fun s => { s with mbox := mput 0 s.mbox ((o - 0x400) / 4) v }) b
  else match o with
  | 0x040 => pairCtl v b
  | 0x044 => permit (between 10 (fld v 26 16) 1800 && fld v 7 0 != 0) 0x60 0x06 (wr a v) b
  | 0x080 => pairReq v b
  | _ => wr a v b
/-- A snapshot-set word names a readable register (R548). -/
def snapNames (v : Word) : Bool :=
  (rowOf (pg (fld v 19 12) (fld v 11 2 * 4))).any (fun r => r.acc != .wo) && allPages.contains (fld v 19 12)
/-- EVR (R550, R554, R555). -/
def writeEvr (ag : Agent) (a o : Nat) (v : Word) (b : Block) : Block :=
  if 0x800 ≤ o then permit (!bitAt v 31 || snapNames v) 0x64 0x20 (wr a v) b
  else match o with
  | 0x040 => permit (between 100 (fld v 13 0) 10000) 0x64 0x06 (wr a v) b
  | 0x080 => modAgent ag (fun g => { g with evrCur := v }) b
  | 0x084 => evrAdvance ag v b
  | _ => wr a v b
/-- KEY (R565–R570, R579). -/
def writeKey (ag : Agent) (a o : Nat) (v : Word) (b : Block) : Block :=
  let guard : Half := BitVec.ofNat 16 (fld v 31 16)
  let op := fld v 1 0
  let bad := fun (g : Nat) (b : Block) => if fld v 31 16 = g then err 0x68 0x06 b else err 0x68 0x20 b
  if 0x100 ≤ o && o < 0x120 then modAgent ag (fun g => { g with attNonce := mput 0 g.attNonce ((o - 0x100) / 4) v }) b
  else match o with
  | 0x058 =>
    if b.locked 0x68 then err 0x68 0x01 b
    else if op = 1 then ksWrite guard b else if op = 2 then ksEnd guard 2 b else if op = 3 then ksEnd guard 0 b else bad 0x4B53 b
  | 0x068 => if op = 2 then ownClose guard b else if op = 0 then bad 0x4F57 b else ownTry guard op b
  | 0x06C => permit (between 60 (fld v 11 0) 3600) 0x68 0x06 (wr a v) b
  | 0x120 => if fld v 31 16 = 0x4154 && !bitAt v 0 then b else attRequest ag guard b
  | _ => wr a v b
/-- TAMP (R581, R582). -/
def writeTamp (a o : Nat) (v : Word) (b : Block) : Block := match o with
  | 0x040 => permit (fld v 5 2 = 0xF) 0x7C 0x21 (wr a v) b
  | 0x044 => permit (between 1 (fld v 9 0) 1000) 0x7C 0x06 (wr a v) b
  | 0x048 => permit (between 0xC4 (fld v 7 0) 0xD3) 0x7C 0x06 (wr a v) b
  | 0x064 => if fld v 31 16 = 0x5443 && !bitAt v 0 then b else tampClear (BitVec.ofNat 16 (fld v 31 16)) b.keys.live b
  | _ => wr a v b
/-- UPD (R591–R599, R602). -/
def writeUpd (ag : Agent) (a o : Nat) (v : Word) (b : Block) : Block :=
  if 0x800 ≤ o then modAgent ag (fun g => { g with updWin := mput 0 g.updWin ((o - 0x800) / 4) v }) b
  else match o with
  | 0x040 => permit (fld v 25 16 ≤ 600 && between 10 (fld v 11 0) 3600) 0x6C 0x06 (wr a v) b
  | 0x044 => permit (fld v 15 8 != 0 && between 5 (fld v 7 0) 120) 0x6C 0x06 (wr a v) b
  | 0x058 => permit (fld v 29 0 ≤ 0x20000000) 0x6C 0x06 (wr a v) b
  | 0x05C => match fld v 3 0 with
    | 1 => updGuard v (updLoad ag) b
    | 2 => updGuard v updStage b
    | 3 => updGuard v updActivate b
    | 4 => updGuard v updAbort b
    | _ => updGuard v (err 0x6C 0x06) b
  | 0x084 => permit (v.toNat % 4 = 0) 0x6C 0x06 (modAgent ag fun g => { g with updOfs := v.toNat }) b
  | 0x088 => updAppend ag v b
  | _ => wr a v b
/-- BIST (R536). -/
def writeBist (a o : Nat) (v : Word) (b : Block) : Block := match o with
  | 0x054 => permit (between 60 (fld v 16 0) 86400) 0x70 0x06 (wr a v) b
  | 0x058 => permit (fld v 7 0 != 0) 0x70 0x06 (wr a v) b
  | 0x05C => permit (between 1 (fld v 9 0) 1000) 0x70 0x06 (wr a v) b
  | 0x100 => bistReq v b
  | _ => wr a v b
/-- HOST (R63, R64). -/
def writeHost (a o : Nat) (v : Word) (b : Block) : Block := match o with
  | 0x048 => permit (v.toNat ≤ 60000) 0x80 0x06 (fun b => { wr a v b with wdogKickAt := b.mono, wdogRuns := v != 0 }) b
  | 0x04C => { b with wdogKickAt := b.mono, wdogRuns := true }
  | _ => wr a v b

/-- A write of a block-specific register, its reserved bits already 0. -/
def writePage (ag : Agent) (p a : Nat) (v : Word) (b : Block) : Block :=
  let o := a % 0x1000
  if 0x04 ≤ p && p ≤ 0x07 then
    if o = 0x06C then wn a (fld v 11 0) b else writePort (p - 4) a o v b
  else if 0x10 ≤ p && p ≤ 0x13 then writeSilo p a o v b
  else if 0x40 ≤ p && p ≤ 0x57 then engOut (p - 0x40) v b
  else match p with
  | 0x00 => writeDev ag a o v b
  | 0x01 => writePwr a o v b
  | 0x02 => writeTime a o v b
  | 0x08 => writePrp a o v b
  | 0x09 => writePlink a o v b
  | 0x18 => writeGlean a o v b
  | 0x19 => writeGran a o v b
  | 0x20 => writeAcq a o v b
  | 0x21 => writeHk a o v b
  | 0x22 => writeWin a o v b
  | 0x23 => if o = 0x04C then rsSwap v b else wr a v b
  | 0x24 => writePhest a o v b
  | 0x28 => writeOsc a o v b
  | 0x29 => islCtlWrite v b
  | 0x2A => if o = 0x048 then almAck v b else if o = 0x04C then almTest v b else wr a v b
  | 0x2B => writeGov a o v b
  | 0x30 => writeCap a o v b
  | 0x38 => writeThr a o v b
  | 0x60 => writePair a o v b
  | 0x64 => writeEvr ag a o v b
  | 0x68 => writeKey ag a o v b
  | 0x6C => writeUpd ag a o v b
  | 0x70 => writeBist a o v b
  | 0x74 => permit (between 600 (fld v 16 0) 86400) 0x74 0x06 (wr a v) b
  | 0x7C => writeTamp a o v b
  | 0x80 => writeHost a o v b
  | _ => wr a v b

/-! Tables (R41). -/

/-- Writable bits of a view's word (R229). -/
def viewMask (i : Nat) : Nat :=
  if i = 0 then 0xFFFFFC0F else if i = 1 then 0x00FFFFFF else if i = 2 then 0xFF1FFFFF else if i < 16 then 0 else 0xFFFFFFFF
/-- A write of the coefficient banks (R299, R300). -/
def coeffWrite (a : Nat) (v : Word) (b : Block) : Block :=
  let k := a / 0x1000 % 2
  if a < 0x310000 then
    let s := (a - 0x300000) / 0x2000
    let o := a % 0x1000
    if k = activeBank b s || b.chain.swaps.any (fun e => e.set = s) then err 0x22 0x20 b
    else if o < 0xC00 then wr a (v &&& 0x00FFFFFF#32) b
    else if o < 0xC0C then wr a (v &&& 0x1FF#32) b
    else b
  else if 0x320000 ≤ a && a < 0x324000 then
    let t := (a - 0x320000) / 0x2000
    if k = rsBank b t || b.chain.rsSwaps.any (fun e => e.set = t) then err 0x23 0x20 b
    else if a % 0x1000 < (if t = 0 then 0x800 else 0x400) then wr a (v &&& 0x00FFFFFF#32) b
    else b
  else b
/-- A write of an event code's rate entry (R545, R555). -/
def rateWrite (a : Nat) (v : Word) (b : Block) : Block :=
  match a % 16 with
  | 0 => permit (fld v 15 8 != 0) 0x64 0x06 (wr a (v &&& 0xFFFFFFE0#32)) b
  | 4 => wr a (v &&& 0x9F#32) b
  | _ => b
/-- Stages a word of an entry, or hands its first word to the commit. -/
def entryWrite (start size a : Nat) (v : Word) (commit : Nat → Word → Block → Block) (b : Block) : Block :=
  if (a - start) % size = 0 then commit ((a - start) / size) v b
  else if tableLive a then b
  else stage a v b
/-- A write of a table word (R41). -/
def tableWrite (a : Nat) (v : Word) (b : Block) : Block :=
  if a < 0x200000 then entryWrite 0x100000 128 a v streamCommit b
  else if a < 0x202000 then entryWrite 0x200000 32 a v (fun i => clsCommit (i / 64) (i % 64)) b
  else if a < 0x208000 then wr a (v &&& w32 (viewMask (a % 256 / 4))) b
  else if a < 0x340000 then coeffWrite a v b
  else if a < 0x408000 then entryWrite 0x400000 64 a v sigCommit b
  else if a < 0x450000 then entryWrite 0x410000 64 a v trkCommit b
  else if a < 0x520000 then entryWrite 0x500000 2048 a v grpCommit b
  else if a < 0x542000 then entryWrite 0x540000 32 a v srcCommit b
  else if a < 0x542400 then entryWrite 0x542000 64 a v ballCommit b
  else if a < 0x554000 then entryWrite 0x550000 256 a v dsCommit b
  else if a < 0x581000 then entryWrite 0x580000 256 a v coCommit b
  else if a < 0x602000 then entryWrite 0x600000 256 a v capCommit b
  else if a < 0x710000 then entryWrite 0x700000 64 a v taskCommit b
  else rateWrite a v b
/-- The page whose lock and error register a table word obeys: the resampler's tables go with page 0x23 (R299). -/
def tablePage (a : Nat) : Option Nat := if 0x320000 ≤ a && a < 0x340000 then some 0x23 else pageOf a

/-! Admission of a write (R11, R13, R51–R53, R473, R507). -/

/-- The code with which a write is refused before its value counts; 0 where it is admitted; none where it has no effect
and no code: a read-only field. -/
def writeCode (ag : Agent) (a : Nat) (v : Word) (b : Block) : Option Nat :=
  if 0x100000 ≤ a then
    match tablePage a with
    | none => some 0x07
    | some p =>
      if ag == .side then some 0x02
      else if b.inReset p then some 0x08
      else if b.locked p || b.sharedHeld p 0 then some 0x01
      else some 0
  else
    let p := a / 0x1000
    let o := a % 0x1000
    if !allPages.contains p then some 0x07
    else if o = 0x018 || o = 0x020 then some 0
    else if o = 0x028 then (if ag == .side && !bitAt v 0 then some 0x01 else some 0)
    else if ag == .side && !sbwAllows p o then some 0x02
    else match rowOf a with
    | none => some 0x05
    | some r =>
      if r.acc == .ro || r.acc == .rc then none
      else if o < 0x040 then some 0
      else if b.inReset p then some 0x08
      else if (r.acc == .rwl && b.locked p) || (b.sharedHeld p o && !(p = 0x02 && o = 0x0E0)) then some 0x01
      else some 0
/-- The causes that PG_IRQ and PG_IRQ_EN of a page hold (R44, and the page's own rule). -/
def irqCauses (p : Nat) : Nat :=
  2 ^ 31 +
  if 0x10 ≤ p && p ≤ 0x13 then 0xFFFF
  else if p = 0x19 then 0x1F
  else if (0x04 ≤ p && p ≤ 0x07) || [0x18, 0x20, 0x28, 0x30, 0x38, 0x60].contains p then 0xF
  else if [0x21, 0x22, 0x23, 0x29, 0x2A, 0x2B, 0x68, 0x6C, 0x70].contains p then 0x7
  else if (0x40 ≤ p && p ≤ 0x59) || [0x09, 0x24, 0x64, 0x7C].contains p then 0x3
  else 0
/-- A write of a header field. -/
def writeHeader (ag : Agent) (p : Nat) (o : Nat) (v : Word) (b : Block) : Block := match o with
  | 0x008 => pgCtl p v b
  | 0x014 => withIrq p (wr (pg p 0x014) (v &&& w32 (irqCauses p))) b
  | 0x018 => irqClear p v b
  | 0x020 => b |> onlyIf (bitAt v 1) (snapRelease ag p) |> onlyIf (bitAt v 0) (snapTake ag p)
  | 0x028 => if bitAt v 0 then closeLock p b else openLock ag p b
  | _ => b
/-- The part of a pair that a register address is: its start where it is one half of a writable pair. -/
def rwPair (a : Nat) : Option Nat :=
  match groupOf a with
  | some g => if (rowOf a).any (fun r => r.acc == .rw) then some g.1 else none
  | none => none
/-- A write of a lower half: staged for its agent (R48). -/
def stageLo (ag : Agent) (a : Nat) (v : Word) (b : Block) : Block :=
  modAgent ag (fun s => { s with stagedLo := mins s.stagedLo a v }) b
/-- A write of an upper half: both halves move in one step (R48). A ring base waits for its ring to be empty (R177). -/
def commitHi (ag : Agent) (lo : Nat) (v : Word) (b : Block) : Block :=
  let p := lo / 0x1000
  let st := (b.agent ag).stagedLo.find? fun e => e.1 == lo
  let w := (st.map (·.2)).getD 0 &&& w32 (((rowOf lo).map (·.mask)).getD 0)
  let b := b |> onlyIf st.isNone (err p 0x04)
    |> modAgent ag fun s => { s with stagedLo := s.stagedLo.filter fun e => e.1 != lo }
  if 0x04 ≤ p && p ≤ 0x07 && ringBusy b (p - 4) then err p 0x22 b
  else b |> wr lo w |> wr (lo + 4) (v &&& w32 (((rowOf (lo + 4)).map (·.mask)).getD 0))
/-- What an admitted write does. -/
def writeDo (ag : Agent) (a : Nat) (v : Word) (b : Block) : Block :=
  if 0x100000 ≤ a then tableWrite a v b
  else
    let p := a / 0x1000
    let o := a % 0x1000
    if o < 0x040 then writeHeader ag p o v b
    else match rwPair a with
    | some lo => if a = lo then stageLo ag a v b else commitHi ag lo v b
    | none => match rowOf a with
      | some r => if r.acc == .w1c then wr a (b.r a &&& ~~~v) b else writePage ag p a (v &&& w32 r.mask) b
      | none => b
/-- A write of one aligned word by an agent that reaches the part. -/
def busWrite (ag : Agent) (a : Nat) (v : Word) (b : Block) : Block :=
  match writeCode ag a v b with
  | none => b
  | some 0 => writeDo ag a v b
  | some 0x07 => onlyIf (ag == .host) (unmapped 0 a) b
  | some code => match tablePage a with
    | some p => err p code b
    | none => b
/-- An agent's access to an address: it reaches the part, and the page is powered. -/
def reaches (ag : Agent) (a : Nat) (b : Block) : Bool :=
  match tablePage a with
  | some p => b.reach ag p
  | none => b.agentUp ag

end Sys2Proof.Machine
end

