-- ==== Sys2Proof/Machine/Access.lean ====
section
/-! DEFINITION. Commands of the two agents: register accesses (R38–R53), MSI-X (R57), the side-band port (R59–R62). -/

namespace Sys2Proof.Machine
open Sys2Proof

/-! Register accesses (R39–R52). -/

/-- A word written where the agent reaches it. -/
def accessWord (ag : Agent) (a : Nat) (v : Word) (b : Block) : Block := onlyIf (reaches ag a b) (busWrite ag a v) b
/-- A write narrower than a word, or unaligned, is dropped (R39). -/
def dropWrite (ag : Agent) (a : Nat) (b : Block) : Block :=
  match tablePage a with
  | some p => onlyIf (reaches ag a b) (err p 0x03) b
  | none => onlyIf (ag == .host && b.hostUp) (unmapped 0 a) b
/-- R39: a 64-bit write is two words, the lower address first. -/
def regAccess (ag : Agent) (a : Nat) (size : AccSize) (v : DWord) (b : Block) : Block :=
  match size with
  | .narrow _ => dropWrite ag a b
  | .word => if a % 4 != 0 then dropWrite ag a b else accessWord ag a (v.setWidth 32) b
  | .double =>
    if a % 4 != 0 then dropWrite ag a b
    else b |> accessWord ag a (v.setWidth 32) |> accessWord ag (a + 4) ((v >>> 32).setWidth 32)
/-- R39. -/
def execRegWrite (ag : Agent) (addr : BitVec 24) (size : AccSize) (v : DWord) (s : State) : Out :=
  s.run (regAccess ag addr.toNat size v)
/-- R48. -/
def execWriteLoStage (ag : Agent) (addr : BitVec 24) (v : Word) (s : State) : Out :=
  s.run (accessWord ag (addr.toNat / 4 * 4) v)
/-- R48. -/
def execWriteHiCommit (ag : Agent) (addr : BitVec 24) (v : Word) (s : State) : Out :=
  s.run (accessWord ag (addr.toNat / 4 * 4) v)
/-- A word read where the agent reaches it. -/
def accessRead (ag : Agent) (a : Nat) (b : Block) : Block := onlyIf (reaches ag a b) (busRead ag a) b
/-- R39: a read of a width, over a read of one aligned word: a 64-bit read is two, the lower address first; a narrow one
returns the selected bytes of its word, with the side effects of the full read. -/
def readSized (ag : Agent) (size : AccSize) (a : Nat) (word : Nat → Block → Block) (b : Block) : Block :=
  let a4 := a / 4 * 4
  match size with
  | .word => word a4 b
  | .double =>
    let c := word a4 b
    let d := word (a4 + 4) c
    modAgent ag (fun g => { g with compl := (c.agent ag).compl, complHi := (d.agent ag).compl }) d
  | .narrow n =>
    let c := word a4 b
    let k := min n.val (4 - a % 4)
    answer ag (w32 ((c.agent ag).compl.toNat / 2 ^ (8 * (a % 4)) % 2 ^ (8 * k))) c
/-- LPDDR5X address of a BAR2 offset beyond the Granary (R35, R42, R64): each window stands at its base. -/
def bar2Ddr (b : Block) (x : Nat) : Nat :=
  if x < 0x3800000 then 0x40000000 + b.f (pg 0x80 0x040) 9 0 * 2 ^ 23 + (x - 0x3000000)
  else 0x240000000 + b.f (pg 0x80 0x044) 8 0 * 2 ^ 23 + (x - 0x3800000)
/-- The word of a BAR2 offset that the memory gives (R42, R261). -/
def bar2Word (b : Block) (x : Nat) : Word :=
  if x < 0x3000000 then w32 (leAt (readBytes b.granMem x 4) 0 4) else w32 (leAt (readBytes b.ddr (bar2Ddr b x) 4) 0 4)
/-- A word read through BAR2 by the host (R42, R43, R261, R262): the window base in force is the one at the read. A word of
the Granary with an uncorrectable error reads 0xFFFF_FFFF; one of the LPDDR5X reads a free value. -/
def bar2Read (ue : Bool) (x : Nat) (b : Block) : Block :=
  if !ue then answer .host (bar2Word b x) b
  else if x < 0x3000000 then b |> answer .host 0xFFFFFFFF#32 |> granReadUe x
  else b |> answer .host (w32 (Config.freeNat b.freeCtr)) |> usedFree |> ddrUe (bar2Ddr b x)
/-- One read by an agent: BAR0 by both, BAR2 by the host alone (R39, R42, R47). -/
def readAt (ag : Agent) (rd : ReadAt) (b : Block) : Block :=
  match rd with
  | .bar0 a size => readSized ag size a.toNat (accessRead ag) b
  | .bar2 x size ue =>
    onlyIf (ag == .host && b.hostUp)
      (readSized .host size x.toNat fun y => bar2Read (ue.getLsbD (if y = x.toNat / 4 * 4 then 0 else 1)) y) b
/-- R39, R42, R47. -/
def execReadLo (ag : Agent) (rd : ReadAt) (s : State) : Out := s.run (readAt ag rd)
/-- R11. -/
def execClearOnRead (ag : Agent) (addr : BitVec 24) (s : State) : Out := s.run (accessRead ag (addr.toNat / 4 * 4))
/-- R46. -/
def execPgErrRead (ag : Agent) (page : BitVec 8) (s : State) : Out := s.run (accessRead ag (pg page.toNat 0x01C))
/-- R42. -/
def execBar2Write (ofs : BitVec 26) (_ : Word) (s : State) : Out :=
  s.run fun b => onlyIf b.hostUp (unmapped 2 (ofs.toNat / 4 * 4)) b
/-- R49: a write with both bits at 1 performs RELEASE, then TAKE. -/
def execPgSnapTake (ag : Agent) (page : BitVec 8) (release : Bool) (s : State) : Out :=
  s.run (accessWord ag (pg page.toNat 0x020) (if release then 3 else 1))
/-- R49. -/
def execPgSnapRelease (ag : Agent) (page : BitVec 8) (s : State) : Out :=
  s.run (accessWord ag (pg page.toNat 0x020) 2)
/-- R45: PG_CTL written with FREEZE = 1, its other bits as they stand. -/
def execFreezeSet (ag : Agent) (page : BitVec 8) (s : State) : Out :=
  s.run fun b => accessWord ag (pg page.toNat 0x008) (w32 (4 + b01 (b.enabled page.toNat))) b
/-- R45: PG_CTL written with FREEZE = 0, its other bits as they stand. -/
def execFreezeRelease (ag : Agent) (page : BitVec 8) (s : State) : Out :=
  s.run fun b => accessWord ag (pg page.toNat 0x008) (w32 (b01 (b.enabled page.toNat))) b
/-- R51. -/
def execLockClose (ag : Agent) (page : BitVec 8) (s : State) : Out := s.run (accessWord ag (pg page.toNat 0x028) 1)
/-- R51. -/
def execLockOpen (ag : Agent) (page : BitVec 8) (s : State) : Out := s.run (accessWord ag (pg page.toNat 0x028) 0)
/-- R57. -/
def execIrqClear (ag : Agent) (page : BitVec 8) (v : Word) (s : State) : Out :=
  s.run (accessWord ag (pg page.toNat 0x018) v)
/-- R57: a vector unmasked sends what its pending bit holds, if its group is still pending. -/
def unmask (vec : Nat) (b : Block) : Block :=
  let bit : BitVec 64 := 1#64 <<< vec
  let due := b.msixPend.getLsbD vec
  { b with msixMask := b.msixMask &&& ~~~bit, msixPend := b.msixPend &&& ~~~bit }
    |> onlyIf (due && grpPending b vec) (msixSend vec)
/-- R57. -/
def execMsixUnmask (vec : Fin 64) (s : State) : Out := s.run fun b => onlyIf b.hostUp (unmask vec.val) b

/-! The side-band port (R59–R62). -/

/-- The bytes of a header behind its operation code (R59). -/
def sbHeadBytes (op : Nat) (h : SbHeader) : List Byte :=
  [BitVec.ofNat 8 op, h.page] ++ beBytes 3 h.ofs.toNat ++ beBytes 2 h.len.toNat ++ [h.tag]
/-- The CRC trailer agrees (R59). -/
def sbGood (op : Nat) (h : SbHeader) (data : List Byte) (crc : Half) : Bool :=
  crc16 (sbHeadBytes op h ++ data) == crc.toNat
/-- Changes the port. -/
def modSb (f : SideBand → SideBand) (b : Block) : Block := { b with sb := f b.sb }
/-- An unfetched response is discarded (R61). -/
def sbDiscard (b : Block) : Block :=
  if b.sb.resp.isSome then b |> cnt32 (pg 0x81 0x04C) |> modSb (fun s => { s with resp := none }) else b
/-- The port holds a response that becomes ready us microseconds later (R60). -/
def sbHold (us status : Nat) (tag : Byte) (data : List Byte) (b : Block) : Block :=
  modSb (fun s => { s with resp := some { status := status, tag := tag, data := data, readyAt := b.mono + gtNs (us * 1000) } }) b
/-- A command that answers 2 µs later with a status alone. -/
def sbStatus (h : SbHeader) (status : Nat) : Block → Block := sbHold 2 status h.tag []
/-- A command frame arrives: counted by its CRC; what is held unfetched goes; a good one is carried out (R61, R65). -/
def sbCommand (good : Bool) (h : SbHeader) (f : Block → Block) (b : Block) : Block :=
  if !b.aon then b
  else if good then b |> cnt (pg 0x81 0x050) |> sbDiscard |> f
  else b |> cnt32 (pg 0x81 0x048) |> sbDiscard |> sbStatus h 0x02
/-- BAR0 address of the first byte (R59). -/
def sbBase (h : SbHeader) : Nat := if h.page = 0xFF then 0x100000 + h.ofs.toNat else h.page.toNat * 0x1000 + h.ofs.toNat
/-- The words a READ or WRITE reaches. -/
def sbWords (h : SbHeader) : List Nat := (List.range (h.len.toNat / 4)).map fun i => sbBase h + 4 * i
/-- The status that LENGTH and the address give before anything is read or written (R61, R62); 0 where they are good. -/
def sbCheck (h : SbHeader) (b : Block) : Nat :=
  let n := h.len.toNat
  let keepOff := b.dev.st == .keep && (sbWords h).any fun a => !(match tablePage a with
    | some p => keepPages.contains p
    | none => false)
  if n < 4 || 4096 < n || n % 4 != 0 then 0x07
  else if keepOff then 0x0A
  else if h.ofs.toNat % 4 != 0 || (h.page != 0xFF && 0x1000 < h.ofs.toNat + n) then 0x04
  else if (sbWords h).any fun a => (tablePage a).isNone then 0x04
  else 0
/-- READ: the words in order, with the side effects of reads; DATA is the bytes in address order (R46, R47, R61). -/
def sbReadDo (h : SbHeader) (b : Block) : Block :=
  if sbCheck h b != 0 then sbHold 20 (sbCheck h b) h.tag [] b
  else
    let r := (sbWords h).foldl (fun (x : List Byte × Block) a =>
      let c := busRead .side a x.2
      (x.1 ++ leBytes 4 c.side.compl.toNat, c)) ([], b)
    sbHold 20 0 h.tag r.1 r.2
/-- R61. -/
def execSbRead (h : SbHeader) (crc : Half) (s : State) : Out := s.run (sbCommand (sbGood 0x01 h [] crc) h (sbReadDo h))
/-- The status of a word's refusal (R53, R61). -/
def sbRefusal (code : Option Nat) : Nat := match code with
  | some 0x01 => 0x06
  | some 0x02 => 0x05
  | _ => 0
/-- WRITE: the words in order; the status is the first refusal's (R53). -/
def sbWriteDo (h : SbHeader) (data : List Byte) (b : Block) : Block :=
  if sbCheck h b != 0 then sbStatus h (sbCheck h b) b
  else
    let r := (List.range (h.len.toNat / 4)).foldl (fun (x : Nat × Block) i =>
      let a := sbBase h + 4 * i
      let v := w32 (leAt data (4 * i) 4)
      let st := sbRefusal (writeCode .side a v x.2)
      (if x.1 = 0 then st else x.1, busWrite .side a v x.2)) (0, b)
    sbStatus h r.1 r.2
/-- R53. A frame whose data are not LENGTH bytes has no good CRC where the CRC is due. -/
def execSbWrite (h : SbHeader) (data : List Byte) (crc : Half) (s : State) : Out :=
  s.run (sbCommand (data.length == h.len.toNat && sbGood 0x02 h data crc) h (sbWriteDo h data))
/-- What the port drives: STATUS, TAG, LENGTH, the data, a CRC (R60). -/
def sbDrive (status : Nat) (tag : Byte) (data : List Byte) (b : Block) : Block :=
  let l := [BitVec.ofNat 8 status, tag] ++ beBytes 2 data.length ++ data
  modSb (fun s => { s with lastOut := l ++ beBytes 2 (crc16 l) }) b
/-- FETCH (R60, R61). With STATUS 0x08 the answer carries the FETCH's own TAG, with 0x01 that of the command whose response
is not ready (DESIGN CHOICE, log entry 191). -/
def sbFetchDo (h : SbHeader) (b : Block) : Block :=
  match b.sb.resp with
  | none => sbDrive 0x08 h.tag [] b
  | some r =>
    if !r.ready then sbDrive 0x01 r.tag [] b
    else b |> sbDrive r.status r.tag r.data |> modSb (fun s => { s with resp := none })
/-- R60. -/
def execSbFetch (h : SbHeader) (crc : Half) (s : State) : Out :=
  s.run fun b =>
    if !b.aon then b
    else if sbGood 0x03 h [] crc then b |> cnt (pg 0x81 0x050) |> sbFetchDo h
    else b |> cnt32 (pg 0x81 0x048) |> sbDiscard |> sbStatus h 0x02
/-- A guarded request acts when its response becomes ready (R61). -/
def sbAsk (guard : Nat) (q : SbRequest) (h : SbHeader) (b : Block) : Block :=
  if h.ofs.toNat != guard then sbStatus h 0x09 b
  else b |> sbStatus h 0 |> modSb (fun s => { s with due := s.due ++ [(b.mono + gtNs 2000, q)] })
/-- R61. -/
def execSbForceKeep (h : SbHeader) (crc : Half) (s : State) : Out :=
  s.run (sbCommand (sbGood 0x04 h [] crc) h (sbAsk 0x4B4550 .keep h))
/-- R61. -/
def execSbWarmReset (h : SbHeader) (crc : Half) (s : State) : Out :=
  s.run (sbCommand (sbGood 0x05 h [] crc) h (sbAsk 0x575253 .warm h))
/-- MBOX_POP (R62, R197). -/
def sbPop (h : SbHeader) (b : Block) : Block :=
  if b.dev.st == .keep then sbStatus h 0x0A b
  else if b.inReset 0x13 then b |> err 0x13 0x08 |> sbStatus h 0
  else match siloTake 63 b with
    | (some e, c) => sbHold 2 0 h.tag e c
    | (none, c) => sbStatus h 0 c
/-- R197. -/
def execSbMboxPop (h : SbHeader) (crc : Half) (s : State) : Out := s.run (sbCommand (sbGood 0x06 h [] crc) h (sbPop h))
/-- R61. -/
def execSbUnknownOp (op : Byte) (h : SbHeader) (crc : Half) (s : State) : Out :=
  s.run (sbCommand (sbGood op.toNat h [] crc) h (sbStatus h 0x03))
/-- R61. -/
def execSbCutTransaction (s : State) : Out := s.run fun b => onlyIf b.aon (cnt32 (pg 0x81 0x04C)) b
/-- What a request does (R61). -/
def sbAct (q : SbRequest) : Block → Block := match q with
  | .keep => stateReq .keep 1
  | .warm => warmStart 4
/-- The held response becomes ready at its time; a request whose response is ready acts (R60, R61). -/
def sbReady (b : Block) : Block :=
  let t := b.mono
  let acts := b.sb.due.filter fun e => decide (e.1 ≤ t)
  b |> modSb (fun s => { s with
      resp := s.resp.map fun r => { r with ready := r.ready || decide (r.readyAt ≤ t) },
      due := s.due.filter fun e => !decide (e.1 ≤ t) })
    |> forEach acts fun e => sbAct e.2
/-- R60. -/
def execSbResponseReady (s : State) : Out := s.run fun b => onlyIf b.aon sbReady b

end Sys2Proof.Machine
end

