-- ==== Sys2Proof/Machine/Dispatch.lean ====
section
/-! DEFINITION. One arm for each command: a direct call of its meaning. -/

namespace Sys2Proof.Machine
open Sys2Proof

def exec (i : Instr) (s : State) : Host.Outcome State Fault Refusal :=
  match i with
  | .modeRequest ag v => Sys2Proof.Machine.execModeRequest ag v s
  | .modeChange => Sys2Proof.Machine.execModeChange s
  | .sliceOverrun unit => Sys2Proof.Machine.execSliceOverrun unit s
  | .regWrite ag addr size v => Sys2Proof.Machine.execRegWrite ag addr size v s
  | .writeLoStage ag addr v => Sys2Proof.Machine.execWriteLoStage ag addr v s
  | .writeHiCommit ag addr v => Sys2Proof.Machine.execWriteHiCommit ag addr v s
  | .readLo ag rd => Sys2Proof.Machine.execReadLo ag rd s
  | .clearOnRead ag addr => Sys2Proof.Machine.execClearOnRead ag addr s
  | .pgErrRead ag page => Sys2Proof.Machine.execPgErrRead ag page s
  | .bar2Write ofs v => Sys2Proof.Machine.execBar2Write ofs v s
  | .pgSnapTake ag page release => Sys2Proof.Machine.execPgSnapTake ag page release s
  | .pgSnapRelease ag page => Sys2Proof.Machine.execPgSnapRelease ag page s
  | .freezeSet ag page => Sys2Proof.Machine.execFreezeSet ag page s
  | .freezeRelease ag page => Sys2Proof.Machine.execFreezeRelease ag page s
  | .lockClose ag page => Sys2Proof.Machine.execLockClose ag page s
  | .lockOpen ag page => Sys2Proof.Machine.execLockOpen ag page s
  | .irqClear ag page v => Sys2Proof.Machine.execIrqClear ag page v s
  | .msixUnmask vec => Sys2Proof.Machine.execMsixUnmask vec s
  | .blockReset src => Sys2Proof.Machine.execBlockReset src s
  | .blockResetEnd page up => Sys2Proof.Machine.execBlockResetEnd page up s
  | .sbRead h crc => Sys2Proof.Machine.execSbRead h crc s
  | .sbWrite h data crc => Sys2Proof.Machine.execSbWrite h data crc s
  | .sbFetch h crc => Sys2Proof.Machine.execSbFetch h crc s
  | .sbForceKeep h crc => Sys2Proof.Machine.execSbForceKeep h crc s
  | .sbWarmReset h crc => Sys2Proof.Machine.execSbWarmReset h crc s
  | .sbMboxPop h crc => Sys2Proof.Machine.execSbMboxPop h crc s
  | .sbUnknownOp op h crc => Sys2Proof.Machine.execSbUnknownOp op h crc s
  | .sbCutTransaction => Sys2Proof.Machine.execSbCutTransaction s
  | .sbResponseReady => Sys2Proof.Machine.execSbResponseReady s
  | .hostWdogKick v => Sys2Proof.Machine.execHostWdogKick v s
  | .hostWdogExpire => Sys2Proof.Machine.execHostWdogExpire s
  | .pcieLinkSilent => Sys2Proof.Machine.execPcieLinkSilent s
  | .coldReset src => Sys2Proof.Machine.execColdReset src s
  | .coldResetEnd rstN up => Sys2Proof.Machine.execColdResetEnd rstN up s
  | .warmReset lowNs => Sys2Proof.Machine.execWarmReset lowNs s
  | .warmResetEnd rstN up => Sys2Proof.Machine.execWarmResetEnd rstN up s
  | .watchdogExpire => Sys2Proof.Machine.execWatchdogExpire s
  | .linkReset src => Sys2Proof.Machine.execLinkReset src s
  | .linkResetEnd => Sys2Proof.Machine.execLinkResetEnd s
  | .strapChange levels => Sys2Proof.Machine.execStrapChange levels s
  | .pufRegenerate reads bad => Sys2Proof.Machine.execPufRegenerate reads bad s
  | .imageVerify badA badB => Sys2Proof.Machine.execImageVerify badA badB s
  | .settingsRestore bad vout => Sys2Proof.Machine.execSettingsRestore bad vout s
  | .startComplete trained serdes => Sys2Proof.Machine.execStartComplete trained serdes s
  | .supplyWarning supply mv => Sys2Proof.Machine.execSupplyWarning supply mv s
  | .braceExit lows => Sys2Proof.Machine.execBraceExit lows s
  | .supplyResetLevel supply mv => Sys2Proof.Machine.execSupplyResetLevel supply mv s
  | .avsEvaluate speed => Sys2Proof.Machine.execAvsEvaluate speed s
  | .avsReadVout reply => Sys2Proof.Machine.execAvsReadVout reply s
  | .avsSettleTimeout why => Sys2Proof.Machine.execAvsSettleTimeout why s
  | .avsRetry vout => Sys2Proof.Machine.execAvsRetry vout s
  | .avsAlert status clear => Sys2Proof.Machine.execAvsAlert status clear s
  | .xoLoss => Sys2Proof.Machine.execXoLoss s
  | .xoResume => Sys2Proof.Machine.execXoResume s
  | .timeOffsetReading src ofs => Sys2Proof.Machine.execTimeOffsetReading src ofs s
  | .sourceLossTimeout src => Sys2Proof.Machine.execSourceLossTimeout src s
  | .stepThresholdTimeout src => Sys2Proof.Machine.execStepThresholdTimeout src s
  | .timeStep => Sys2Proof.Machine.execTimeStep s
  | .timeSetBySource sec => Sys2Proof.Machine.execTimeSetBySource sec s
  | .slewEnd => Sys2Proof.Machine.execSlewEnd s
  | .timeSetCmd ag v => Sys2Proof.Machine.execTimeSetCmd ag v s
  | .ptpMessageRx => Sys2Proof.Machine.execPtpMessageRx s
  | .ptpIntervalTx port kind => Sys2Proof.Machine.execPtpIntervalTx port kind s
  | .pdelayReqRx => Sys2Proof.Machine.execPdelayReqRx s
  | .ppsInEdge tenths => Sys2Proof.Machine.execPpsInEdge tenths s
  | .todMessageRx bytes => Sys2Proof.Machine.execTodMessageRx bytes s
  | .todTimeout => Sys2Proof.Machine.execTodTimeout s
  | .irigFrameRx frame => Sys2Proof.Machine.execIrigFrameRx frame s
  | .refInMeasure millihertz => Sys2Proof.Machine.execRefInMeasure millihertz s
  | .ppsOutEdge => Sys2Proof.Machine.execPpsOutEdge s
  | .leapApply => Sys2Proof.Machine.execLeapApply s
  | .syncInEdge nv => Sys2Proof.Machine.execSyncInEdge nv s
  | .syncInMissing => Sys2Proof.Machine.execSyncInMissing s
  | .spgSettingApply => Sys2Proof.Machine.execSpgSettingApply s
  | .conversion nv => Sys2Proof.Machine.execConversion nv s
  | .chCtlWrite ag ch v => Sys2Proof.Machine.execChCtlWrite ag ch v s
  | .crossingOverflow ch => Sys2Proof.Machine.execCrossingOverflow ch s
  | .hkScan sums => Sys2Proof.Machine.execHkScan sums s
  | .thermalResume => Sys2Proof.Machine.execThermalResume s
  | .wSwapCmd ag v => Sys2Proof.Machine.execWSwapCmd ag v s
  | .rsSwapCmd ag v => Sys2Proof.Machine.execRsSwapCmd ag v s
  | .coeffSwap => Sys2Proof.Machine.execCoeffSwap s
  | .resamplerOutput => Sys2Proof.Machine.execResamplerOutput s
  | .resamplerOverrun => Sys2Proof.Machine.execResamplerOverrun s
  | .estimatorSlice => Sys2Proof.Machine.execEstimatorSlice s
  | .peChCommit ag v => Sys2Proof.Machine.execPeChCommit ag v s
  | .linkChange port blockLock hiBer localFault remoteFault => Sys2Proof.Machine.execLinkChange port blockLock hiBer localFault remoteFault s
  | .portEnableChange ag port en => Sys2Proof.Machine.execPortEnableChange ag port en s
  | .frameReceive port bytes errorBlock ago fecCorr fecUncorr => Sys2Proof.Machine.execFrameReceive port bytes errorBlock ago fecCorr fecUncorr s
  | .pauseEnd port => Sys2Proof.Machine.execPauseEnd port s
  | .pauseTxRepeat port => Sys2Proof.Machine.execPauseTxRepeat port s
  | .ingressDequeue port => Sys2Proof.Machine.execIngressDequeue port s
  | .prpEntryForget => Sys2Proof.Machine.execPrpEntryForget s
  | .prpLanTimeout lan => Sys2Proof.Machine.execPrpLanTimeout lan s
  | .prpSupTx => Sys2Proof.Machine.execPrpSupTx s
  | .prpEnChange ag en => Sys2Proof.Machine.execPrpEnChange ag en s
  | .txFrameEnd port => Sys2Proof.Machine.execTxFrameEnd port s
  | .clsEntryCommit ag port entry v => Sys2Proof.Machine.execClsEntryCommit ag port entry v s
  | .lsoProdWrite ag port v => Sys2Proof.Machine.execLsoProdWrite ag port v s
  | .lsoDescriptor src => Sys2Proof.Machine.execLsoDescriptor src s
  | .lsoDescriptorDone port host => Sys2Proof.Machine.execLsoDescriptorDone port host s
  | .siloPush silo item => Sys2Proof.Machine.execSiloPush silo item s
  | .siloPopHost silo => Sys2Proof.Machine.execSiloPopHost silo s
  | .siloPushHost silo v => Sys2Proof.Machine.execSiloPushHost silo v s
  | .siloEnable ag silo v => Sys2Proof.Machine.execSiloEnable ag silo v s
  | .gleanFrame => Sys2Proof.Machine.execGleanFrame s
  | .gleanLocalEntry => Sys2Proof.Machine.execGleanLocalEntry s
  | .streamEntryCommit ag slot v => Sys2Proof.Machine.execStreamEntryCommit ag slot v s
  | .calIdxLoad ag v => Sys2Proof.Machine.execCalIdxLoad ag v s
  | .calCommit ag v => Sys2Proof.Machine.execCalCommit ag v s
  | .svSourceWrite ag src w v => Sys2Proof.Machine.execSvSourceWrite ag src w v s
  | .baleOpen => Sys2Proof.Machine.execBaleOpen s
  | .baleCompleteClose => Sys2Proof.Machine.execBaleCompleteClose s
  | .deadlineClose => Sys2Proof.Machine.execDeadlineClose s
  | .amendmentExport bad => Sys2Proof.Machine.execAmendmentExport bad s
  | .exportBale bad => Sys2Proof.Machine.execExportBale bad s
  | .rateEnable ag rate v => Sys2Proof.Machine.execRateEnable ag rate v s
  | .rateDisable ag rate v => Sys2Proof.Machine.execRateDisable ag rate v s
  | .rangeCommit ag v => Sys2Proof.Machine.execRangeCommit ag v s
  | .replayCmd ag v => Sys2Proof.Machine.execReplayCmd ag v s
  | .replaySlice => Sys2Proof.Machine.execReplaySlice s
  | .replayDone => Sys2Proof.Machine.execReplayDone s
  | .oscSlice bad => Sys2Proof.Machine.execOscSlice bad s
  | .oscSignalCommit ag sig v => Sys2Proof.Machine.execOscSignalCommit ag sig v s
  | .oscTrackerCommit ag trk v => Sys2Proof.Machine.execOscTrackerCommit ag trk v s
  | .islSlice bad => Sys2Proof.Machine.execIslSlice bad s
  | .islGroupCommit ag grp v => Sys2Proof.Machine.execIslGroupCommit ag grp v s
  | .islCtlWrite ag v => Sys2Proof.Machine.execIslCtlWrite ag v s
  | .composerEvaluate bad => Sys2Proof.Machine.execComposerEvaluate bad s
  | .composerDecision => Sys2Proof.Machine.execComposerDecision s
  | .minPwExpire ball => Sys2Proof.Machine.execMinPwExpire ball s
  | .almAck ag v => Sys2Proof.Machine.execAlmAck ag v s
  | .almTestWrite ag v => Sys2Proof.Machine.execAlmTestWrite ag v s
  | .gooseRetransmit dataset => Sys2Proof.Machine.execGooseRetransmit dataset s
  | .almSourceCommit ag src v => Sys2Proof.Machine.execAlmSourceCommit ag src v s
  | .almBallCommit ag ball v => Sys2Proof.Machine.execAlmBallCommit ag ball v s
  | .gooseDatasetCommit ag dataset v => Sys2Proof.Machine.execGooseDatasetCommit ag dataset v s
  | .coCompute => Sys2Proof.Machine.execCoCompute s
  | .coPublish => Sys2Proof.Machine.execCoPublish s
  | .coEntryCommit ag out v => Sys2Proof.Machine.execCoEntryCommit ag out v s
  | .gapHoldExpire => Sys2Proof.Machine.execGapHoldExpire s
  | .captureSample defn drained => Sys2Proof.Machine.execCaptureSample defn drained s
  | .captureTrigger => Sys2Proof.Machine.execCaptureTrigger s
  | .trigOutEnd => Sys2Proof.Machine.execTrigOutEnd s
  | .trigInEdge rise widthNs => Sys2Proof.Machine.execTrigInEdge rise widthNs s
  | .capHostTrigger ag v => Sys2Proof.Machine.execCapHostTrigger ag v s
  | .capArm ag v => Sys2Proof.Machine.execCapArm ag v s
  | .capStop ag v => Sys2Proof.Machine.execCapStop ag v s
  | .captureRearm => Sys2Proof.Machine.execCaptureRearm s
  | .captureArm => Sys2Proof.Machine.execCaptureArm s
  | .capAreaTailWrite ag area v => Sys2Proof.Machine.execCapAreaTailWrite ag area v s
  | .capDefCommit ag defn v => Sys2Proof.Machine.execCapDefCommit ag defn v s
  | .stookExport => Sys2Proof.Machine.execStookExport s
  | .thresherEvent => Sys2Proof.Machine.execThresherEvent s
  | .orderRelease => Sys2Proof.Machine.execOrderRelease s
  | .noticeAccept => Sys2Proof.Machine.execNoticeAccept s
  | .itemDispatch => Sys2Proof.Machine.execItemDispatch s
  | .orderedCommit => Sys2Proof.Machine.execOrderedCommit s
  | .itemOvertime eng => Sys2Proof.Machine.execItemOvertime eng s
  | .thrTimer timer => Sys2Proof.Machine.execThrTimer timer s
  | .taskCommit ag task v => Sys2Proof.Machine.execTaskCommit ag task v s
  | .engOutWrite ag eng v => Sys2Proof.Machine.execEngOutWrite ag eng v s
  | .iAdd eng rd ra rb => Sys2Proof.Machine.execIAdd eng rd ra rb s
  | .iSub eng rd ra rb => Sys2Proof.Machine.execISub eng rd ra rb s
  | .iCmp eng ra rb => Sys2Proof.Machine.execICmp eng ra rb s
  | .iAnd eng rd ra rb => Sys2Proof.Machine.execIAnd eng rd ra rb s
  | .iOr eng rd ra rb => Sys2Proof.Machine.execIOr eng rd ra rb s
  | .iXor eng rd ra rb => Sys2Proof.Machine.execIXor eng rd ra rb s
  | .iSll eng rd ra rb => Sys2Proof.Machine.execISll eng rd ra rb s
  | .iSrl eng rd ra rb => Sys2Proof.Machine.execISrl eng rd ra rb s
  | .iSra eng rd ra rb => Sys2Proof.Machine.execISra eng rd ra rb s
  | .iMul eng rd ra rb => Sys2Proof.Machine.execIMul eng rd ra rb s
  | .iMulh eng rd ra rb => Sys2Proof.Machine.execIMulh eng rd ra rb s
  | .iMulhu eng rd ra rb => Sys2Proof.Machine.execIMulhu eng rd ra rb s
  | .iDiv eng rd ra rb => Sys2Proof.Machine.execIDiv eng rd ra rb s
  | .iDivu eng rd ra rb => Sys2Proof.Machine.execIDivu eng rd ra rb s
  | .iRem eng rd ra rb => Sys2Proof.Machine.execIRem eng rd ra rb s
  | .iRemu eng rd ra rb => Sys2Proof.Machine.execIRemu eng rd ra rb s
  | .iAddi eng rd ra imm => Sys2Proof.Machine.execIAddi eng rd ra imm s
  | .iCmpi eng ra imm => Sys2Proof.Machine.execICmpi eng ra imm s
  | .iAndi eng rd ra imm => Sys2Proof.Machine.execIAndi eng rd ra imm s
  | .iOri eng rd ra imm => Sys2Proof.Machine.execIOri eng rd ra imm s
  | .iXori eng rd ra imm => Sys2Proof.Machine.execIXori eng rd ra imm s
  | .iSlli eng rd ra sh => Sys2Proof.Machine.execISlli eng rd ra sh s
  | .iSrli eng rd ra sh => Sys2Proof.Machine.execISrli eng rd ra sh s
  | .iSrai eng rd ra sh => Sys2Proof.Machine.execISrai eng rd ra sh s
  | .iSetw eng rd imm => Sys2Proof.Machine.execISetw eng rd imm s
  | .iShin eng rd imm => Sys2Proof.Machine.execIShin eng rd imm s
  | .iSetu eng rd imm => Sys2Proof.Machine.execISetu eng rd imm s
  | .iBr eng cond off => Sys2Proof.Machine.execIBr eng cond off s
  | .iCall eng cond off => Sys2Proof.Machine.execICall eng cond off s
  | .iLd eng rd ra imm ue => Sys2Proof.Machine.execILd eng rd ra imm ue s
  | .iLw eng rd ra imm ue => Sys2Proof.Machine.execILw eng rd ra imm ue s
  | .iLwu eng rd ra imm ue => Sys2Proof.Machine.execILwu eng rd ra imm ue s
  | .iLh eng rd ra imm ue => Sys2Proof.Machine.execILh eng rd ra imm ue s
  | .iLhu eng rd ra imm ue => Sys2Proof.Machine.execILhu eng rd ra imm ue s
  | .iLb eng rd ra imm ue => Sys2Proof.Machine.execILb eng rd ra imm ue s
  | .iLbu eng rd ra imm ue => Sys2Proof.Machine.execILbu eng rd ra imm ue s
  | .iSt eng rs ra imm => Sys2Proof.Machine.execISt eng rs ra imm s
  | .iSw eng rs ra imm => Sys2Proof.Machine.execISw eng rs ra imm s
  | .iSh eng rs ra imm => Sys2Proof.Machine.execISh eng rs ra imm s
  | .iSb eng rs ra imm => Sys2Proof.Machine.execISb eng rs ra imm s
  | .iCadd eng cd ca cb => Sys2Proof.Machine.execICadd eng cd ca cb s
  | .iCsub eng cd ca cb => Sys2Proof.Machine.execICsub eng cd ca cb s
  | .iCmul eng cd ca cb sh => Sys2Proof.Machine.execICmul eng cd ca cb sh s
  | .iCmulc eng cd ca cb sh => Sys2Proof.Machine.execICmulc eng cd ca cb sh s
  | .iCmac eng cd ca cb sh => Sys2Proof.Machine.execICmac eng cd ca cb sh s
  | .iCmacc eng cd ca cb sh => Sys2Proof.Machine.execICmacc eng cd ca cb sh s
  | .iCmag eng cd ca => Sys2Proof.Machine.execICmag eng cd ca s
  | .iCang eng cd ca => Sys2Proof.Machine.execICang eng cd ca s
  | .iCrot eng cd ca cb => Sys2Proof.Machine.execICrot eng cd ca cb s
  | .iCsum eng cd ca => Sys2Proof.Machine.execICsum eng cd ca s
  | .iCld eng cd wa imm ue => Sys2Proof.Machine.execICld eng cd wa imm ue s
  | .iCst eng cd wa imm => Sys2Proof.Machine.execICst eng cd wa imm s
  | .iCget eng w c k => Sys2Proof.Machine.execICget eng w c k s
  | .iCput eng w c k => Sys2Proof.Machine.execICput eng w c k s
  | .iCspl eng w c => Sys2Proof.Machine.execICspl eng w c s
  | .iGldc eng cd wa imm ue => Sys2Proof.Machine.execIGldc eng cd wa imm ue s
  | .iNop eng => Sys2Proof.Machine.execINop eng s
  | .iDone eng logUe => Sys2Proof.Machine.execIDone eng logUe s
  | .iJr eng ra => Sys2Proof.Machine.execIJr eng ra s
  | .iTime eng rd rb => Sys2Proof.Machine.execITime eng rd rb s
  | .iBudl eng rd => Sys2Proof.Machine.execIBudl eng rd s
  | .iSpush eng rd ra rb ue => Sys2Proof.Machine.execISpush eng rd ra rb ue s
  | .iSpop eng rd ra rb => Sys2Proof.Machine.execISpop eng rd ra rb s
  | .iRaise eng ra => Sys2Proof.Machine.execIRaise eng ra s
  | .iAset eng ra rb => Sys2Proof.Machine.execIAset eng ra rb s
  | .iErec eng rd ra rb => Sys2Proof.Machine.execIErec eng rd ra rb s
  | .iLsend eng ra ue => Sys2Proof.Machine.execILsend eng ra ue s
  | .iGld eng rd ra imm ue => Sys2Proof.Machine.execIGld eng rd ra imm ue s
  | .iGlw eng rd ra imm ue => Sys2Proof.Machine.execIGlw eng rd ra imm ue s
  | .iGlwu eng rd ra imm ue => Sys2Proof.Machine.execIGlwu eng rd ra imm ue s
  | .iGlh eng rd ra imm ue => Sys2Proof.Machine.execIGlh eng rd ra imm ue s
  | .iGbale eng rd ra => Sys2Proof.Machine.execIGbale eng rd ra s
  | .iGcpy eng rd ra rb ue => Sys2Proof.Machine.execIGcpy eng rd ra rb ue s
  | .iHld eng rd ra imm => Sys2Proof.Machine.execIHld eng rd ra imm s
  | .iHst eng rs ra imm => Sys2Proof.Machine.execIHst eng rs ra imm s
  | .iHrd eng rd ra rb => Sys2Proof.Machine.execIHrd eng rd ra rb s
  | .iHwr eng rd ra rb ue => Sys2Proof.Machine.execIHwr eng rd ra rb ue s
  | .helloTx => Sys2Proof.Machine.execHelloTx s
  | .plHelloRx hd h => Sys2Proof.Machine.execPlHelloRx hd h s
  | .heartbeatTx lane => Sys2Proof.Machine.execHeartbeatTx lane s
  | .plHeartbeatRx hd h lane ago => Sys2Proof.Machine.execPlHeartbeatRx hd h lane ago s
  | .pairLinkTimeout => Sys2Proof.Machine.execPairLinkTimeout s
  | .ackTx => Sys2Proof.Machine.execAckTx s
  | .plAckRx hd => Sys2Proof.Machine.execPlAckRx hd s
  | .plNakRx hd missing => Sys2Proof.Machine.execPlNakRx hd missing s
  | .plRetxTimeout => Sys2Proof.Machine.execPlRetxTimeout s
  | .plMirrorRx hd record => Sys2Proof.Machine.execPlMirrorRx hd record s
  | .plWmarkRx hd t => Sys2Proof.Machine.execPlWmarkRx hd t s
  | .plCommitRx hd addr t ws => Sys2Proof.Machine.execPlCommitRx hd addr t ws s
  | .plModeRx hd govern t => Sys2Proof.Machine.execPlModeRx hd govern t s
  | .plReplayRx hd rate cause idx => Sys2Proof.Machine.execPlReplayRx hd rate cause idx s
  | .plSettingsRx hd ofs bytes => Sys2Proof.Machine.execPlSettingsRx hd ofs bytes s
  | .plBaleDigRx hd rate flags idx digest => Sys2Proof.Machine.execPlBaleDigRx hd rate flags idx digest s
  | .plCommitDigRx hd task d flags seq t digest => Sys2Proof.Machine.execPlCommitDigRx hd task d flags seq t digest s
  | .plArbRx hd rate verdict idx digest => Sys2Proof.Machine.execPlArbRx hd rate verdict idx digest s
  | .plReleaseRx hd t lastSeq => Sys2Proof.Machine.execPlReleaseRx hd t lastSeq s
  | .plTriggerRx hd defn t => Sys2Proof.Machine.execPlTriggerRx hd defn t s
  | .plHostmsgRx hd bytes => Sys2Proof.Machine.execPlHostmsgRx hd bytes s
  | .plClsMirrorRx hd silo item => Sys2Proof.Machine.execPlClsMirrorRx hd silo item s
  | .plHealthRx hd report => Sys2Proof.Machine.execPlHealthRx hd report s
  | .plUpdStateRx hd state data => Sys2Proof.Machine.execPlUpdStateRx hd state data s
  | .pairMboxSend ag v => Sys2Proof.Machine.execPairMboxSend ag v s
  | .pairReqRelease ag v => Sys2Proof.Machine.execPairReqRelease ag v s
  | .pairReqRejoin ag v => Sys2Proof.Machine.execPairReqRejoin ag v s
  | .rejoinEpoch => Sys2Proof.Machine.execRejoinEpoch s
  | .leaseRenewal readHigh => Sys2Proof.Machine.execLeaseRenewal readHigh s
  | .leasePulseRx widthNs => Sys2Proof.Machine.execLeasePulseRx widthNs s
  | .leaseExpire => Sys2Proof.Machine.execLeaseExpire s
  | .claimDelayExpire => Sys2Proof.Machine.execClaimDelayExpire s
  | .leaseClaim => Sys2Proof.Machine.execLeaseClaim s
  | .claimGuardEnd => Sys2Proof.Machine.execClaimGuardEnd s
  | .claimBackoffExpire => Sys2Proof.Machine.execClaimBackoffExpire s
  | .witnessEdge high => Sys2Proof.Machine.execWitnessEdge high s
  | .witnessFaultTimeout => Sys2Proof.Machine.execWitnessFaultTimeout s
  | .stateReqRun ag guard => Sys2Proof.Machine.execStateReqRun ag guard s
  | .stateReqIdle ag guard => Sys2Proof.Machine.execStateReqIdle ag guard s
  | .stateReqKeep ag guard => Sys2Proof.Machine.execStateReqKeep ag guard s
  | .rstReqWarm ag guard => Sys2Proof.Machine.execRstReqWarm ag guard s
  | .powerRemoved => Sys2Proof.Machine.execPowerRemoved s
  | .settingsCommit ag guard => Sys2Proof.Machine.execSettingsCommit ag guard s
  | .settingsCommitDone => Sys2Proof.Machine.execSettingsCommitDone s
  | .scrubRead place res => Sys2Proof.Machine.execScrubRead place res s
  | .rotationStepStart => Sys2Proof.Machine.execRotationStepStart s
  | .engineTestDone fail => Sys2Proof.Machine.execEngineTestDone fail s
  | .bistReqTest ag v => Sys2Proof.Machine.execBistReqTest ag v s
  | .handshakeTimeout page stage lane => Sys2Proof.Machine.execHandshakeTimeout page stage lane s
  | .laneCheck unit bad => Sys2Proof.Machine.execLaneCheck unit bad s
  | .ageingCheck => Sys2Proof.Machine.execAgeingCheck s
  | .healthReport => Sys2Proof.Machine.execHealthReport s
  | .healthCauseExpire => Sys2Proof.Machine.execHealthCauseExpire s
  | .evrOccurrence => Sys2Proof.Machine.execEvrOccurrence s
  | .evrCommit => Sys2Proof.Machine.execEvrCommit s
  | .evrBucketRefill => Sys2Proof.Machine.execEvrBucketRefill s
  | .evrSecondTick => Sys2Proof.Machine.execEvrSecondTick s
  | .evrRingSearch => Sys2Proof.Machine.execEvrRingSearch s
  | .evrWinRead ag => Sys2Proof.Machine.execEvrWinRead ag s
  | .evrAdv ag v => Sys2Proof.Machine.execEvrAdv ag v s
  | .ksCmdWrite ag guard => Sys2Proof.Machine.execKsCmdWrite ag guard s
  | .ksCmdRevoke ag guard => Sys2Proof.Machine.execKsCmdRevoke ag guard s
  | .ksCmdErase ag guard => Sys2Proof.Machine.execKsCmdErase ag guard s
  | .ownChalRead ag => Sys2Proof.Machine.execOwnChalRead ag s
  | .ownCmdOpen ag guard => Sys2Proof.Machine.execOwnCmdOpen ag guard s
  | .ownCmdClose ag guard => Sys2Proof.Machine.execOwnCmdClose ag guard s
  | .ownCmdReanchor ag guard => Sys2Proof.Machine.execOwnCmdReanchor ag guard s
  | .ownSessionTimeout => Sys2Proof.Machine.execOwnSessionTimeout s
  | .attReqSign ag guard => Sys2Proof.Machine.execAttReqSign ag guard s
  | .attStatementReady => Sys2Proof.Machine.execAttStatementReady s
  | .tamperAssert source => Sys2Proof.Machine.execTamperAssert source s
  | .tamperEraseDone => Sys2Proof.Machine.execTamperEraseDone s
  | .tampClear ag guard live => Sys2Proof.Machine.execTampClear ag guard live s
  | .updLoad ag v => Sys2Proof.Machine.execUpdLoad ag v s
  | .updLoadDone bytes ok => Sys2Proof.Machine.execUpdLoadDone bytes ok s
  | .updAppend ag v => Sys2Proof.Machine.execUpdAppend ag v s
  | .updStage ag v => Sys2Proof.Machine.execUpdStage ag v s
  | .updStageDone badKind => Sys2Proof.Machine.execUpdStageDone badKind s
  | .updActivate ag v pins => Sys2Proof.Machine.execUpdActivate ag v pins s
  | .updAbort ag v => Sys2Proof.Machine.execUpdAbort ag v s
  | .updShadowDone mig pass => Sys2Proof.Machine.execUpdShadowDone mig pass s
  | .updShadowTimeout => Sys2Proof.Machine.execUpdShadowTimeout s
  | .updHandover => Sys2Proof.Machine.execUpdHandover s
  | .updProbationPass => Sys2Proof.Machine.execUpdProbationPass s
  | .updHandback => Sys2Proof.Machine.execUpdHandback s
  | .lockedReadingTimeout => Sys2Proof.Machine.execLockedReadingTimeout s
  | .ppsOutPulseEnd => Sys2Proof.Machine.execPpsOutPulseEnd s
  | .pairLinkLaneChange lane lock => Sys2Proof.Machine.execPairLinkLaneChange lane lock s
  | .witnessGrantGuardEnd => Sys2Proof.Machine.execWitnessGrantGuardEnd s
  | .keySlotWriteDone => Sys2Proof.Machine.execKeySlotWriteDone s
  | .ownerSessionVerifyDone => Sys2Proof.Machine.execOwnerSessionVerifyDone s
  | .rootEnrolmentDone reads => Sys2Proof.Machine.execRootEnrolmentDone reads s
  | .firmwareWatchdogTrip => Sys2Proof.Machine.execFirmwareWatchdogTrip s
  | .illegalInstruction eng ecc => Sys2Proof.Machine.execIllegalInstruction eng ecc s

end Sys2Proof.Machine
end

