-- ==== Sys2Proof/WellFormed.lean ====
section
/-! DEFINITION. Which commands and engine instructions are well formed: the forms that the part's surroundings can bring,
and the words that the tables of instructions give a meaning. A command's meaning is defined on every term; these checks
say which terms stand for something that the manual describes. -/

namespace Sys2Proof

/-- An engine instruction that has a word: cond 15 and TIME with one register for both are illegal (R445, R449, R454). -/
def Idrik.wellFormed : Idrik → Bool
  | .br c _ => c != 15
  | .call c _ => c != 15
  | .time d b => d != b
  | _ => true

/-- An item of a silo is whole entries of 64 bytes, at least one (R188). -/
def itemFormed (l : List Byte) : Bool := !l.isEmpty && l.length % 64 == 0
/-- An entry of the operation codes is a command of the side-band port (R61). -/
def sbKnownOp (op : Byte) : Bool := decide (1 ≤ op.toNat) && decide (op.toNat ≤ 6)
/-- An IRIG-B frame's fields lie in their ranges (R136). -/
def IrigFrame.formed (f : IrigFrame) : Bool :=
  decide (f.secOfDay ≤ 86400) && decide (1 ≤ f.day) && decide (f.day ≤ 366) && decide (f.quality < 16)
/-- What a PMBus read returns fits the bus's word (R94). -/
def PmbusReply.formed : PmbusReply → Bool
  | .value v => decide (v < 65536)
  | _ => true
/-- A descriptor is 64 bytes, a payload at most what its length field says (R172). -/
def LsoFetch.formed : LsoFetch → Bool
  | .ring _ d p _ => d.length == 64 && decide (p.length ≤ 262144)
  | .queue _ _ => true
/-- The result of a PUF read: a bit-error rate of at most 100 % (R556). -/
def PufRead.formed (r : PufRead) : Bool := decide (r.ber ≤ 10000)
/-- SEQ and ACK of a pair-link frame are numbers of 32 bits (R483). -/
def PlHead.formed (h : PlHead) : Bool := decide (h.seq < 2 ^ 32) && decide (h.ack < 2 ^ 32)
/-- What a MIRROR frame carries is an item of its kinds (R475, R484). -/
def PlMsg.isRecord : PlMsg → Bool
  | .mirror _ => true
  | .wpath .. => true
  | _ => false

/-- Whether a command stands for something the manual describes. -/
def Instr.wellFormed : Instr → Bool
  | .siloPush _ item => itemFormed item
  | .plClsMirrorRx hd _ item => hd.formed && itemFormed item
  | .sbWrite _ data _ => decide (data.length < 65536)
  | .sbUnknownOp op _ _ => !sbKnownOp op
  | .irigFrameRx f => f.formed
  | .avsReadVout r => r.formed
  | .avsAlert r c => r.formed && c.formed
  | .avsRetry r => r.formed
  | .settingsRestore _ r => r.formed
  | .lsoDescriptor f => f.formed
  | .pufRegenerate l _ => l.all PufRead.formed
  | .rootEnrolmentDone l => l.all PufRead.formed
  | .syncInEdge codes => codes.length == 16
  | .conversion codes => codes.length == 16
  | .plMirrorRx hd r => hd.formed && r.isRecord
  | .plHelloRx hd h => hd.formed && h.digest.length == 48
  | .plHostmsgRx hd bytes => hd.formed && bytes.length == 64
  | .iBr _ c _ => c != 15
  | .iCall _ c _ => c != 15
  | .iTime _ d b => d != b
  | .exportBale bad => bad.all (· < 8192)
  | .amendmentExport bad => bad.all (· < 8192)
  | _ => true

end Sys2Proof
end

