-- ==== Sys2Proof/Certificates/Slice0/Obligations.lean ====
section
/-! DEFINITION. The statements about the model. The definitions of Sys2Proof.Claim only abbreviate what several
statements say: a state with a part of it replaced, what must hold for a command to have its effect. -/

namespace Sys2Proof.Claim
open Sys2Proof.Machine

/-- The state with the part replaced; the queue stays. -/
def put (s : State) (b : Block) : State := { s with blk := b }
/-- Registers, counters and status words: every one but those listed reads as before. -/
def regsKeptBut (l : List Nat) (b c : Block) : Prop := ∀ a, a ∉ l → c.r a = b.r a

/-! Engines (R442–R469). -/

/-- Engine e runs item state r, which may fetch; the word at its pc is instruction i, whose cost k the budget allows. -/
def Ready (b : Block) (e : Fin 26) (r : Run) (i : Idrik) (k : Nat) : Prop :=
  (b.eng e.val).run = some r ∧ b.up = true ∧ r.pc.toNat < 0x20000 ∧ r.pc.toNat % 4 = 0 ∧
    decode (progAt b r.pc.toNat) = some i ∧ r.count + k ≤ r.item.budget
/-- The part with the item's state on engine e replaced: nothing else changes. -/
def withItem (b : Block) (e : Fin 26) (r : Run) : Block := modEng e.val (fun s => { s with run := some r }) b
/-- The item's state behind an instruction of cost k: pc and count advanced. -/
def advanced (r : Run) (k : Nat) : Run := { r with pc := r.pc + 4, count := r.count + k }
/-- The same with a word register written. -/
def advancedW (r : Run) (rd : BitVec 5) (v : DWord) : Run :=
  { r with pc := r.pc + 4, count := r.count + 1, w := r.w.set rd.toNat v rd.isLt }
/-- The same with a complex register written. -/
def advancedC (r : Run) (cd : BitVec 4) (v : Vector DWord 4) : Run :=
  { r with pc := r.pc + 4, count := r.count + 1, c := r.c.set cd.toNat v cd.isLt }
/-- The same with a log entry appended. -/
def advancedLog (r : Run) (e : LogEntry) : Run := { r with pc := r.pc + 4, count := r.count + 1, log := r.log ++ [e] }
/-- Bytes as a 64-bit value: least significant first, extended by their top bit or by zeros (R446). -/
def extended (sign : Bool) (l : List Byte) : DWord :=
  let v : Nat := ofLe l
  if sign && v.testBit (8 * l.length - 1) then BitVec.ofInt 64 ((v : Int) - 2 ^ (8 * l.length)) else BitVec.ofNat 64 v
/-- The command makes the item fault with a code; R440 says what is kept of it. -/
def faults (s : State) (e : Fin 26) (r : Run) (c : Instr) (code : Nat) : Prop :=
  exec c s = .next (put s (itemFault e.val r code r.pc s.blk))
/-- A checked command: its first check that fails decides the fault, and where none fails the effect holds (R468). -/
def checkedBy (s : State) (e : Fin 26) (r : Run) (c : Instr) : List (Prop × Nat) → Prop → Prop
  | [], effect => effect
  | (bad, code) :: l, effect => (bad → faults s e r c code) ∧ (¬bad → checkedBy s e r c l effect)
/-- What is wrong with a local-store address: alignment, then range (R451). -/
def lsBad (a : Int) (n al : Nat) : List (Prop × Nat) := [(a % al ≠ 0, 0x04), (a < 0 ∨ 0x80000 < a + n, 0x03)]
/-- The same for an address stored to, which must lie in scratch. -/
def lsBadW (a : Int) (n al : Nat) : List (Prop × Nat) := lsBad a n al ++ [(a < 0x20000, 0x05)]
/-- What is wrong with a Granary address (R455). -/
def granBad (a : Int) (n : Nat) : List (Prop × Nat) := [(a < 0 ∨ 50331648 < a + n, 0x08)]
/-- What is wrong with a heap access of an item (R456). -/
def heapBad (r : Run) (a : Int) (n : Nat) : List (Prop × Nat) :=
  [(r.item.heap.2 = 0 ∨ a % 8 ≠ 0 ∨ a < 0 ∨ r.item.heap.2 < a + n, 0x0A)]
/-- The command answers with the item's new state and bytes stored to scratch at a: they read there, every other byte of
the local store reads as before, and nothing else of the part changes. -/
def storesTo (s : State) (e : Fin 26) (c : Instr) (r' : Run) (a : Nat) (l : List Byte) : Prop :=
  ∃ sc, let b' := modEng e.val (fun g => { g with run := some r', scratch := sc }) s.blk
    exec c s = .next (put s b') ∧ (∀ k, (hk : k < l.length) → lsByte b' e.val (a + k) = l[k]) ∧
      (∀ k, k < a ∨ a + l.length ≤ k → lsByte b' e.val k = lsByte s.blk e.val k)
/-- The command answers with the item's new state and nothing else of the part changed. -/
def runsTo (s : State) (e : Fin 26) (c : Instr) (r' : Run) : Prop := exec c s = .next (put s (withItem s.blk e r'))
/-- The command appends one entry to the item's log, or faults with LOG_FULL where that would take it past 65,536 bytes
(R457). -/
def logsTo (s : State) (e : Fin 26) (r : Run) (c : Instr) (en : LogEntry) : Prop :=
  (logSize (r.log ++ [en]) ≤ 65536 → runsTo s e c (advancedLog r en)) ∧
    (65536 < logSize (r.log ++ [en]) → faults s e r c 0x10)
/-- The n bytes of the local store, the Granary, the heap at a. -/
def lsAt (s : State) (e : Fin 26) (a n : Nat) : List Byte := (List.range n).map fun k => lsByte s.blk e.val (a + k)
def granAt (s : State) (a n : Nat) : List Byte := (List.range n).map fun k => byteAt s.blk.granMem (a + k)
def heapAt (s : State) (r : Run) (a n : Nat) : List Byte :=
  (List.range n).map fun k => byteAt s.blk.ddr (heapBase + r.item.heap.1 + a + k)
/-- Four lanes from 32 bytes, the lowest first (R442). -/
def lanes (l : List Byte) : Vector DWord 4 := Vector.ofFn fun j : Fin 4 => extended false ((l.drop (8 * j.val)).take 8)
/-- The bytes of four lanes. -/
def bytesOf (v : Vector DWord 4) : List Byte :=
  (List.range 32).map fun k => (v[k / 8 % 4]'(Nat.mod_lt _ (by decide))).extractLsb' (8 * (k % 8)) 8
/-- The low n bytes of a word. -/
def lowBytes (n : Nat) (v : DWord) : List Byte := (List.range n).map fun k => v.extractLsb' (8 * k) 8
/-- Flag group L of a result (R447). -/
def flagL (v : DWord) (r : Run) : Run := { r with n := decide (v.toInt < 0), z := decide (v = 0) }
/-- Flag group A of a sum: C the carry, V the signed overflow (R447). -/
def flagAdd (x y : DWord) (r : Run) : Run :=
  { flagL (x + y) r with cf := decide (2 ^ 64 ≤ x.toNat + y.toNat), v := decide ((x + y).toInt ≠ x.toInt + y.toInt) }
/-- Flag group A of a difference: C the borrow (R447). -/
def flagSub (x y : DWord) (r : Run) : Run :=
  { flagL (x - y) r with cf := decide (x.toNat < y.toNat), v := decide ((x - y).toInt ≠ x.toInt - y.toInt) }
/-- The mathematical result of a three-register operation, before it is taken modulo 2^64 (R447). -/
def aluExact (op : AluOp) (x y : DWord) : Int := match op with
  | .add => x.toNat + y.toNat
  | .sub => x.toNat - y.toNat
  | .and => (x &&& y).toNat
  | .or => (x ||| y).toNat
  | .xor => (x ^^^ y).toNat
  | .sll => x.toNat * 2 ^ (y.toNat % 64)
  | .srl => x.toNat / 2 ^ (y.toNat % 64)
  | .sra => x.toInt / 2 ^ (y.toNat % 64)
  | .mul => x.toNat * y.toNat
  | .mulh => x.toInt * y.toInt / 2 ^ 64
  | .mulhu => x.toNat * y.toNat / 2 ^ 64
  | .div => x.toInt.tdiv y.toInt
  | .divu => x.toNat / y.toNat
  | .rem => x.toInt - x.toInt.tdiv y.toInt * y.toInt
  | .remu => x.toNat % y.toNat
/-- The command of a three-register operation. -/
def aluInstr (op : AluOp) (e : Fin 26) (rd ra rb : BitVec 5) : Instr := match op with
  | .add => .iAdd e rd ra rb
  | .sub => .iSub e rd ra rb
  | .and => .iAnd e rd ra rb
  | .or => .iOr e rd ra rb
  | .xor => .iXor e rd ra rb
  | .sll => .iSll e rd ra rb
  | .srl => .iSrl e rd ra rb
  | .sra => .iSra e rd ra rb
  | .mul => .iMul e rd ra rb
  | .mulh => .iMulh e rd ra rb
  | .mulhu => .iMulhu e rd ra rb
  | .div => .iDiv e rd ra rb
  | .divu => .iDivu e rd ra rb
  | .rem => .iRem e rd ra rb
  | .remu => .iRemu e rd ra rb
/-- The command that stands for an instruction of engine e; ue is what its memory shows where it reads one. -/
def commandOf (e : Fin 26) (ue : Bool) : Idrik → Instr
  | .alu op rd ra rb => aluInstr op e rd ra rb
  | .cmp ra rb => .iCmp e ra rb
  | .imm .addi rd ra i => .iAddi e rd ra i
  | .imm .andi rd ra i => .iAndi e rd ra i
  | .imm .ori rd ra i => .iOri e rd ra i
  | .imm .xori rd ra i => .iXori e rd ra i
  | .cmpi ra i => .iCmpi e ra i
  | .shift .slli rd ra k => .iSlli e rd ra k
  | .shift .srli rd ra k => .iSrli e rd ra k
  | .shift .srai rd ra k => .iSrai e rd ra k
  | .set .setw rd i => .iSetw e rd i
  | .set .shin rd i => .iShin e rd i
  | .set .setu rd i => .iSetu e rd i
  | .br c off => .iBr e c off
  | .call c off => .iCall e c off
  | .load .ld rd ra i => .iLd e rd ra i ue
  | .load .lw rd ra i => .iLw e rd ra i ue
  | .load .lwu rd ra i => .iLwu e rd ra i ue
  | .load .lh rd ra i => .iLh e rd ra i ue
  | .load .lhu rd ra i => .iLhu e rd ra i ue
  | .load .lb rd ra i => .iLb e rd ra i ue
  | .load .lbu rd ra i => .iLbu e rd ra i ue
  | .store .st rs ra i => .iSt e rs ra i
  | .store .sw rs ra i => .iSw e rs ra i
  | .store .sh rs ra i => .iSh e rs ra i
  | .store .sb rs ra i => .iSb e rs ra i
  | .cx .cadd cd ca cb => .iCadd e cd ca cb
  | .cx .csub cd ca cb => .iCsub e cd ca cb
  | .cx .crot cd ca cb => .iCrot e cd ca cb
  | .cxSh .cmul cd ca cb k => .iCmul e cd ca cb k
  | .cxSh .cmulc cd ca cb k => .iCmulc e cd ca cb k
  | .cxSh .cmac cd ca cb k => .iCmac e cd ca cb k
  | .cxSh .cmacc cd ca cb k => .iCmacc e cd ca cb k
  | .cxUn .cmag cd ca => .iCmag e cd ca
  | .cxUn .cang cd ca => .iCang e cd ca
  | .cxUn .csum cd ca => .iCsum e cd ca
  | .cld cd wa i => .iCld e cd wa i ue
  | .cst cd wa i => .iCst e cd wa i
  | .gldc cd wa i => .iGldc e cd wa i ue
  | .cget w c k => .iCget e w c k
  | .cput w c k => .iCput e w c k
  | .cspl w c => .iCspl e w c
  | .gload .gld rd ra i => .iGld e rd ra i ue
  | .gload .glw rd ra i => .iGlw e rd ra i ue
  | .gload .glwu rd ra i => .iGlwu e rd ra i ue
  | .gload .glh rd ra i => .iGlh e rd ra i ue
  | .gbale rd ra => .iGbale e rd ra
  | .gcpy rd ra rb => .iGcpy e rd ra rb ue
  | .hld rd ra i => .iHld e rd ra i
  | .hst rd ra i => .iHst e rd ra i
  | .hrd rd ra rb => .iHrd e rd ra rb
  | .hwr rd ra rb => .iHwr e rd ra rb ue
  | .nop => .iNop e
  | .done => .iDone e ue
  | .jr ra => .iJr e ra
  | .time rd rb => .iTime e rd rb
  | .budl rd => .iBudl e rd
  | .spush rd ra rb => .iSpush e rd ra rb ue
  | .spop rd ra rb => .iSpop e rd ra rb
  | .raise ra => .iRaise e ra
  | .aset ra rb => .iAset e ra rb
  | .erec rd ra rb => .iErec e rd ra rb
  | .lsend ra => .iLsend e ra ue
/-- The cost of an instruction: 1, but 1 and one for each 16 bytes begun for a copy (R467). -/
def costOf (r : Run) : Idrik → Nat
  | .gcpy _ _ rb => 1 + ((r.w[rb.toNat]'rb.isLt).toNat + 15) / 16
  | .hrd _ _ rb => 1 + ((r.w[rb.toNat]'rb.isLt).toNat + 15) / 16
  | _ => 1
/-- The full sum of a register and an offset: it never wraps (R446). -/
def addr (r : Run) (ra : BitVec 5) (off : Int) : Int := ((r.w[ra.toNat]'ra.isLt).toNat : Int) + off
/-- A 32-bit part saturated (R452). -/
def sat32 (x : Int) : Int := max (-2147483648) (min 2147483647 x)
/-- Real and imaginary part of a lane, signed (R442). -/
def parts (l : DWord) : Int × Int := ((l.extractLsb' 0 32).toInt, (l.extractLsb' 32 32).toInt)
/-- A lane reads as a real and an imaginary part. -/
def laneIs (l : DWord) (x y : Int) : Prop := (l.extractLsb' 0 32).toInt = x ∧ (l.extractLsb' 32 32).toInt = y
/-- k is x / 2^sh rounded half to even to an integer (R452). -/
def roundsTo (x : Int) (sh : Nat) (k : Int) : Prop :=
  2 * (k * 2 ^ sh - x) ≤ 2 ^ sh ∧ 2 * (x - k * 2 ^ sh) ≤ 2 ^ sh ∧
    (2 * (k * 2 ^ sh - x) = 2 ^ sh ∨ 2 * (x - k * 2 ^ sh) = 2 ^ sh → k % 2 = 0)

end Sys2Proof.Claim

open Sys2Proof Sys2Proof.Machine Sys2Proof.Claim

/-! Acceptance of commands, the queue and reset. -/

/-- A command of an agent at a page's register is taken: the agent reaches the page, the side-band may write the offset, the
page is not in block reset (R53, R62, R507). -/
def Sys2Proof.Claim.accepts (b : Block) (ag : Agent) (p o : Nat) : Prop :=
  b.reach ag p = true ∧ (ag = .host ∨ sbwAllows p o = true) ∧ b.inReset p = false
/-- The same where the owner lock and the sharing of settings count (R52, R473). -/
def Sys2Proof.Claim.acceptsL (b : Block) (ag : Agent) (p o : Nat) : Prop :=
  accepts b ag p o ∧ b.locked p = false ∧ b.sharedHeld p o = false
/-- The register's bit rises and what stands in PG_IRQ of the page stays. -/
def Sys2Proof.Claim.raised (p i : Nat) (b c : Block) : Prop := c.r (pg p 0x018) = putBit (b.r (pg p 0x018)) i true
/-- An occurrence reaches the recorder behind those that wait. -/
def Sys2Proof.Claim.recorded (code a1 a2 : Nat) (b c : Block) : Prop := c.evr.occ = b.evr.occ ++ [⟨code, w32 a1, w32 a2⟩]

/-- A step carries out the command at the front of the queue with the queue's rest. -/
def Obligations.StepCarriesOutTheFrontCommand : Prop :=
  ∀ (s : State) (c : Instr) (rest : List Instr), step { s with pending := c :: rest } = exec c { s with pending := rest }

/-- R116, R117, R125: with no command waiting, 0.8 ns pass: always-on time grows by one tick, and the counter by 0.8 ns at FREQ_ADJ
while XO_IN runs; the TQ code in force is noted where it changes. A time that TIME_SET left is set at that tick, and VALID becomes 1.
Where VALID is 1 by then it lapses. In Off and in cold reset nothing changes. That an empty queue is a tick is the model's choice (log entry 3). -/
def Obligations.EmptyQueueIsOneTick : Prop :=
  ∀ (b : Block),
    (b.aon = true → b.time.setPend = none ∨ b.time.xo = false → ∃ b', step { blk := b, pending := [] } = .next { blk := b', pending := [] } ∧
      b'.time.ticks = b.time.ticks + 1 ∧
      b'.time.ctr = (if b.time.xo = true then b.time.ctr + (225179981368525 + b.time.freqAdj).toNat else b.time.ctr) ∧
      b' = { b with
        time := { b.time with ticks := b'.time.ticks, ctr := b'.time.ctr }
        chain := { b.chain with tqLog := b'.chain.tqLog } } ∧
      (∀ e, b'.chain.tqLog.head? = some e → e.2 = b'.tq) ∧ b'.chain.tqLog ≠ []) ∧
    (∀ t, b.aon = true → b.time.setPend = some t → b.time.xo = true → b.time.valid = false → ∃ b',
      step { blk := b, pending := [] } = .next { blk := b', pending := [] } ∧ b'.time.setPend = none ∧ b'.time.valid = true ∧
      b'.time.ctr = t * 2 ^ 32 ∧ b'.time.ticks = b.time.ticks + 1 ∧ (∃ o ∈ b'.evr.occ, o.code = 0x108) ∧
      (b.time.selected = 0 → b'.time.holdover = true ∧ b'.time.setByHost = true ∧ b'.errEst = 0xFFFFFFFF ∧ b'.tq = 0xB)) ∧
    (∀ t, b.aon = true → b.time.setPend = some t → b.time.xo = true → b.time.valid = true → ∃ b',
      step { blk := b, pending := [] } = .next { blk := b', pending := [] } ∧ b'.time.setPend = none ∧
      b'.time.ctr = b.time.ctr + (225179981368525 + b.time.freqAdj).toNat ∧ b'.time.ticks = b.time.ticks + 1) ∧
    (b.aon = false → step { blk := b, pending := [] } = .next { blk := b, pending := [] })

/-- Every command answers a next state on every state, and the queue is as it was. -/
def Obligations.EveryCommandAnswersAndKeepsTheQueue : Prop :=
  ∀ (c : Instr) (s : State), ∃ b', exec c s = .next (put s b')

/-- R116, R187, R203, R381, R507, R518: after power-on the part stands in cold reset: nothing waits, the counter is at 0 s
with VALID 0, no silo, bale, ingress frame or alarm stands, every vector is masked, and the memories are in canonical form. -/
def Obligations.ResetStandsInColdReset : Prop :=
  let b := State.reset.blk
  State.reset.pending = [] ∧ b.dev.cold = true ∧ b.dev.st = .starting ∧ b.time.ctr = 0 ∧ b.time.valid = false ∧
    (∀ q, (b.silo q).q = []) ∧ (∀ r, (b.rate r).bales = []) ∧ (∀ p : Fin 4, b.ports[p].rx = []) ∧ b.alm.active = 0 ∧
    b.balls.alm = 0 ∧ b.msixMask = BitVec.allOnes 64 ∧ b.up = false ∧ b.aon = false ∧
    (∀ p ∈ allPages, b.r (pg p 0x018) = 0 ∧ b.r (pg p 0x014) = 0 ∧ b.r (pg p 0x01C) = 0) ∧
    Memory.wf b.granMem = true ∧ Memory.wf b.ddr = true ∧ Memory.wf b.mram = true ∧
    exec (.coldResetEnd true 31) State.reset ≠ .next State.reset

/-! The engines' instructions. -/

/-- R447: three-register operations that do not divide give their result modulo 2^64 and the flags of their group; all else
stays but pc and count. -/
def Obligations.IntegerOperationsGiveResultAndFlags : Prop :=
  ∀ (s : State) (op : AluOp) (e : Fin 26) (r : Run) (rd ra rb : BitVec 5),
    let x := r.w[ra.toNat]'ra.isLt
    let y := r.w[rb.toNat]'rb.isLt
    let v := BitVec.ofInt 64 (aluExact op x y)
    (Ready s.blk e r (.alu op rd ra rb) 1 → op ∉ [.div, .divu, .rem, .remu] →
      exec (aluInstr op e rd ra rb) s = .next (put s (withItem s.blk e (match op with
        | .add => flagAdd x y (advancedW r rd v)
        | .sub => flagSub x y (advancedW r rd v)
        | _ => flagL v (advancedW r rd v))))) ∧
    (Ready s.blk e r (.cmp ra rb) 1 →
      exec (.iCmp e ra rb) s = .next (put s (withItem s.blk e (flagSub x y (advanced r 1)))))

/-- R448, R447: a divisor of 0 faults the item with DIV0, a program fault; else the dividing operations give the quotient
towards zero and the remainder, flag group L; −2^63 by −1 gives −2^63 and 0. -/
def Obligations.DivisionGivesQuotientAndRemainder : Prop :=
  (∀ (s : State) (op : AluOp) (e : Fin 26) (r : Run) (rd ra rb : BitVec 5),
    Ready s.blk e r (.alu op rd ra rb) 1 → op ∈ [.div, .divu, .rem, .remu] → (r.w[rb.toNat]'rb.isLt) = 0 →
      exec (aluInstr op e rd ra rb) s = .next (put s (itemFault e.val r 0x06 r.pc s.blk))) ∧
  (∀ (s : State) (op : AluOp) (e : Fin 26) (r : Run) (rd ra rb : BitVec 5),
    let x := r.w[ra.toNat]'ra.isLt
    let y := r.w[rb.toNat]'rb.isLt
    let v := BitVec.ofInt 64 (aluExact op x y)
    Ready s.blk e r (.alu op rd ra rb) 1 → op ∈ [.div, .divu, .rem, .remu] → y ≠ 0 →
      exec (aluInstr op e rd ra rb) s = .next (put s (withItem s.blk e (flagL v (advancedW r rd v))))) ∧
  aluExact .div (BitVec.ofInt 64 (-2 ^ 63)) (BitVec.ofInt 64 (-1)) = 2 ^ 63 ∧
  BitVec.ofInt 64 (2 ^ 63) = BitVec.ofInt 64 (-2 ^ 63) ∧
  aluExact .rem (BitVec.ofInt 64 (-2 ^ 63)) (BitVec.ofInt 64 (-1)) = 0

/-- R467, R468: whatever instruction the pc names, a cost that takes the count past BUDGET faults the item with BUDGET; a word that
is no instruction faults it with ILLEGAL, a pc outside the program region or off a multiple of 4 with PC_RANGE, an
uncorrectable error at the fetch with LS_UE. The fault is that of the item as it was before the instruction. -/
def Obligations.FaultingInstructionsFaultTheItem : Prop :=
  (∀ (s : State) (i : Idrik) (ue : Bool) (e : Fin 26) (r : Run),
    (s.blk.eng e.val).run = some r → s.blk.up = true → r.pc.toNat < 0x20000 → r.pc.toNat % 4 = 0 →
      decode (progAt s.blk r.pc.toNat) = some i → r.item.budget < r.count + costOf r i → faults s e r (commandOf e ue i) 0x07) ∧
  (∀ (s : State) (e : Fin 26) (r : Run), (s.blk.eng e.val).run = some r → s.blk.up = true →
    (r.pc.toNat < 0x20000 → r.pc.toNat % 4 = 0 →
      exec (.illegalInstruction e true) s = .next (put s (itemFault e.val r 0x80 r.pc s.blk)) ∧
      (decode (progAt s.blk r.pc.toNat) = none →
        exec (.illegalInstruction e false) s = .next (put s (itemFault e.val r 0x01 r.pc s.blk)))) ∧
    (0x20000 ≤ r.pc.toNat ∨ r.pc.toNat % 4 ≠ 0 → ∀ ecc : Bool,
      exec (.illegalInstruction e ecc) s = .next (put s (itemFault e.val r 0x02 r.pc s.blk))))

/-- R447: operations with an immediate, shifts by an immediate and constant loads. -/
def Obligations.ImmediateOperationsGiveResultAndFlags : Prop :=
  ∀ (s : State) (e : Fin 26) (r : Run) (rd ra : BitVec 5) (i : BitVec 16) (k : BitVec 6),
    let x := r.w[ra.toNat]'ra.isLt
    let d := r.w[rd.toNat]'rd.isLt
    let sx : DWord := i.signExtend 64
    let zx : DWord := i.zeroExtend 64
    let is := fun (i : Idrik) (c : Instr) (t : Run) =>
      Ready s.blk e r i 1 → exec c s = .next (put s (withItem s.blk e t))
    is (.imm .addi rd ra i) (.iAddi e rd ra i) (flagAdd x sx (advancedW r rd (x + sx))) ∧
    is (.cmpi ra i) (.iCmpi e ra i) (flagSub x sx (advanced r 1)) ∧
    is (.imm .andi rd ra i) (.iAndi e rd ra i) (flagL (x &&& zx) (advancedW r rd (x &&& zx))) ∧
    is (.imm .ori rd ra i) (.iOri e rd ra i) (flagL (x ||| zx) (advancedW r rd (x ||| zx))) ∧
    is (.imm .xori rd ra i) (.iXori e rd ra i) (flagL (x ^^^ zx) (advancedW r rd (x ^^^ zx))) ∧
    is (.shift .slli rd ra k) (.iSlli e rd ra k) (flagL (x <<< k.toNat) (advancedW r rd (x <<< k.toNat))) ∧
    is (.shift .srli rd ra k) (.iSrli e rd ra k) (flagL (x >>> k.toNat) (advancedW r rd (x >>> k.toNat))) ∧
    is (.shift .srai rd ra k) (.iSrai e rd ra k) (flagL (x.sshiftRight k.toNat) (advancedW r rd (x.sshiftRight k.toNat))) ∧
    is (.set .setw rd i) (.iSetw e rd i) (advancedW r rd sx) ∧
    is (.set .shin rd i) (.iShin e rd i) (advancedW r rd ((d <<< 16) ||| zx)) ∧
    is (.set .setu rd i) (.iSetu e rd i) (advancedW r rd zx)

/-- R449, R450, R454: transfers go to pc + 4 × sext(off22) of their own address where their condition holds, else to
pc + 4; call keeps pc + 4 in w31 where it transfers; jr goes to ra; nop only advances. -/
def Obligations.ControlFlowSetsProgramCounter : Prop :=
  ∀ (s : State) (e : Fin 26) (r : Run) (ra : BitVec 5) (c : BitVec 4) (off : BitVec 22),
    let holds : Prop := match c.toNat with
      | 0 => True
      | 1 => r.z = true
      | 2 => r.z = false
      | 3 => r.n ≠ r.v
      | 4 => r.n = r.v
      | 5 => r.z = false ∧ r.n = r.v
      | 6 => r.z = true ∨ r.n ≠ r.v
      | 7 => r.cf = true
      | 8 => r.cf = false
      | 9 => r.cf = false ∧ r.z = false
      | 10 => r.cf = true ∨ r.z = true
      | 11 => r.n = true
      | 12 => r.n = false
      | 13 => r.v = true
      | 14 => r.v = false
      | _ => False
    let tgt : DWord := r.pc + BitVec.ofInt 64 (4 * off.toInt)
    (Ready s.blk e r (.br c off) 1 →
      (holds → exec (.iBr e c off) s = .next (put s (withItem s.blk e { advanced r 1 with pc := tgt }))) ∧
      (¬holds → exec (.iBr e c off) s = .next (put s (withItem s.blk e (advanced r 1))))) ∧
    (Ready s.blk e r (.call c off) 1 →
      (holds → exec (.iCall e c off) s = .next (put s (withItem s.blk e { advancedW r 31 (r.pc + 4) with pc := tgt }))) ∧
      (¬holds → exec (.iCall e c off) s = .next (put s (withItem s.blk e (advanced r 1))))) ∧
    (Ready s.blk e r (.jr ra) 1 →
      exec (.iJr e ra) s = .next (put s (withItem s.blk e { advanced r 1 with pc := r.w[ra.toNat]'ra.isLt }))) ∧
    (Ready s.blk e r .nop 1 → exec (.iNop e) s = .next (put s (withItem s.blk e (advanced r 1))))

/-- R452: complex sums, differences and products are exact on each lane, rounded half to even once and saturated; csum adds
the lanes. -/
def Sys2Proof.Claim.complexArithmetic : Prop :=
  ∀ (s : State) (e : Fin 26) (r : Run) (cd ca cb : BitVec 4) (k : BitVec 6),
    let A := fun (j : Fin 4) => parts ((r.c[ca.toNat]'ca.isLt)[j])
    let B := fun (j : Fin 4) => parts ((r.c[cb.toNat]'cb.isLt)[j])
    let D := fun (j : Fin 4) => parts ((r.c[cd.toNat]'cd.isLt)[j])
    let gives := fun (c : Instr) (P : Vector DWord 4 → Prop) =>
      ∃ v, exec c s = .next (put s (withItem s.blk e (advancedC r cd v))) ∧ P v
    let sum := fun (sg : Int) (v : Vector DWord 4) => ∀ j : Fin 4,
      laneIs v[j] (sat32 ((A j).1 + sg * (B j).1)) (sat32 ((A j).2 + sg * (B j).2))
    let product := fun (conj acc : Int) (v : Vector DWord 4) => ∀ j : Fin 4, ∃ x y,
      roundsTo ((A j).1 * (B j).1 - conj * ((A j).2 * (B j).2) + acc * (D j).1 * 2 ^ k.toNat) k.toNat x ∧
      roundsTo (conj * ((A j).1 * (B j).2) + (A j).2 * (B j).1 + acc * (D j).2 * 2 ^ k.toNat) k.toNat y ∧
      laneIs v[j] (sat32 x) (sat32 y)
    (Ready s.blk e r (.cx .cadd cd ca cb) 1 → gives (.iCadd e cd ca cb) (sum 1)) ∧
    (Ready s.blk e r (.cx .csub cd ca cb) 1 → gives (.iCsub e cd ca cb) (sum (-1))) ∧
    (Ready s.blk e r (.cxSh .cmul cd ca cb k) 1 → gives (.iCmul e cd ca cb k) (product 1 0)) ∧
    (Ready s.blk e r (.cxSh .cmulc cd ca cb k) 1 → gives (.iCmulc e cd ca cb k) (product (-1) 0)) ∧
    (Ready s.blk e r (.cxSh .cmac cd ca cb k) 1 → gives (.iCmac e cd ca cb k) (product 1 1)) ∧
    (Ready s.blk e r (.cxSh .cmacc cd ca cb k) 1 → gives (.iCmacc e cd ca cb k) (product (-1) 1)) ∧
    (Ready s.blk e r (.cxUn .csum cd ca) 1 → gives (.iCsum e cd ca) fun v =>
      laneIs v[0] (sat32 ((A 0).1 + (A 1).1 + (A 2).1 + (A 3).1)) (sat32 ((A 0).2 + (A 1).2 + (A 2).2 + (A 3).2)) ∧
      v[1] = 0 ∧ v[2] = 0 ∧ v[3] = 0)

/-- R452: cmag gives the integer nearest to the magnitude in the real part, saturated, and an imaginary part of 0; crot by 0, 1/4,
1/2 and 3/4 turn gives a × 1, j, −1 and −j with each part saturated; cang of 0 + j0 gives 0, on the four half axes
0, 2^30, 2^31 and 3 × 2^30, with an imaginary part of 0. At other angles the statement says only that nothing but cd, pc and count changes. -/
def Sys2Proof.Claim.complexShape : Prop :=
  ∀ (s : State) (e : Fin 26) (r : Run) (cd ca cb : BitVec 4),
    let A := r.c[ca.toNat]'ca.isLt
    let B := r.c[cb.toNat]'cb.isLt
    (Ready s.blk e r (.cxUn .cmag cd ca) 1 → ∃ v, exec (.iCmag e cd ca) s = .next (put s (withItem s.blk e (advancedC r cd v))) ∧
      ∀ j : Fin 4, ∃ m : Nat, laneIs v[j] (sat32 m) 0 ∧
        (let q := (parts A[j]).1 ^ 2 + (parts A[j]).2 ^ 2
         (2 * (m : Int) - 1) ^ 2 ≤ 4 * q ∨ m = 0) ∧
        4 * ((parts A[j]).1 ^ 2 + (parts A[j]).2 ^ 2) ≤ (2 * (m : Int) + 1) ^ 2) ∧
    (Ready s.blk e r (.cx .crot cd ca cb) 1 → ∃ v, exec (.iCrot e cd ca cb) s = .next (put s (withItem s.blk e (advancedC r cd v))) ∧
      ∀ j : Fin 4,
        let θ := ((B[j]).extractLsb' 0 32).toNat
        let x := (parts A[j]).1
        let y := (parts A[j]).2
        (θ = 0 → laneIs v[j] x y) ∧ (θ = 2 ^ 30 → laneIs v[j] (sat32 (-y)) x) ∧
        (θ = 2 ^ 31 → laneIs v[j] (sat32 (-x)) (sat32 (-y))) ∧ (θ = 3 * 2 ^ 30 → laneIs v[j] y (sat32 (-x)))) ∧
    (Ready s.blk e r (.cxUn .cang cd ca) 1 → ∃ v, exec (.iCang e cd ca) s = .next (put s (withItem s.blk e (advancedC r cd v))) ∧
      ∀ j : Fin 4,
        let x := (parts A[j]).1
        let y := (parts A[j]).2
        (v[j]).extractLsb' 32 32 = 0 ∧ (0 ≤ x → y = 0 → v[j] = 0) ∧ (x = 0 → 0 < y → v[j] = 2 ^ 30) ∧
          (x < 0 → y = 0 → v[j] = 2 ^ 31) ∧ (x = 0 → y < 0 → v[j] = 3 * 2 ^ 30))

/-- R446, R451: a load or store at ra + sext(imm16), whose sum never wraps, faults with LS_ALIGN off a multiple of its size, else with
LS_RANGE outside the local store, a store else with LS_WRITE below scratch. Else a load gives the bytes there, extended by
their top bit (lw, lh, lb) or by zeros; where they show an uncorrectable error the item faults with LS_UE; a store leaves
the low bytes of its source there and changes no other byte. Only its destination, pc and count change besides. -/
def Obligations.LoadsAndStoresReachTheLocalStore : Prop :=
  ∀ (s : State) (e : Fin 26) (r : Run) (rd ra : BitVec 5) (i : BitVec 16) (ue : Bool),
    let a := addr r ra i.toInt
    let loads := fun (op : LoadOp) (c : Instr) (n : Nat) (signed : Bool) => Ready s.blk e r (.load op rd ra i) 1 →
      checkedBy s e r c (lsBad a n n ++ [(ue = true, 0x80)])
        (runsTo s e c (advancedW r rd (extended signed (lsAt s e a.toNat n))))
    let stores := fun (op : StoreOp) (c : Instr) (n : Nat) => Ready s.blk e r (.store op rd ra i) 1 →
      checkedBy s e r c (lsBadW a n n) (storesTo s e c (advanced r 1) a.toNat (lowBytes n (r.w[rd.toNat]'rd.isLt)))
    loads .ld (.iLd e rd ra i ue) 8 false ∧ loads .lw (.iLw e rd ra i ue) 4 true ∧ loads .lwu (.iLwu e rd ra i ue) 4 false ∧
    loads .lh (.iLh e rd ra i ue) 2 true ∧ loads .lhu (.iLhu e rd ra i ue) 2 false ∧ loads .lb (.iLb e rd ra i ue) 1 true ∧
    loads .lbu (.iLbu e rd ra i ue) 1 false ∧
    stores .st (.iSt e rd ra i) 8 ∧ stores .sw (.iSw e rd ra i) 4 ∧ stores .sh (.iSh e rd ra i) 2 ∧ stores .sb (.iSb e rd ra i) 1
/-- R453, R446: cld and cst move 32 bytes at wa + sext(imm17), a multiple of 8 in the local store, in scratch for cst: else they fault
with LS_ALIGN, LS_RANGE, LS_WRITE; an uncorrectable error at cld faults with LS_UE. cget, cput, cspl move lanes and words. -/
def Sys2Proof.Claim.laneMoves : Prop :=
  ∀ (s : State) (e : Fin 26) (r : Run) (cd : BitVec 4) (wa : BitVec 5) (i : BitVec 17) (k : BitVec 2) (ue : Bool),
    let a := addr r wa i.toInt
    let C := r.c[cd.toNat]'cd.isLt
    let W := r.w[wa.toNat]'wa.isLt
    (Ready s.blk e r (.cld cd wa i) 1 → checkedBy s e r (.iCld e cd wa i ue) (lsBad a 32 8 ++ [(ue = true, 0x80)])
      (runsTo s e (.iCld e cd wa i ue) (advancedC r cd (lanes (lsAt s e a.toNat 32))))) ∧
    (Ready s.blk e r (.cst cd wa i) 1 → checkedBy s e r (.iCst e cd wa i) (lsBadW a 32 8)
      (storesTo s e (.iCst e cd wa i) (advanced r 1) a.toNat (bytesOf C))) ∧
    (Ready s.blk e r (.cget wa cd k) 1 → runsTo s e (.iCget e wa cd k) (advancedW r wa (C[k.toNat]'k.isLt))) ∧
    (Ready s.blk e r (.cput wa cd k) 1 → runsTo s e (.iCput e wa cd k) (advancedC r cd (C.set k.toNat W k.isLt))) ∧
    (Ready s.blk e r (.cspl wa cd) 1 → runsTo s e (.iCspl e wa cd) (advancedC r cd #v[W, W, W, W]))

/-- R455, R467, R453: Granary loads and gldc read at any alignment within 50,331,648 bytes; beyond it the item faults with GRAN_RANGE;
an uncorrectable error faults it with GRAN_UE behind the Granary's own report. gcpy costs 1 + ⌈length / 16⌉ and copies 1 to 4,096
bytes into scratch, with LS_RANGE and LS_WRITE for its destination. gbale gives the offset of the bale that ra names, or all
ones where the rate is disabled or the bale is not in its ring. -/
def Obligations.GranaryReadsAtAnyAlignment : Prop :=
  ∀ (s : State) (e : Fin 26) (r : Run) (rd ra rb : BitVec 5) (cd : BitVec 4) (i : BitVec 16) (j : BitVec 17) (ue : Bool),
    let a := addr r ra i.toInt
    let av := addr r ra j.toInt
    let len := (r.w[rb.toNat]'rb.isLt).toNat
    let src := addr r ra 0
    let dst := addr r rd 0
    let reads := fun (c : Instr) (x : Int) (done : Prop) =>
      (ue = true → exec c s = .next (put s (itemFault e.val r 0x09 r.pc (granReadUe x.toNat s.blk)))) ∧ (ue = false → done)
    let loads := fun (op : GranOp) (c : Instr) (n : Nat) (signed : Bool) => Ready s.blk e r (.gload op rd ra i) 1 →
      checkedBy s e r c (granBad a n) (reads c a (runsTo s e c (advancedW r rd (extended signed (granAt s a.toNat n)))))
    loads .gld (.iGld e rd ra i ue) 8 false ∧ loads .glw (.iGlw e rd ra i ue) 4 true ∧
    loads .glwu (.iGlwu e rd ra i ue) 4 false ∧ loads .glh (.iGlh e rd ra i ue) 2 false ∧
    (Ready s.blk e r (.gldc cd ra j) 1 → checkedBy s e r (.iGldc e cd ra j ue) (granBad av 32)
      (reads (.iGldc e cd ra j ue) av (runsTo s e (.iGldc e cd ra j ue) (advancedC r cd (lanes (granAt s av.toNat 32)))))) ∧
    (Ready s.blk e r (.gcpy rd ra rb) (1 + (len + 15) / 16) → checkedBy s e r (.iGcpy e rd ra rb ue)
      ([(len = 0 ∨ 4096 < len, 0x08)] ++ granBad src len ++ lsBadW dst len 1)
      (reads (.iGcpy e rd ra rb ue) src (storesTo s e (.iGcpy e rd ra rb ue) (advanced r (1 + (len + 15) / 16)) dst.toNat
        (granAt s src.toNat len)))) ∧
    (Ready s.blk e r (.gbale rd ra) 1 →
      let q := ((r.w[ra.toNat]'ra.isLt).extractLsb' 32 2).toNat
      let idx := ((r.w[ra.toNat]'ra.isLt).extractLsb' 0 32).toNat
      ((s.blk.rate q).on = false ∨ (s.blk.rate q).bale idx = none →
        runsTo s e (.iGbale e rd ra) (advancedW r rd (BitVec.allOnes 64))) ∧
      (∀ x, (s.blk.rate q).on = true → (s.blk.rate q).bale idx = some x →
        runsTo s e (.iGbale e rd ra) (advancedW r rd (BitVec.ofNat 64 (baleOfs s.blk q x)))))

/-- R456, R457, R467: heap accesses are 8-byte aligned and lie in the task's region, else they fault with HEAP, as every one of a task
without a heap and every copy of a length that is no multiple of 8 from 8 to 4,096. hld and hrd read the committed heap; hst
and hwr append one log entry of kind 5, with the offset from the start of the heap, or fault with LOG_FULL, and change no memory; the
scratch side of hrd and hwr faults as a store or load does, an uncorrectable error at hwr with LS_UE. -/
def Obligations.HeapAccessesReadCommittedAndLogStores : Prop :=
  ∀ (s : State) (e : Fin 26) (r : Run) (rd ra rb : BitVec 5) (i : BitVec 16) (ue : Bool),
    let a := addr r ra i.toInt
    let len := (r.w[rb.toNat]'rb.isLt).toNat
    let src := addr r ra 0
    let dst := addr r rd 0
    let D := r.w[rd.toNat]'rd.isLt
    let badLen : List (Prop × Nat) := [(len < 8 ∨ 4096 < len ∨ len % 8 ≠ 0, 0x0A)]
    let entry := fun (o : Int) (l : List Byte) => (⟨5, 0, leBytes 8 (r.item.heap.1 + o.toNat) ++ l⟩ : LogEntry)
    (Ready s.blk e r (.hld rd ra i) 1 → checkedBy s e r (.iHld e rd ra i) (heapBad r a 8)
      (runsTo s e (.iHld e rd ra i) (advancedW r rd (extended false (heapAt s r a.toNat 8))))) ∧
    (Ready s.blk e r (.hst rd ra i) 1 → checkedBy s e r (.iHst e rd ra i) (heapBad r a 8)
      (logsTo s e r (.iHst e rd ra i) (entry a (lowBytes 8 D)))) ∧
    (Ready s.blk e r (.hrd rd ra rb) (1 + (len + 15) / 16) → checkedBy s e r (.iHrd e rd ra rb)
      (badLen ++ heapBad r src len ++ lsBadW dst len 8)
      (storesTo s e (.iHrd e rd ra rb) (advanced r (1 + (len + 15) / 16)) dst.toNat (heapAt s r src.toNat len))) ∧
    (Ready s.blk e r (.hwr rd ra rb) 1 → checkedBy s e r (.iHwr e rd ra rb ue)
      (badLen ++ lsBad src len 8 ++ heapBad r dst len ++ [(ue = true, 0x80)])
      (logsTo s e r (.iHwr e rd ra rb ue) (entry dst (lsAt s e src.toNat len))))

/-- R443, R454: time gives grid time in a free item and the item's T with a fraction of 0 in an ordered one: seconds in rd, nanoseconds and
fraction in rb, no other word; budl gives BUDGET less the count behind itself. -/
def Obligations.TimeAndBudgetReadings : Prop :=
  ∀ (s : State) (e : Fin 26) (r : Run) (rd rb : BitVec 5),
    (Ready s.blk e r (.time rd rb) 1 → rd ≠ rb →
      let t := if r.item.ordered then r.item.t else s.blk.now
      let frac := if r.item.ordered then 0 else t % 65536
      ∃ w', runsTo s e (.iTime e rd rb) { advanced r 1 with w := w' } ∧
        (w'[rd.toNat]'rd.isLt).toNat = t / (1000000000 * 65536) % 2 ^ 64 ∧
        (w'[rb.toNat]'rb.isLt).toNat = t / 65536 % 1000000000 * 65536 + frac ∧
        (∀ k : Fin 32, k.val ≠ rd.toNat → k.val ≠ rb.toNat → w'[k] = r.w[k])) ∧
    (Ready s.blk e r (.budl rd) 1 →
      runsTo s e (.iBudl e rd) (advancedW r rd (BitVec.ofNat 64 (r.item.budget - (r.count + 1)))))

/-- R457, R460, R462 to R465: spush, raise, aset, erec and lsend fault at the first of their operand checks that fails: spush with
SILO and the local store's faults, raise with CHANNEL, at D = 3 with DEPTH, aset with ALARM, erec with CODE, lsend with
the local store's; an uncorrectable error of what they read with LS_UE. Else each appends one log entry and changes nothing else, or
faults with LOG_FULL. -/
def Sys2Proof.Claim.effectsLog : Prop :=
  ∀ (s : State) (e : Fin 26) (r : Run) (rd ra rb : BitVec 5) (ue : Bool),
    let A := (r.w[ra.toNat]'ra.isLt).toNat
    let B := (r.w[rb.toNat]'rb.isLt).toNat
    let D := (r.w[rd.toNat]'rd.isLt).toNat
    (Ready s.blk e r (.spush rd ra rb) 1 → checkedBy s e r (.iSpush e rd ra rb ue)
      ([(B = 0 ∨ 256 < B, 0x0B)] ++ lsBad A (64 * B) 64 ++ [(A < 0x20000, 0x0B), (D ≠ 63 ∧ D ≠ 0x40, 0x0B), (ue = true, 0x80)])
      (logsTo s e r (.iSpush e rd ra rb ue) ⟨1, D, [0x07, BitVec.ofNat 8 (B - 1)] ++ (lsAt s e A (64 * B)).drop 2⟩)) ∧
    (Ready s.blk e r (.raise ra) 1 → checkedBy s e r (.iRaise e ra)
      [(31 < A, 0x0C), (¬(A < 16 ↔ r.item.ordered = true), 0x0C), (A < 16 ∧ r.item.d = 3, 0x0D)]
      (logsTo s e r (.iRaise e ra) ⟨2, A, []⟩)) ∧
    (Ready s.blk e r (.aset ra rb) 1 → checkedBy s e r (.iAset e ra rb)
      [(255 < A, 0x0E), (ownerNow s.blk A ≠ 4, 0x0E), (r.item.ordered = false, 0x0E)]
      (logsTo s e r (.iAset e ra rb) ⟨3, A, [BitVec.ofNat 8 (B % 2), 0, 0, 0, 0, 0, 0, 0]⟩)) ∧
    (Ready s.blk e r (.erec rd ra rb) 1 → checkedBy s e r (.iErec e rd ra rb) [(D < 0xC00 ∨ 0xFFF < D, 0x0F)]
      (logsTo s e r (.iErec e rd ra rb) ⟨4, D, leBytes 4 A ++ leBytes 4 B⟩)) ∧
    (Ready s.blk e r (.lsend ra) 1 → checkedBy s e r (.iLsend e ra ue) (lsBad A 64 64 ++ [(ue = true, 0x80)])
      (logsTo s e r (.iLsend e ra ue) ⟨6, 0, lsAt s e A 64⟩))

/-- R461, R193, R195: spop takes the oldest entry of silo 48 to 55 to a multiple of 64 in scratch and sets rd to COUNT after the pop; the
entry becomes the last one that this engine popped there; where it is a chaff marker with drops deferred, their new marker follows. An empty
silo gives the last one popped, padded with zeros, sets bit 63 of rd and the silo's underrun flag. Another silo or an
ordered item faults with SILO, another destination as a store does. -/
def Sys2Proof.Claim.spops : Prop :=
  ∀ (s : State) (e : Fin 26) (r : Run) (rd ra rb : BitVec 5),
    let q := (r.w[ra.toNat]'ra.isLt).toNat
    let dst := addr r rb 0
    let kept := mget [] (s.blk.eng e.val).popped q
    let puts := fun (b' : Block) (l : List Byte) (w : DWord) => (b'.eng e.val).run = some (advancedW r rd w) ∧
      (∀ k, (hk : k < l.length) → lsByte b' e.val (dst.toNat + k) = l[k]) ∧
      (∀ k, k < dst.toNat ∨ dst.toNat + l.length ≤ k → lsByte b' e.val k = lsByte s.blk e.val k)
    Ready s.blk e r (.spop rd ra rb) 1 → checkedBy s e r (.iSpop e rd ra rb)
      ([(q < 48 ∨ 55 < q, 0x0B)] ++ lsBadW dst 64 64 ++ [(r.item.ordered = true, 0x0B)])
      ((∀ mk en rest, (s.blk.silo q).q = (mk, en) :: rest →
        ∃ b', exec (.iSpop e rd ra rb) s = .next (put s b') ∧ mget [] (b'.eng e.val).popped q = en ∧
          puts b' en (BitVec.ofNat 64 ((b'.silo q).q.length % 2 ^ 15)) ∧
          (mk = false ∨ (s.blk.silo q).defer = 0 → (b'.silo q).q = rest) ∧
          (mk = true → 0 < (s.blk.silo q).defer → ∃ m, (b'.silo q).q = rest ++ [(true, m)] ∧ (b'.silo q).defer = 0)) ∧
       ((s.blk.silo q).q = [] →
        ∃ b', exec (.iSpop e rd ra rb) s = .next (put s b') ∧ (b'.silo q).q = [] ∧ b'.t (sqFlags q) 1 = true ∧
          puts b' (kept.take 64 ++ List.replicate (64 - kept.length) 0) (BitVec.ofNat 64 (2 ^ 63))))

/-- R422, R430, R466: done ends the item and its engine runs nothing. An ordered item waits for its commit with its log; a free item
with an empty log commits at once and counts in THR_COMMIT_FREE. Where the item was not slow and SLOW_N is not 0, no other engine, no
memory and no silo changes. An uncorrectable error in the log faults the item with LOG_UE. -/
def Sys2Proof.Claim.dones : Prop :=
  ∀ (s : State) (e : Fin 26) (r : Run), Ready s.blk e r .done 1 →
    faults s e r (.iDone e true) 0x81 ∧
    (r.item.ordered = true ∨ r.log = [] →
      ∃ b', exec (.iDone e false) s = .next (put s b') ∧ (b'.eng e.val).run = none ∧
        b'.thr.done = s.blk.thr.done ++ (if r.item.ordered then [{ r.item with log := r.log, failed := false, eng := r.addr }] else []) ∧
        (r.item.ordered = false → b'.n64 (thrCnt 2) = (s.blk.n64 (thrCnt 2) + 1) % 2 ^ 64) ∧
        (itemSlow s.blk (advanced r 1) = false → s.blk.f (pg 0x38 0x044) 23 16 ≠ 0 →
          (∀ g : Fin 26, g ≠ e → b'.eng g.val = s.blk.eng g.val) ∧ b'.granMem = s.blk.granMem ∧ b'.ddr = s.blk.ddr ∧
          b'.silos = s.blk.silos))

/-- R444, R445: every well-formed instruction has a word that decodes to it, with every operand at every value its field
admits. -/
def Obligations.DecodeOfEncodeIsTheInstruction : Prop :=
  ∀ i : Idrik, i.wellFormed = true → decode (encode i) = some i

/-- R445: a word decodes to at most what encodes to it: no two words mean one instruction, and no unused field is free. -/
def Obligations.EncodeOfDecodeIsTheWord : Prop :=
  ∀ (w : Word) (i : Idrik), decode w = some i → encode i = w

/-- R452, R453: complex arithmetic rounds once and saturates; magnitude, angle, rotation; lane moves copy bits. -/
def Obligations.ComplexInstructionsRoundOnceAndSaturate : Prop := complexArithmetic ∧ complexShape ∧ laneMoves
/-- R422, R457–R466: an effect appends one entry to the item's log, SPOP takes the oldest entry of a silo, DONE ends the item. -/
def Obligations.EffectsAreLoggedUntilTheItemIsDone : Prop := effectsLog ∧ spops ∧ dones

/-! Register accesses of the two agents (R38–R57). -/

/-- R46, R55: what PG_ERR shows behind an error: the first code since the last read and one more on the saturating count. -/
def Sys2Proof.Claim.errorCounted (p code : Nat) (b c : Block) : Prop :=
  let n := (b.r (pg p 0x01C)).toNat / 256
  (c.r (pg p 0x01C)).toNat =
    if n = 0 then 0x100 + code else (if n + 1 < 0xFFFFFF then n + 1 else 0xFFFFFF) * 256 + (b.r (pg p 0x01C)).toNat % 256
/-- Only the error record of a page changes among the registers, and it counts code. -/
def Sys2Proof.Claim.onlyError (p code : Nat) (b c : Block) : Prop :=
  errorCounted p code b c ∧ regsKeptBut [pg p 0x01C, pg p 0x018] b c

/-- R39, R53, R44: A narrow or unaligned write is dropped with code 0x03 in the addressed page, and no register changes but its error record. An
aligned word written to PG_IRQ_EN is stored in the bits of the causes that the page defines, from the host and where PG_SBW admits it
from the side-band, which is refused with code 0x02 elsewhere. An aligned 64-bit write is two word writes, the lower address first. -/
def Obligations.RegisterWritesAreStoredDroppedOrRefused : Prop :=
  (∀ (s : State) (ag : Agent) (p ofs : Nat) (n : Fin 4) (v : DWord), p ∈ allPages → s.blk.reach ag p = true →
    (ofs < 0x1000 → ∃ b', exec (.regWrite ag (BitVec.ofNat 24 (pg p ofs)) (.narrow n) v) s = .next (put s b') ∧
      onlyError p 0x03 s.blk b') ∧
    (∀ z : AccSize, z = .word ∨ z = .double → ofs < 0x1000 → ofs % 4 ≠ 0 → ∃ b',
      exec (.regWrite ag (BitVec.ofNat 24 (pg p ofs)) z v) s = .next (put s b') ∧ onlyError p 0x03 s.blk b') ∧
    ((ag = .host ∨ sbwAllows p 0x014 = true) → ∃ b',
      exec (.regWrite ag (BitVec.ofNat 24 (pg p 0x014)) .word v) s = .next (put s b') ∧
      b'.r (pg p 0x014) = v.setWidth 32 &&& w32 (irqCauses p) ∧ regsKeptBut [pg p 0x014] s.blk b') ∧
    (ag = .side → sbwAllows p 0x014 = false → ∃ b',
      exec (.regWrite ag (BitVec.ofNat 24 (pg p 0x014)) .word v) s = .next (put s b') ∧ onlyError p 0x02 s.blk b')) ∧
  (∀ (s : State) (ag : Agent) (a : Nat) (v : DWord), a + 4 < 2 ^ 24 → a % 4 = 0 → ∃ b₁ b₂,
    exec (.regWrite ag (BitVec.ofNat 24 a) .word v) s = .next (put s b₁) ∧
    exec (.regWrite ag (BitVec.ofNat 24 (a + 4)) .word (v >>> 32)) (put s b₁) = .next (put s b₂) ∧
    exec (.regWrite ag (BitVec.ofNat 24 a) .double v) s = .next (put s b₂))

/-- R48, R177: A lower half goes to its agent's staging register and no register changes; an upper half moves both halves into the
pair, the staged one or 0, in one step, and code 0x04 is recorded where none was staged. A port's pair is its ring base, which moves
only while the ring is empty; else both halves stay and code 0x22 is recorded. -/
def Obligations.PairWritesMoveBothHalvesInOneStep : Prop :=
  ∀ (s : State) (ag : Agent) (a p : Nat) (v x : Word), a < 0x100000 → rwPair a = some a → rwPair (a + 4) = some a →
    a / 0x1000 = p → a % 4 = 0 → s.blk.reach ag p = true →
    let mask := fun (a : Nat) => w32 (((rowOf a).map (·.mask)).getD 0)
    let free := 4 ≤ p → p ≤ 7 → ringBusy s.blk (p - 4) = false
    let staged := (s.blk.agent ag).stagedLo.find? (fun e => e.1 == a)
    (writeCode ag a v s.blk = some 0 → ∃ b', exec (.writeLoStage ag (BitVec.ofNat 24 a) v) s = .next (put s b') ∧
      mget 0 (b'.agent ag).stagedLo a = v ∧ b'.regs = s.blk.regs) ∧
    (writeCode ag (a + 4) v s.blk = some 0 →
      (free → staged = some (a, x) → ∃ b', exec (.writeHiCommit ag (BitVec.ofNat 24 (a + 4)) v) s = .next (put s b') ∧
        b'.r a = x &&& mask a ∧ b'.r (a + 4) = v &&& mask (a + 4) ∧ regsKeptBut [a, a + 4] s.blk b' ∧
        (b'.agent ag).stagedLo.find? (fun e => e.1 == a) = none) ∧
      (free → staged = none → ∃ b', exec (.writeHiCommit ag (BitVec.ofNat 24 (a + 4)) v) s = .next (put s b') ∧
        b'.r a = 0 ∧ b'.r (a + 4) = v &&& mask (a + 4) ∧ errorCounted p 0x04 s.blk b' ∧
        regsKeptBut [a, a + 4, pg p 0x01C, pg p 0x018] s.blk b') ∧
      (¬ free → staged = some (a, x) → ∃ b', exec (.writeHiCommit ag (BitVec.ofNat 24 (a + 4)) v) s = .next (put s b') ∧
        onlyError p 0x22 s.blk b'))

/-- R47, R49: A read of the first word of a pair or group copies all its live words into the reading agent's shadow in one step, returns the
first, and clears it where it is clear-on-read; the other agent holds what it held. A read of a later word returns what the
shadow holds, or the agent's snapshot while one stands, and changes nothing else. A 64-bit read of a pair gives both live halves. -/
def Sys2Proof.Claim.groupReads : Prop :=
  ∀ (s : State) (ag : Agent) (a n p : Nat), a < 0x100000 → a % 4 = 0 → pageOf a = some p → a / 0x1000 = p →
    groupOf a = some (a, n) → s.blk.reach ag p = true →
    let word := fun (x : Nat) => Instr.readLo ag (.bar0 (BitVec.ofNat 24 x) .word)
    (p ∉ (s.blk.agent ag).bankPages → p ∉ s.blk.frozen →
      (∃ b', exec (word a) s = .next (put s b') ∧ (b'.agent ag).compl = liveReg ag s.blk a ∧
        (∀ i < n, mget 0 (b'.agent ag).shadow (a + 4 * i) = liveReg ag s.blk (a + 4 * i)) ∧
        (isRc a = true → b'.r a = 0 ∧ b'.r (a + 4) = 0) ∧ (isRc a = false → b'.regs = s.blk.regs) ∧
        regsKeptBut [a, a + 4] s.blk b' ∧ (∀ ag', ag' ≠ ag → b'.agent ag' = s.blk.agent ag')) ∧
      (n = 2 → ∃ b', exec (.readLo ag (.bar0 (BitVec.ofNat 24 a) .double)) s = .next (put s b') ∧
        (b'.agent ag).compl = liveReg ag s.blk a ∧ (b'.agent ag).complHi = liveReg ag s.blk (a + 4))) ∧
    (p ∉ (s.blk.agent ag).bankPages → ∀ i, 0 < i → i < n →
      exec (word (a + 4 * i)) s = .next (put s (answer ag (mget 0 (s.blk.agent ag).shadow (a + 4 * i)) s.blk))) ∧
    (p ∈ (s.blk.agent ag).bankPages → ∀ i < n,
      exec (word (a + 4 * i)) s = .next (put s (answer ag (mget 0 (s.blk.agent ag).bank (a + 4 * i)) s.blk)))

/-- R39: A narrow read has the effects of the read of its word and returns the selected bytes. -/
def Sys2Proof.Claim.narrowReads : Prop :=
  ∀ (s : State) (ag : Agent) (a : Nat) (n : Fin 4), a < 2 ^ 24 → ∃ b₁ b', 
    exec (.readLo ag (.bar0 (BitVec.ofNat 24 (a / 4 * 4)) .word)) s = .next (put s b₁) ∧
    exec (.readLo ag (.bar0 (BitVec.ofNat 24 a) (.narrow n))) s = .next (put s b') ∧ b'.regs = b₁.regs ∧
    (b'.agent ag).compl.toNat = (b₁.agent ag).compl.toNat / 2 ^ (8 * (a % 4)) % 2 ^ (8 * min n.val (4 - a % 4))

/-- R42, R261, R262: the host reads the Granary, Stook memory and the trend history through the windows of BAR2 and changes nothing else by it; the
side-band reads nothing there. A word of the Granary with an uncorrectable error reads 0xFFFF_FFFF. -/
def Sys2Proof.Claim.windowReads : Prop :=
  ∀ (s : State) (x : Nat), x < 0x4000000 → x % 4 = 0 → s.blk.hostUp = true →
    let word := fun (ag : Agent) (ue : BitVec 2) => Instr.readLo ag (.bar2 (BitVec.ofNat 26 x) .word ue)
    let stook := 0x40000000 + (s.blk.r (pg 0x80 0x040)).toNat % 1024 * 0x800000 + (x - 0x3000000)
    let trend := 0x240000000 + (s.blk.r (pg 0x80 0x044)).toNat % 512 * 0x800000 + (x - 0x3800000)
    let gives := fun (l : List Byte) => exec (word .host 0) s = .next (put s (answer .host (w32 (leAt l 0 4)) s.blk))
    (x < 0x3000000 → gives (readBytes s.blk.granMem x 4)) ∧
    (0x3000000 ≤ x → x < 0x3800000 → gives (readBytes s.blk.ddr stook 4)) ∧
    (0x3800000 ≤ x → gives (readBytes s.blk.ddr trend 4)) ∧
    (x < 0x3000000 → ∃ b', exec (word .host 1) s = .next (put s b') ∧ b'.host.compl = 0xFFFFFFFF#32) ∧
    (∀ ue, exec (word .side ue) s = .next s)

/-- R11, R46: A read of a 32-bit clear-on-read register returns its value and clears it, and a read of PG_ERR by either agent
returns the first code and the count and clears both; no other register changes. -/
def Sys2Proof.Claim.clearOnRead : Prop :=
  (∀ (s : State) (ag : Agent) (a p : Nat), a < 0x100000 → a % 4 = 0 → pageOf a = some p → a / 0x1000 = p → a % 0x1000 ≠ 0x01C →
    groupOf a = none → isRc a = true → s.blk.reach ag p = true → p ∉ s.blk.frozen →
    ∃ b', exec (.clearOnRead ag (BitVec.ofNat 24 a)) s = .next (put s b') ∧ (b'.agent ag).compl = liveReg ag s.blk a ∧
      b'.r a = 0 ∧ regsKeptBut [a] s.blk b') ∧
  (∀ (s : State) (ag : Agent) (page : BitVec 8), page.toNat ∈ allPages → s.blk.reach ag page.toNat = true →
    ∃ b', exec (.pgErrRead ag page) s = .next (put s b') ∧ (b'.agent ag).compl = s.blk.r (pg page.toNat 0x01C) ∧
      b'.r (pg page.toNat 0x01C) = 0 ∧ regsKeptBut [pg page.toNat 0x01C] s.blk b')

/-- R40, R42, R64: A write to BAR2, and the host's read or write of a BAR0 page that names no block, have no effect but code 0x07 in the HOST page,
which keeps the BAR and offset of the first such access; the read returns 0. -/
def Obligations.UnmappedAccessRecordsCodeSeven : Prop :=
  ∀ (s : State), s.blk.hostUp = true →
    let seven := fun (bar ofs : Nat) (b' : Block) => errorCounted 0x80 0x07 s.blk b' ∧
      regsKeptBut [pg 0x80 0x01C, pg 0x80 0x018, pg 0x80 0x050] s.blk b' ∧
      b'.r (pg 0x80 0x050) = (if s.blk.r (pg 0x80 0x050) = 0 then w32 (bar * 2 ^ 30 + ofs) else s.blk.r (pg 0x80 0x050)) ∧
      b'.granMem = s.blk.granMem ∧ b'.ddr = s.blk.ddr ∧ b'.mram = s.blk.mram ∧ b'.side = s.blk.side ∧ b'.silos = s.blk.silos
    (∀ (ofs : BitVec 26) (v : Word), ∃ b', exec (.bar2Write ofs v) s = .next (put s b') ∧ seven 2 (ofs.toNat / 4 * 4) b' ∧
      b'.host = s.blk.host) ∧
    (∀ a, a < 0x100000 → a % 4 = 0 → a / 0x1000 ∉ allPages →
      (∃ b', exec (.readLo .host (.bar0 (BitVec.ofNat 24 a) .word)) s = .next (put s b') ∧ seven 0 a b' ∧ b'.host.compl = 0) ∧
      (∀ v, ∃ b', exec (.regWrite .host (BitVec.ofNat 24 a) .word v) s = .next (put s b') ∧ seven 0 a b' ∧ b'.host = s.blk.host))

/-- R49, R53: TAKE counts in the writing agent's PG_SEQ and holds the live words of the page's pairs and groups in that agent's bank, on every
page that is not frozen and for either agent; a clear-on-read pair is cleared by it and no other register changes. RELEASE takes the
page out of the bank's pages. Neither changes what the other agent holds. -/
def Sys2Proof.Claim.snapshots : Prop :=
  ∀ (s : State) (ag : Agent) (page : BitVec 8) (rel : Bool), page.toNat ∈ allPages → s.blk.reach ag page.toNat = true →
    let p := page.toNat
    (p ∉ s.blk.frozen → ∃ b', exec (.pgSnapTake ag page rel) s = .next (put s b') ∧ p ∈ (b'.agent ag).bankPages ∧
      mget 0 (b'.agent ag).seq p = mget 0 (s.blk.agent ag).seq p + 1 ∧
      (∀ a n, a / 0x1000 = p → groupOf a = some (a, n) → ∀ i < n, mget 0 (b'.agent ag).bank (a + 4 * i) = liveReg ag s.blk (a + 4 * i)) ∧
      (∀ a, a / 0x1000 = p → groupOf a = some (a, 2) → isRc a = true → b'.r a = 0 ∧ b'.r (a + 4) = 0) ∧
      (∀ a, (a / 0x1000 = p → ∀ g n, groupOf a = some (g, n) → isRc g = false) → b'.r a = s.blk.r a) ∧
      (∀ ag', ag' ≠ ag → b'.agent ag' = s.blk.agent ag')) ∧
    (∃ b', exec (.pgSnapRelease ag page) s = .next (put s b') ∧ p ∉ (b'.agent ag).bankPages ∧
      b'.regs = s.blk.regs ∧ (∀ ag', ag' ≠ ag → b'.agent ag' = s.blk.agent ag'))

/-- R45, R53: FREEZE = 1 holds the page and FREEZE = 0 releases it; PG_CTL.FREEZE follows and every other register stays. While the page is
held, PG_STS reads as it stood. The side-band freezes and releases where PG_SBW admits PG_CTL, and is refused with code 0x02
elsewhere. -/
def Sys2Proof.Claim.freezes : Prop :=
  ∀ (s : State) (ag : Agent) (page : BitVec 8), page.toNat ∈ allPages → s.blk.reach ag page.toNat = true →
    let p := page.toNat
    (ag = .host ∨ sbwAllows p 0x008 = true →
      (p ∉ s.blk.frozen → ∃ b', exec (.freezeSet ag page) s = .next (put s b') ∧
        b'.frozen = p :: s.blk.frozen ∧ b'.t (pg p 0x008) 2 = true ∧
        mget 0 b'.held (pg p 0x00C) = liveReg .host s.blk (pg p 0x00C) ∧ regsKeptBut [pg p 0x008] s.blk b') ∧
      (∃ b', exec (.freezeRelease ag page) s = .next (put s b') ∧ p ∉ b'.frozen ∧
        b'.t (pg p 0x008) 2 = false ∧ regsKeptBut [pg p 0x008] s.blk b')) ∧
    (ag = .side → sbwAllows p 0x008 = false →
      (∃ b', exec (.freezeSet ag page) s = .next (put s b') ∧ onlyError p 0x02 s.blk b' ∧ b'.frozen = s.blk.frozen) ∧
      (∃ b', exec (.freezeRelease ag page) s = .next (put s b') ∧ onlyError p 0x02 s.blk b' ∧ b'.frozen = s.blk.frozen)) ∧
    (p ∈ s.blk.frozen → exec (.readLo ag (.bar0 (BitVec.ofNat 24 (pg p 0x00C)) .word)) s =
      .next (put s (answer ag (mget 0 s.blk.held (pg p 0x00C)) s.blk)))

/-- R51, R53, R593: either agent closes a lock on every page; only the host opens one, in an owner session and while no update
holds it; a refused write of 0 leaves LOCK as it was and records code 0x01, where LOCK is already 0 as well (that last is the model's
reading, log entry 190). -/
def Obligations.OwnerLockClosesForBothOpensForOwner : Prop :=
  ∀ (s : State) (ag : Agent) (page : BitVec 8), page.toNat ∈ allPages → s.blk.reach ag page.toNat = true →
    (∃ b', exec (.lockClose ag page) s = .next (put s b') ∧ b'.locked page.toNat = true ∧
      regsKeptBut [pg page.toNat 0x028] s.blk b') ∧
    (ag = .host → s.blk.keys.session.isSome = true → lockHeld s.blk = false → ∃ b',
      exec (.lockOpen ag page) s = .next (put s b') ∧ b'.locked page.toNat = false ∧
      regsKeptBut [pg page.toNat 0x028] s.blk b') ∧
    (ag = .side ∨ s.blk.keys.session.isSome = false ∨ lockHeld s.blk = true → ∃ b',
      exec (.lockOpen ag page) s = .next (put s b') ∧ b'.locked page.toNat = s.blk.locked page.toNat ∧ onlyError page.toNat 0x01 s.blk b')

/-- R53, R57: A write of PG_IRQ clears the bits written, on every page for either agent, and the group's message goes out
again where the group stays pending and its vector is not masked; a vector unmasked loses its pending bit and sends once where that bit
was set and its group is pending. -/
def Obligations.InterruptClearAndUnmaskResend : Prop :=
  (∀ (s : State) (ag : Agent) (page : BitVec 8) (v : Word) (k : Nat), page.toNat ∈ allPages → s.blk.reach ag page.toNat = true →
    vecOf page.toNat = some k → ∃ b', exec (.irqClear ag page v) s = .next (put s b') ∧
      b'.r (pg page.toNat 0x018) = s.blk.r (pg page.toNat 0x018) &&& ~~~v ∧ regsKeptBut [pg page.toNat 0x018] s.blk b' ∧
      (grpPending b' k = true → s.blk.msixMask.getLsbD k = false → b'.out = s.blk.out ++ [.msix k]) ∧
      (grpPending b' k = false → b'.out = s.blk.out ∧ b'.msixPend = s.blk.msixPend)) ∧
  (∀ (s : State) (k : Fin 64), s.blk.hostUp = true → ∃ b', exec (.msixUnmask k) s = .next (put s b') ∧
      b'.msixMask.getLsbD k.val = false ∧ b'.msixPend.getLsbD k.val = false ∧ b'.regs = s.blk.regs ∧
      b'.out = (if s.blk.msixPend.getLsbD k.val = true ∧ grpPending s.blk k.val = true then s.blk.out ++ [.msix k.val] else s.blk.out))

/-- R11, R39, R42, R46, R47: reads fill shadows and return what stands, narrow and wide, in BAR0 and through the windows of BAR2; a clear-on-read register clears. -/
def Obligations.ReadsFillShadowsAndClear : Prop := groupReads ∧ narrowReads ∧ windowReads ∧ clearOnRead
/-- R45, R49, R53: each agent's snapshot is its own; FREEZE holds a page and releases it. -/
def Obligations.SnapshotsAndFreezeHoldThePage : Prop := snapshots ∧ freezes

/-! The side-band port (R59–R65). -/

/-- The port holds a response, ready after so many microseconds. -/
def Sys2Proof.Claim.holds (b c : Block) (us status : Nat) (tag : Byte) (data : List Byte) : Prop :=
  c.sb.resp = some { status := status, tag := tag, data := data, readyAt := b.mono + us * 1000 * 65536, ready := false }
/-- A good frame arrives at a port that is awake and holds no response. -/
def Sys2Proof.Claim.arrives (b : Block) (op : Nat) (h : SbHeader) (data : List Byte) (crc : Half) : Prop :=
  b.aon = true ∧ crc16 ([BitVec.ofNat 8 op, h.page] ++ beBytes 3 h.ofs.toNat ++ beBytes 2 h.len.toNat ++ [h.tag] ++ data) = crc.toNat ∧
    b.sb.resp = none

/-- R46, R60, R61: A side-band READ answers after 20 µs: a READ of PG_ERR answers its
bytes and clears it. A LENGTH that is not allowed answers status 0x07, a range beyond the page 0x04, and no register but the counter of
good frames changes. -/
def Sys2Proof.Claim.sideReads : Prop :=
  ∀ (s : State) (h : SbHeader) (crc : Half), arrives s.blk 0x01 h [] crc →
    (h.page.toNat ∈ allPages → h.ofs = 0x01C → h.len = 4 → s.blk.reach .side h.page.toNat = true → ∃ b',
      exec (.sbRead h crc) s = .next (put s b') ∧
      holds s.blk b' 20 0 h.tag (leBytes 4 (s.blk.r (pg h.page.toNat 0x01C)).toNat) ∧ b'.r (pg h.page.toNat 0x01C) = 0 ∧
      regsKeptBut [pg h.page.toNat 0x01C, pg 0x81 0x050, pg 0x81 0x054] s.blk b') ∧
    (h.len.toNat < 4 ∨ 4096 < h.len.toNat ∨ h.len.toNat % 4 ≠ 0 → ∃ b', exec (.sbRead h crc) s = .next (put s b') ∧
      holds s.blk b' 20 0x07 h.tag [] ∧ regsKeptBut [pg 0x81 0x050, pg 0x81 0x054] s.blk b') ∧
    (s.blk.dev.st ≠ .keep → h.page ≠ 0xFF → 4 ≤ h.len.toNat → h.len.toNat ≤ 4096 → h.len.toNat % 4 = 0 →
      0x1000 < h.ofs.toNat + h.len.toNat → ∃ b', exec (.sbRead h crc) s = .next (put s b') ∧
      holds s.blk b' 20 0x04 h.tag [] ∧ regsKeptBut [pg 0x81 0x050, pg 0x81 0x054] s.blk b')

/-- R51, R53, R61: A side-band WRITE closes a lock on every page and clears PG_IRQ bits on every page with status 0x00; it
opens no lock (status 0x06, code 0x01) and writes no table (status 0x05, code 0x02 in the table's page). -/
def Sys2Proof.Claim.sideWrites : Prop :=
  ∀ (s : State) (h : SbHeader) (v : Word) (crc : Half), arrives s.blk 0x02 h (leBytes 4 v.toNat) crc → h.len = 4 →
    let p := h.page.toNat
    (p ∈ allPages → s.blk.reach .side p = true →
      (h.ofs = 0x018 → ∃ b', exec (.sbWrite h (leBytes 4 v.toNat) crc) s = .next (put s b') ∧ holds s.blk b' 2 0 h.tag [] ∧
        b'.r (pg p 0x018) = s.blk.r (pg p 0x018) &&& ~~~v) ∧
      (h.ofs = 0x028 → bitAt v 0 = true → ∃ b', exec (.sbWrite h (leBytes 4 v.toNat) crc) s = .next (put s b') ∧
        holds s.blk b' 2 0 h.tag [] ∧ b'.locked p = true) ∧
      (h.ofs = 0x028 → bitAt v 0 = false → ∃ b', exec (.sbWrite h (leBytes 4 v.toNat) crc) s = .next (put s b') ∧
        holds s.blk b' 2 0x06 h.tag [] ∧ b'.locked p = s.blk.locked p ∧ errorCounted p 0x01 s.blk b')) ∧
    (h.page = 0xFF → s.blk.dev.st ≠ .keep → h.ofs.toNat % 4 = 0 → ∀ p, tablePage (0x100000 + h.ofs.toNat) = some p → ∃ b',
      exec (.sbWrite h (leBytes 4 v.toNat) crc) s = .next (put s b') ∧ holds s.blk b' 2 0x05 h.tag [] ∧
      errorCounted p 0x02 s.blk b' ∧ (∀ a, 0x100000 ≤ a → b'.r a = s.blk.r a) ∧ b'.staged = s.blk.staged)

/-- R60, R61: FETCH drives status 0x08 with its own TAG where no response is held, 0x01 with LENGTH 0 and the TAG of the pending command where it
is not ready (these two TAGs are the model's choice, log entry 191), and else the response, which then goes; status, tag, LENGTH and
data come first, a CRC over them last. -/
def Sys2Proof.Claim.fetches : Prop :=
  ∀ (s : State) (h : SbHeader) (crc : Half), s.blk.aon = true →
    crc16 ([0x03, h.page] ++ beBytes 3 h.ofs.toNat ++ beBytes 2 h.len.toNat ++ [h.tag]) = crc.toNat →
    let drives := fun (c : Block) (l : List Byte) => c.sb.lastOut = l ++ beBytes 2 (crc16 l)
    (s.blk.sb.resp = none → ∃ b', exec (.sbFetch h crc) s = .next (put s b') ∧ drives b' [0x08, h.tag, 0, 0] ∧ b'.sb.resp = none) ∧
    (∀ r, s.blk.sb.resp = some r → r.ready = false → ∃ b', exec (.sbFetch h crc) s = .next (put s b') ∧
      drives b' [0x01, r.tag, 0, 0] ∧ b'.sb.resp = some r) ∧
    (∀ r, s.blk.sb.resp = some r → r.ready = true → ∃ b', exec (.sbFetch h crc) s = .next (put s b') ∧
      drives b' ([BitVec.ofNat 8 r.status, r.tag] ++ beBytes 2 r.data.length ++ r.data) ∧ b'.sb.resp = none)

/-- R60, R61: A guarded request answers status 0x00 and waits until its response is ready, then it acts: FORCE_KEEP brings
the part from Run or Idle into Keep, WARM_RESET starts a warm reset; a wrong guard answers 0x09 and asks nothing. -/
def Sys2Proof.Claim.guardedRequests : Prop :=
  (∀ (s : State) (h : SbHeader) (crc : Half),
    (arrives s.blk 0x04 h [] crc → h.ofs = 0x4B4550 → ∃ b', exec (.sbForceKeep h crc) s = .next (put s b') ∧
      holds s.blk b' 2 0 h.tag [] ∧ b'.sb.due = s.blk.sb.due ++ [(s.blk.mono + 2000 * 65536, .keep)] ∧ b'.dev = s.blk.dev) ∧
    (arrives s.blk 0x05 h [] crc → h.ofs = 0x575253 → ∃ b', exec (.sbWarmReset h crc) s = .next (put s b') ∧
      holds s.blk b' 2 0 h.tag [] ∧ b'.sb.due = s.blk.sb.due ++ [(s.blk.mono + 2000 * 65536, .warm)] ∧ b'.dev = s.blk.dev) ∧
    (arrives s.blk 0x04 h [] crc → h.ofs ≠ 0x4B4550 → ∃ b', exec (.sbForceKeep h crc) s = .next (put s b') ∧
      holds s.blk b' 2 0x09 h.tag [] ∧ b'.sb.due = s.blk.sb.due) ∧
    (arrives s.blk 0x05 h [] crc → h.ofs ≠ 0x575253 → ∃ b', exec (.sbWarmReset h crc) s = .next (put s b') ∧
      holds s.blk b' 2 0x09 h.tag [] ∧ b'.sb.due = s.blk.sb.due)) ∧
  (∀ (s : State) (r : SbResponse) (t : Gt) (q : SbRequest), s.blk.aon = true → s.blk.sb.resp = some r →
    s.blk.sb.due = [(t, q)] →
    (s.blk.mono < t → s.blk.mono < r.readyAt → r.ready = false → exec .sbResponseReady s = .next s) ∧
    (t ≤ s.blk.mono → r.readyAt ≤ s.blk.mono → ∃ b', exec .sbResponseReady s = .next (put s b') ∧
      b'.sb.resp = some { r with ready := true } ∧ b'.sb.due = [] ∧
      (q = .keep → s.blk.dev.st = .run ∨ s.blk.dev.st = .idle → b'.dev.st = .keep) ∧
      (q = .warm → b'.dev.warm = true)))

/-- R61, R65, R197: MBOX_POP answers the oldest entry of silo 63, or LENGTH 0 with UNDERRUN where it is empty; an unknown
operation answers status 0x03; a bad CRC answers 0x02 and counts in SBM_CRC_ERR; a transaction cut off in a byte counts in
SBM_LOST; a command discards a response that is held unfetched and counts it there. -/
def Sys2Proof.Claim.mailboxUnknown : Prop :=
  ∀ (s : State) (h : SbHeader) (op : Byte) (crc : Half),
    (∀ mk e rest, arrives s.blk 0x06 h [] crc → s.blk.dev.st ≠ .keep → s.blk.inReset 0x13 = false →
      (s.blk.silo 63).q = (mk, e) :: rest → mk = false ∨ (s.blk.silo 63).defer = 0 → ∃ b',
      exec (.sbMboxPop h crc) s = .next (put s b') ∧ holds s.blk b' 2 0 h.tag e ∧ (b'.silo 63).q = rest) ∧
    (arrives s.blk 0x06 h [] crc → s.blk.dev.st ≠ .keep → s.blk.inReset 0x13 = false → (s.blk.silo 63).q = [] → ∃ b',
      exec (.sbMboxPop h crc) s = .next (put s b') ∧ holds s.blk b' 2 0 h.tag [] ∧ b'.t (sqFlags 63) 1 = true) ∧
    (arrives s.blk op.toNat h [] crc → sbKnownOp op = false → ∃ b', exec (.sbUnknownOp op h crc) s = .next (put s b') ∧
      holds s.blk b' 2 0x03 h.tag [] ∧ regsKeptBut [pg 0x81 0x050, pg 0x81 0x054] s.blk b') ∧
    (s.blk.aon = true → sbKnownOp op = false → sbGood op.toNat h [] crc = false → s.blk.sb.resp = none → ∃ b',
      exec (.sbUnknownOp op h crc) s = .next (put s b') ∧ holds s.blk b' 2 0x02 h.tag [] ∧
      b'.r (pg 0x81 0x048) = satInc (s.blk.r (pg 0x81 0x048)) ∧ regsKeptBut [pg 0x81 0x048] s.blk b') ∧
    (s.blk.aon = true → sbKnownOp op = false → sbGood op.toNat h [] crc = true → s.blk.sb.resp.isSome = true → ∃ b',
      exec (.sbUnknownOp op h crc) s = .next (put s b') ∧ holds s.blk b' 2 0x03 h.tag [] ∧
      b'.r (pg 0x81 0x04C) = satInc (s.blk.r (pg 0x81 0x04C))) ∧
    (s.blk.aon = true → ∃ b', exec .sbCutTransaction s = .next (put s b') ∧
      b'.r (pg 0x81 0x04C) = satInc (s.blk.r (pg 0x81 0x04C)) ∧ regsKeptBut [pg 0x81 0x04C] s.blk b' ∧ b'.sb = s.blk.sb)

/-- R61, R65: A command whose CRC is bad answers status 0x02 after 2 µs, counts in SBM_CRC_ERR and changes no other register. -/
def Sys2Proof.Claim.badFrames : Prop :=
  ∀ (s : State) (h : SbHeader) (data : List Byte) (crc : Half), s.blk.aon = true → s.blk.sb.resp = none →
    let bad := fun (op : Nat) (l : List Byte) =>
      crc16 ([BitVec.ofNat 8 op, h.page] ++ beBytes 3 h.ofs.toNat ++ beBytes 2 h.len.toNat ++ [h.tag] ++ l) ≠ crc.toNat
    let refused := fun (c : Instr) => ∃ b', exec c s = .next (put s b') ∧ holds s.blk b' 2 0x02 h.tag [] ∧
      b'.r (pg 0x81 0x048) = satInc (s.blk.r (pg 0x81 0x048)) ∧ regsKeptBut [pg 0x81 0x048] s.blk b'
    (bad 0x01 [] → refused (.sbRead h crc)) ∧ (bad 0x02 data → refused (.sbWrite h data crc)) ∧
    (bad 0x03 [] → refused (.sbFetch h crc)) ∧ (bad 0x04 [] → refused (.sbForceKeep h crc)) ∧
    (bad 0x05 [] → refused (.sbWarmReset h crc)) ∧ (bad 0x06 [] → refused (.sbMboxPop h crc))

/-- R53, R60, R61: A side-band READ answers what the words read, and a WRITE is limited; a damaged command is refused. -/
def Obligations.SideBandReadsAndLimitedWrites : Prop := sideReads ∧ sideWrites ∧ badFrames
/-- R60, R61, R65, R197: A fetch drives the held response; guarded requests act when the response is ready; the mailbox, unknown
commands and damaged ones. -/
def Obligations.SideBandFetchGuardedAndMailbox : Prop := fetches ∧ guardedRequests ∧ mailboxUnknown
/-! The operating mode, states and resets (R25–R31, R503–R518). -/

/-- A time that is an instant of a rate of f bales a second (R239). -/
def Sys2Proof.Claim.isInstant (f : Nat) (t : Gt) : Prop := ∃ sec k, k < f ∧ t = mkGt sec (instNs f k)

/-- R28–R32: an accepted MODE_CTL write fixes T_eff at the lead rate's first instant later than now, MODE_EFF_IDX shows its bale, and
the mode waits for it; with no rate it is in force at once. At T_eff the mode is in force and nothing waits. A request while one waits
records code 0x21, during an update's shadow or probation 0x22, on a member linked or detached 0x23, on a standby that is neither 0x24, in
a locked page 0x01, and none of these changes a mode. -/
def Sys2Proof.Claim.modeRequests : Prop :=
  ∀ (s : State) (ag : Agent) (v : Word),
    let refused := fun (code : Nat) => ∃ b', exec (.modeRequest ag v) s = .next (put s b') ∧ b'.mode = s.blk.mode ∧
      onlyError 0x00 code s.blk b'
    let busy := s.blk.upd.phase = 6 ∨ s.blk.upd.phase = 7
    let fixed := s.blk.member = true ∧ (s.blk.linked = true ∨ s.blk.pair.role = .detached)
    (acceptsL s.blk ag 0x00 0x040 → s.blk.mode.pend = none → ¬ busy → ¬ fixed → (s.blk.member = true → s.blk.pair.role = .active) →
      (leadRate s.blk = none → ∃ b', exec (.modeRequest ag v) s = .next (put s b') ∧
        b'.mode.govern = v.getLsbD 0 ∧ b'.mode.shown = v.getLsbD 0 ∧ b'.mode.pend = none ∧ b'.t (pg 0x00 0x040) 0 = v.getLsbD 0) ∧
      (∀ r, leadRate s.blk = some r → 0 < s.blk.rateHz r → ∃ b' te, exec (.modeRequest ag v) s = .next (put s b') ∧
        b'.mode = { s.blk.mode with pend := some (v.getLsbD 0, te) } ∧ b'.r (pg 0x00 0x048) = w32 (baleIndex (s.blk.rateHz r) te) ∧
        isInstant (s.blk.rateHz r) te ∧ s.blk.now < te ∧ ∀ t, isInstant (s.blk.rateHz r) t → s.blk.now < t → te ≤ t)) ∧
    (acceptsL s.blk ag 0x00 0x040 →
      (s.blk.mode.pend.isSome = true → refused 0x21) ∧
      (s.blk.mode.pend = none → busy → refused 0x22) ∧
      (s.blk.mode.pend = none → ¬ busy → fixed → refused 0x23) ∧
      (s.blk.mode.pend = none → ¬ busy → ¬ fixed → s.blk.member = true → s.blk.pair.role ≠ .active → refused 0x24)) ∧
    (accepts s.blk ag 0x00 0x040 → s.blk.locked 0x00 = true → refused 0x01) ∧
    (∀ m te r, s.blk.mode.pend = some (m, te) → leadRate s.blk = some r → s.blk.running = true →
      (te ≤ s.blk.mark → ∃ b', exec .modeChange s = .next (put s b') ∧ b'.mode.govern = m ∧ b'.mode.pend = none ∧
        (m ≠ s.blk.mode.govern → b'.mode.changes = (te, m) :: s.blk.mode.changes)) ∧
      (s.blk.mark < te → exec .modeChange s = .next s))

/-- R25: a slice that overruns sets FAULT in its unit's page, is counted, raises the page's cause and is marked late. -/
def Sys2Proof.Claim.sliceOverruns : Prop :=
  ∀ (s : State), s.blk.up = true →
    let late := fun (u : SliceUnit) (p count cause : Nat) (P : Block → Prop) => ∃ b', exec (.sliceOverrun u) s = .next (put s b') ∧
      b'.t (pg p 0x00C) 3 = true ∧ b'.r (pg p count) = satInc (s.blk.r (pg p count)) ∧ b'.t (pg p 0x018) cause = true ∧ P b'
    late .estimator 0x24 0x058 1 (fun b' => ∃ m, b'.chain.late = s.blk.chain.late ++ [m]) ∧
    late .oscillation 0x28 0x04C 3 (fun b' => b'.osc.late = true) ∧
    late .islanding 0x29 0x05C 2 (fun b' => b'.isl.late = true)

/-- R507, R508, R97: a BRST write or the VAA supervisor puts pages in block reset, in which FREEZE is 0, and the end of it takes a page
out, unless VAA still holds it. A mode request to DEV in block reset has no effect but code 0x08. -/
def Sys2Proof.Claim.blockResets : Prop :=
  ∀ (s : State) (ag : Agent) (page : BitVec 8) (up : BitVec 5),
    let p := page.toNat
    let vaa := (p = 0x20 ∨ p = 0x21) ∧ (3 : Fin 5) ∈ s.blk.supply.low ∧ up.getLsbD 3 = false
    (p ∈ allPages → s.blk.up = true → s.blk.reach ag p = true → s.blk.dev.link = false →
      (ag = .host ∨ sbwAllows p 0x008 = true → s.blk.inReset p = false → ∃ b',
        exec (.blockReset (.brst ag page)) s = .next (put s b') ∧ b'.inReset p = true ∧
        b'.t (pg p 0x008) 2 = false ∧ p ∉ b'.frozen) ∧
      (ag = .side → sbwAllows p 0x008 = false → ∃ b', exec (.blockReset (.brst ag page)) s = .next (put s b') ∧
        onlyError p 0x02 s.blk b' ∧ b'.dev = s.blk.dev)) ∧
    (s.blk.up = true → ∃ b', exec (.blockReset .vaa) s = .next (put s b') ∧ b'.inReset 0x20 = true ∧ b'.inReset 0x21 = true) ∧
    (s.blk.inReset p = true →
      (¬ vaa → ∃ b', exec (.blockResetEnd page up) s = .next (put s b') ∧
        b'.inReset p = false ∧ ∀ q, q ≠ p → b'.inReset q = s.blk.inReset q) ∧
      (vaa → ∃ b', exec (.blockResetEnd page up) s = .next (put s b') ∧ b'.dev = s.blk.dev)) ∧
    (s.blk.inReset p = false → exec (.blockResetEnd page up) s = .next s) ∧
    (∀ v, s.blk.hostUp = true → s.blk.inReset 0x00 = true → ∃ b', exec (.modeRequest .host v) s = .next (put s b') ∧
      onlyError 0x00 0x08 s.blk b' ∧ b'.mode = s.blk.mode)

/-- A supply of these still holds its matching reset (R97). -/
def Sys2Proof.Claim.holdsReset (b : Block) (up : BitVec 5) (l : List (Fin 5)) : Prop :=
  ∃ i ∈ l, i ∈ b.supply.low ∧ up.getLsbD i.val = false

/-- R74, R77, R78, R97, R505, R507: power-on, a supervisor or POR_N low for 10 µs or more starts a cold reset, a shorter than 100 ns
pulse does not; the counter then stands at 0 with VALID 0, and MRAM and the settings slots keep what they hold. Its end samples the
straps and starts the part, up to the warm reset that RST_N low, VIO or VDD_CORE holds; with TEST_EN high, or while VDD_AON or the
LPDDR5X's supply holds it, the part stays in it. Without supplies the part is Off. -/
def Sys2Proof.Claim.coldResets : Prop :=
  ∀ (s : State),
    (let cold := fun (c : ColdSrc) (cause : Nat) => ∃ b', exec (.coldReset c) s = .next (put s b') ∧ b'.dev.cold = true ∧
      b'.dev.st = .starting ∧ b'.dev.cause = cause ∧ b'.time.ctr = 0 ∧ b'.time.valid = false ∧
      b'.balls.inact = false ∧ b'.settings.slots = s.blk.settings.slots ∧ b'.mram = s.blk.mram
     cold .powerOn 1 ∧ (s.blk.dev.st ≠ .off → cold .supervisor 2 ∧ ∀ ns, 10000 ≤ ns → cold (.porN ns) 1)) ∧
    (∀ ns, ns < 100 → exec (.coldReset (.porN ns)) s = .next s) ∧
    (∀ rstN up, s.blk.dev.cold = true → s.blk.dev.st ≠ .off →
      (s.blk.dev.testEn = false → ¬ holdsReset s.blk up [0, 1] → ∃ b',
        exec (.coldResetEnd rstN up) s = .next (put s b') ∧ b'.dev.cold = false ∧ b'.dev.step = .puf ∧
        (b'.dev.warm = true ↔ rstN = false ∨ holdsReset s.blk up [2, 4]) ∧
        b'.f (pg 0x00 0x050) 3 0 = s.blk.dev.strapBalls.toNat ∧ b'.r (pg 0x00 0x08C) = w32 s.blk.dev.cause) ∧
      (s.blk.dev.testEn = true ∨ holdsReset s.blk up [0, 1] → ∃ b', exec (.coldResetEnd rstN up) s = .next (put s b') ∧
        b'.dev = s.blk.dev)) ∧
    (∃ b', exec .powerRemoved s = .next (put s b') ∧ b'.dev.st = .off ∧
      b'.mram = s.blk.mram ∧ b'.settings.slots = s.blk.settings.slots)

/-- R84, R505, R510, R514, R518: the start runs in its order: root, image, settings with the balls at INACT, and then the part
enters its state: Run or Idle, Idle after a third watchdog reset. It does not complete while the LPDDR5X has not trained, SDS_REFCLK or
SDS_RCAL is missing, or XO_IN is lost. -/
def Sys2Proof.Claim.starts : Prop :=
  ∀ (s : State), s.blk.aon = true →
    (∀ reads bad, s.blk.dev.step = .puf → ∃ b', exec (.pufRegenerate reads bad) s = .next (put s b') ∧ b'.dev.step = .image) ∧
    (∀ bA bB, s.blk.dev.step = .image → ∃ b', exec (.imageVerify bA bB) s = .next (put s b') ∧
      (bA = false → bB = false → b'.dev.step = .settings) ∧ (bA = true → bB = true → b'.dev.step = .dead)) ∧
    (∀ bad vout, s.blk.dev.step = .settings → ∃ b', exec (.settingsRestore bad vout) s = .next (put s b') ∧ b'.dev.step = .launch ∧
      b'.balls.inact = true ∧ b'.supply.avsOn = true ∧
      (restorePick s.blk bad = none → b'.dev.target = .idle ∧ b'.t (pg 0x00 0x104) 29 = true)) ∧
    (s.blk.dev.step = .launch → s.blk.dev.warm = false →
      (s.blk.time.xo = true → s.blk.dev.waiting = none → ∃ b',
        exec (.startComplete true true) s = .next (put s b') ∧ b'.dev.step = .done ∧ b'.dev.wdogIdle = false ∧
        b'.dev.st = (if s.blk.dev.wdogIdle = true then .idle else s.blk.dev.target)) ∧
      (∀ trained serdes, trained = false ∨ serdes = false ∨ s.blk.time.xo = false →
        exec (.startComplete trained serdes) s = .next s))

/-- R97, R507–R510: RST_N low for 1 µs or more, a guarded RST_REQ or the watchdog starts a warm reset of Run or Idle, which ends
when RST_N is high and neither VIO nor VDD_CORE holds it; RST_CAUSE then tells its source. A wrong guard records code 0x25. A watchdog
reset that follows two within 600 s of always-on time while VALID is 0, or of grid time, ends in Idle. -/
def Obligations.WarmResetStopsTheDataPath : Prop :=
  ∀ (s : State),
    (let warm := fun (c : Instr) (cause : Nat) => ∃ b', exec c s = .next (put s b') ∧ b'.dev.warm = true ∧
      b'.dev.cause = cause ∧ b'.dev.st = .starting ∧ b'.dev.target = s.blk.dev.st ∧ b'.msixMask = BitVec.allOnes 64 ∧
      b'.dev.cold = false
     s.blk.up = true →
      (∀ ns, 1000 ≤ ns → warm (.warmReset ns) 3) ∧
      (∀ ag, accepts s.blk ag 0x00 0x088 → warm (.rstReqWarm ag 0x5752) (if ag = .host then 5 else 4)) ∧
      warm .watchdogExpire 7 ∧
      (∀ g₁ g₂ m₁ m₂, s.blk.dev.wdogAt = [(g₁, m₁), (g₂, m₂)] →
        (s.blk.time.valid = false ∨ g₂ = none → s.blk.mono ≤ m₂ + 600 * gtSec → ∃ b',
          exec .watchdogExpire s = .next (put s b') ∧ b'.dev.wdogIdle = true) ∧
        (∀ t, s.blk.time.valid = true → g₂ = some t → s.blk.now ≤ t + 600 * gtSec → ∃ b',
          exec .watchdogExpire s = .next (put s b') ∧ b'.dev.wdogIdle = true))) ∧
    (∀ ns, ns < 100 → exec (.warmReset ns) s = .next s) ∧
    (∀ ag guard, accepts s.blk ag 0x00 0x088 → guard ≠ 0x5752 → ∃ b', exec (.rstReqWarm ag guard) s = .next (put s b') ∧
      onlyError 0x00 0x25 s.blk b' ∧ b'.dev = s.blk.dev) ∧
    (s.blk.dev.warm = true → ∀ up,
      (¬ holdsReset s.blk up [2, 4] → ∃ b', exec (.warmResetEnd true up) s = .next (put s b') ∧ b'.dev.warm = false ∧
        b'.r (pg 0x00 0x08C) = w32 s.blk.dev.cause) ∧
      (holdsReset s.blk up [2, 4] → ∃ b', exec (.warmResetEnd true up) s = .next (put s b') ∧ b'.dev = s.blk.dev) ∧
      (∃ b', exec (.warmResetEnd false up) s = .next (put s b') ∧ b'.dev = s.blk.dev))

/-- R73, R75, R80, R507: a link reset holds the HOST function, masks every vector and returns the host's recorder cursor to 0; its
end changes nothing but that. In Keep it is ignored. A strap that comes to differ from its latched level is recorded once. -/
def Sys2Proof.Claim.linkResets : Prop :=
  ∀ (s : State),
    (∀ src, s.blk.aon = true → s.blk.dev.st ≠ .keep → s.blk.dev.warm = false → s.blk.dev.link = false → ∃ b',
      exec (.linkReset src) s = .next (put s b') ∧
      b'.dev.link = true ∧ b'.msixMask = BitVec.allOnes 64 ∧ b'.msixPend = 0 ∧ b'.host.evrCur = 0 ∧ b'.dev.st = s.blk.dev.st ∧
      (src = .perstLow → b'.balls.perstN = false) ∧ b'.granMem = s.blk.granMem) ∧
    (∀ src, s.blk.dev.st = .keep → exec (.linkReset src) s = .next (put s { s.blk with
      balls := { s.blk.balls with perstN := if src = .perstLow then false else s.blk.balls.perstN } })) ∧
    (exec .linkResetEnd s = .next (put s { s.blk with
      balls := { s.blk.balls with perstN := true }, dev := { s.blk.dev with link := false } })) ∧
    (∀ levels, let latched := s.blk.f (pg 0x00 0x050) 3 0
      (s.blk.aon = true → s.blk.dev.strapBalls.toNat = latched → levels.toNat ≠ latched → ∃ b',
        exec (.strapChange levels) s = .next (put s b') ∧ b'.dev.strapBalls = levels ∧ recorded 0x007 latched levels.toNat s.blk b' ∧
        b'.regs = s.blk.regs) ∧
      (s.blk.dev.strapBalls.toNat ≠ latched ∨ levels.toNat = latched →
        exec (.strapChange levels) s = .next (put s { s.blk with dev := { s.blk.dev with strapBalls := levels } })))

/-- R504, R505: STATE_REQ with its guard brings Run to Idle, Idle to Run and either to Keep; the side-band brings Keep back to
the state it was entered from. A request that waits for a start stays, one for the present state records code 0x26, and a
wrong guard code 0x25. -/
def Sys2Proof.Claim.stateRequests : Prop :=
  ∀ (s : State) (ag : Agent), accepts s.blk ag 0x00 0x084 →
    let dst := fun (c : Half → Instr) (st : PowerSt) => ∃ b', exec (c 0x5354) s = .next (put s b') ∧ b'.dev.st = st ∧
      b'.dev.prev = s.blk.dev.st ∧ b'.dev.blocks = (if st = .keep then [] else s.blk.dev.blocks)
    let same := fun (c : Half → Instr) => ∃ b', exec (c 0x5354) s = .next (put s b') ∧ onlyError 0x00 0x26 s.blk b' ∧ b'.dev = s.blk.dev
    let waits := fun (c : Half → Instr) (st : PowerSt) => exec (c 0x5354) s =
      .next (put s { s.blk with dev := { s.blk.dev with waiting := some (st, if ag = .host then 0 else 1) } })
    let wrong := fun (c : Half → Instr) => ∀ guard, guard ≠ 0x5354 → ∃ b', exec (c guard) s = .next (put s b') ∧
      onlyError 0x00 0x25 s.blk b' ∧ b'.dev = s.blk.dev
    (s.blk.dev.st = .run → dst (.stateReqIdle ag) .idle ∧ dst (.stateReqKeep ag) .keep ∧ same (.stateReqRun ag)) ∧
    (s.blk.dev.st = .idle → dst (.stateReqRun ag) .run ∧ dst (.stateReqKeep ag) .keep ∧ same (.stateReqIdle ag)) ∧
    (s.blk.dev.st = .keep → same (.stateReqKeep ag) ∧
      (s.blk.dev.keepFrom ≠ .keep → dst (.stateReqRun ag) s.blk.dev.keepFrom ∧ dst (.stateReqIdle ag) s.blk.dev.keepFrom)) ∧
    (s.blk.dev.st = .starting → waits (.stateReqRun ag) .run ∧ waits (.stateReqIdle ag) .idle ∧ waits (.stateReqKeep ag) .keep) ∧
    wrong (.stateReqRun ag) ∧ wrong (.stateReqIdle ag) ∧ wrong (.stateReqKeep ag)

/-- R512, R513, R98: SET_CMD with its guard snapshots every working setting at once with a generation one higher; in brace it
waits; a second one records code 0x27, one while an update holds the slot 0x28, one with a wrong guard 0x25. The
commit record makes the other slot active; in brace it waits. -/
def Sys2Proof.Claim.settingsCommits : Prop :=
  ∀ (s : State),
    let refused := fun (ag : Agent) (guard : Half) (code : Nat) => ∃ b', exec (.settingsCommit ag guard) s = .next (put s b') ∧
      b'.settings = s.blk.settings ∧ errorCounted 0x00 code s.blk b' ∧ b'.f (pg 0x00 0x104) 7 0 = code
    (∀ ag, accepts s.blk ag 0x00 0x100 → s.blk.dev.st ≠ .keep → s.blk.settings.writing = none → s.blk.settings.deferred = false →
      s.blk.upd.slotHeld = false →
      (s.blk.supply.brace = false → ∃ b' w, exec (.settingsCommit ag 0x4354) s = .next (put s b') ∧ b'.settings.writing = some w ∧
        w.gen = s.blk.settings.slots[s.blk.settings.active].gen + 1 ∧ w.words = settingWords s.blk ∧ w.written = true ∧
        b'.t (pg 0x00 0x104) 31 = true) ∧
      (s.blk.supply.brace = true → ∃ b', exec (.settingsCommit ag 0x4354) s = .next (put s b') ∧ b'.settings.deferred = true ∧
        b'.settings.writing = none ∧ b'.t (pg 0x00 0x104) 30 = true)) ∧
    (∀ ag, accepts s.blk ag 0x00 0x100 →
      (∀ guard, guard ≠ 0x4354 → refused ag guard 0x25) ∧
      (s.blk.dev.st ≠ .keep → s.blk.settings.writing.isSome = true ∨ s.blk.settings.deferred = true → refused ag 0x4354 0x27) ∧
      (s.blk.dev.st ≠ .keep → s.blk.settings.writing = none → s.blk.settings.deferred = false → s.blk.upd.slotHeld = true →
        refused ag 0x4354 0x28)) ∧
    (∀ w, s.blk.aon = true → s.blk.settings.writing = some w → s.blk.settings.deferred = false →
      (s.blk.supply.brace = false → ∃ b', exec .settingsCommitDone s = .next (put s b') ∧
        b'.settings.active = 1 - s.blk.settings.active ∧ b'.settings.slots[b'.settings.active] = w ∧
        b'.settings.slots[s.blk.settings.active] = s.blk.settings.slots[s.blk.settings.active] ∧
        b'.settings.writing = none ∧ b'.r (pg 0x00 0x108) = w32 w.gen ∧ recorded 0x003 w.gen b'.settings.active.val s.blk b') ∧
      (s.blk.supply.brace = true → ∃ b', exec .settingsCommitDone s = .next (put s b') ∧
        b'.settings = { s.blk.settings with deferred := true } ∧ b'.supply.waits = s.blk.supply.waits ++ [.settings]))

/-! Supplies, brace and the watchdogs (R63, R93–R100). -/

/-- R97–R100: a supply below its warning level begins brace: its record 0x010 is committed at once where the recorder admits it, and
counters and journal pointers are flushed; its end lets a commit that waited start, or its commit record be written; a supply below
its reset level resets cold, by block or warm and holds that reset. -/
def Sys2Proof.Claim.braces : Prop :=
  ∀ (s : State),
    (∀ i mv, s.blk.aon = true → i ∉ s.blk.supply.warn → s.blk.supply.brace = false → mv < warnLevel s.blk i → ∃ b',
      exec (.supplyWarning i mv) s = .next (put s b') ∧ b'.supply.brace = true ∧ b'.supply.warn = s.blk.supply.warn ++ [i] ∧
      b'.supply.dips = s.blk.supply.dips ++ [⟨i, s.blk.mono, mv⟩] ∧ b'.evr.flushed = (s.blk.evr.opSec, s.blk.evr.pcyc) ∧
      b'.glean.flushed = s.blk.glean.head ∧
      (s.blk.evr.ready = false → recorded 0x010 i.val 0 s.blk b') ∧
      (s.blk.evr.ready = true → s.blk.t (rateAt 0x010) 7 = false →
        (if s.blk.t (rateAt 0x010) 6 = true then s.blk.evr.unlimited < 1000
          else 1000000 ≤ bucketOf s.blk 0x010 ∧ s.blk.evr.globalUsed + 1000000 ≤ 4096 * 1000000) →
        let l := readBytes b'.mram (0x02C00000 + s.blk.evr.next.toNat % 65536 * 128) 128
        recGood l = true ∧ leAt l 0 4 = s.blk.evr.next.toNat ∧ leAt l 4 2 % 4096 = 0x010)) ∧
    (∀ i mv, i ∈ s.blk.supply.warn ∨ s.blk.aon = false ∨ warnLevel s.blk i ≤ mv → exec (.supplyWarning i mv) s = .next s) ∧
    (∀ lows, s.blk.supply.brace = true → ∃ b', exec (.braceExit lows) s = .next (put s b') ∧ b'.supply.brace = false ∧
      b'.supply.warn = [] ∧ b'.supply.dips = [] ∧ b'.supply.waits = [] ∧
      (s.blk.supply.waits = [.settings] → s.blk.settings.deferred = true → b'.settings.deferred = false ∧
        (s.blk.settings.writing = none → b'.settings.writing.isSome = true) ∧
        (∀ w, s.blk.settings.writing = some w → b'.settings.writing = none ∧
          b'.settings.slots[b'.settings.active] = w ∧ b'.settings.active = 1 - s.blk.settings.active))) ∧
    (∀ lows, s.blk.supply.brace = false → exec (.braceExit lows) s = .next s) ∧
    (∀ (i : Fin 5) mv, s.blk.up = true →
      (mv < resetLevel i → ∃ b', exec (.supplyResetLevel i mv) s = .next (put s b') ∧ i ∈ b'.supply.low ∧
        (i = 0 ∨ i = 1 → b'.dev.cold = true ∧ b'.dev.cause = 2) ∧
        (i = 3 → b'.inReset 0x20 = true ∧ b'.inReset 0x21 = true) ∧
        (i = 2 ∨ i = 4 → b'.dev.warm = true ∧ b'.dev.cause = 6)) ∧
      (resetLevel i ≤ mv → exec (.supplyResetLevel i mv) s = .next s))

/-- A PMBus transaction with the regulator that AVS_CTL.ADDR names (R94). -/
def Sys2Proof.Claim.pmbusTo (b : Block) (command : Nat) (data : List Byte) : Output := .pmbus (b.f (pg 0x01 0x040) 6 0) command data
/-- What a failure of the loop leaves: the last confirmed request, and the code (R95, R111). -/
def Sys2Proof.Claim.avsFails (code : Nat) (b b' : Block) : Prop :=
  b'.supply.fault = true ∧ b'.supply.busy = false ∧ b'.supply.reqMv = b.supply.okMv ∧ b'.supply.failMv = b.supply.reqMv ∧
    errorCounted 0x01 code b b'
/-- R93–R95: every 10 ms the loop raises its request by 10 mV, to at most 850 mV, where the margin is below 15 %, lowers it by 10 mV, to at
least FLOOR, where it is above 25 % and no brace forbids it, and waits for the regulator; a reading within 10 mV confirms it; a
failure holds the last confirmed request, records its code and is retried after a second. That a step ends at the bound it would
pass is the model's choice (log entry 188). -/
def Sys2Proof.Claim.adaptiveVoltage : Prop :=
  ∀ (s : State),
    let p := s.blk.supply
    let vout := fun (mv : Nat) => pmbusTo s.blk 0x21 (leBytes 2 (Config.voutWord (p.vmode.getD 0) mv))
    (∀ speed : BitVec 16, p.avsOn = true → p.evalAt + gtMs 10 ≤ s.blk.mono → p.busy = false → p.fault = false →
      s.blk.t (pg 0x01 0x040) 7 = false →
      let floor := s.blk.f (pg 0x01 0x040) 27 16
      let moves := fun (mv : Nat) => ∃ b', exec (.avsEvaluate speed) s = .next (put s b') ∧
        b'.supply.reqMv = mv ∧ b'.supply.busy = true ∧ b'.supply.okMv = p.okMv ∧ b'.supply.speed = speed.toNat ∧
        b'.out.getLast? = some (vout mv)
      (speed.toNat * 1000 < 11264 * 115 → p.reqMv < 850 → moves (min 850 (p.reqMv + 10))) ∧
      (11264 * 125 < speed.toNat * 1000 → floor < p.reqMv → p.brace = false → moves (max floor (p.reqMv - 10))) ∧
      (11264 * 115 ≤ speed.toNat * 1000 → speed.toNat * 1000 ≤ 11264 * 125 → ∃ b', exec (.avsEvaluate speed) s = .next (put s b') ∧
        b'.supply.reqMv = p.reqMv ∧ b'.supply.busy = false ∧ b'.supply.speed = speed.toNat)) ∧
    (p.busy = true → p.polledAt + gtMs 1 ≤ s.blk.mono →
      (∀ mv, mv ≤ p.reqMv + 10 → p.reqMv ≤ mv + 10 → ∃ b', exec (.avsReadVout (.value mv)) s = .next (put s b') ∧
        b'.supply.okMv = p.reqMv ∧ b'.supply.reqMv = p.reqMv ∧ b'.supply.busy = false ∧ b'.supply.fault = false) ∧
      (∀ mv, p.reqMv + 10 < mv ∨ mv + 10 < p.reqMv → ∃ b', exec (.avsReadVout (.value mv)) s = .next (put s b') ∧
        b'.supply = { p with readMv := mv % 4096, polledAt := s.blk.mono }) ∧
      (∃ b', exec (.avsReadVout .noAck) s = .next (put s b') ∧ avsFails 0x20 s.blk b') ∧
      (∃ b', exec (.avsReadVout .badPec) s = .next (put s b') ∧ avsFails 0x21 s.blk b')) ∧
    (p.busy = true →
      (p.stepAt + gtMs 5 ≤ s.blk.mono → ∃ b', exec (.avsSettleTimeout .notSettled) s = .next (put s b') ∧ avsFails 0x22 s.blk b') ∧
      (s.blk.mono < p.stepAt + gtMs 5 → exec (.avsSettleTimeout .notSettled) s = .next s) ∧
      (∃ b', exec (.avsSettleTimeout .noAck) s = .next (put s b') ∧ avsFails 0x20 s.blk b') ∧
      (∃ b', exec (.avsSettleTimeout .badPec) s = .next (put s b') ∧ avsFails 0x21 s.blk b')) ∧
    (p.fault = true → p.busy = false → p.retryAt + gtSec ≤ s.blk.mono →
      (∀ answer m, p.vmode = some m → ∃ b', exec (.avsRetry answer) s = .next (put s b') ∧ b'.supply.reqMv = p.failMv ∧
        b'.supply.busy = true ∧ b'.out = s.blk.out ++ [vout p.failMv] ∧ regsKeptBut [pg 0x01 0x048, pg 0x01 0x04C, pg 0x01 0x050] s.blk b') ∧
      (∀ v, p.vmode = none → ∃ b', exec (.avsRetry (.value v)) s = .next (put s b') ∧ b'.supply.vmode = some (v % 256) ∧
        b'.supply.reqMv = p.failMv ∧ b'.supply.busy = true ∧ b'.out = s.blk.out ++ [pmbusTo s.blk 0x20 [],
          pmbusTo s.blk 0x21 (leBytes 2 (Config.voutWord (v % 256) p.failMv))])) ∧
    (∀ v clear, p.avsOn = true → ∃ b', exec (.avsAlert (.value v) (.value clear)) s = .next (put s b') ∧
      (v ≠ 0 → errorCounted 0x01 0x24 s.blk b') ∧ (v = 0 → b'.regs = s.blk.regs) ∧ b'.supply = p ∧
      b'.out.getLast? = some (pmbusTo s.blk 0x03 []))

/-- R63: a kick restarts the host watchdog; its period without a kick, and a silent PCIe link, raise SBM_ALERT.HOST_LOST and
change no other register. -/
def Sys2Proof.Claim.hostWatchdog : Prop :=
  ∀ (s : State),
    (∀ v, accepts s.blk .host 0x80 0x04C → exec (.hostWdogKick v) s =
      .next (put s { s.blk with wdogKickAt := s.blk.mono, wdogRuns := true })) ∧
    (s.blk.wdogRuns = true → s.blk.r (pg 0x80 0x048) ≠ 0 → s.blk.wdogKickAt + gtMs (s.blk.r (pg 0x80 0x048)).toNat ≤ s.blk.mono →
      ∃ b', exec .hostWdogExpire s = .next (put s b') ∧ b'.t (pg 0x81 0x040) 1 = true ∧ b'.wdogRuns = false ∧
      regsKeptBut [pg 0x81 0x040] s.blk b') ∧
    (s.blk.aon = true → ∃ b', exec .pcieLinkSilent s = .next (put s b') ∧ b'.t (pg 0x81 0x040) 1 = true ∧
      regsKeptBut [pg 0x81 0x040] s.blk b')

/-- R25, R28–R32: mode requests take effect at their instant; a slice that overruns is marked and sets FAULT. -/
def Obligations.ModesChangeAtTheirInstantAndOverrunsAreMarked : Prop := modeRequests ∧ sliceOverruns
/-- R73, R75, R80, R507, R508: block resets hold their pages, link resets the HOST function; each ends by itself. -/
def Obligations.BlockAndLinkResetsHoldTheirPart : Prop := blockResets ∧ linkResets
/-- R74, R78, R505–R518: a cold reset and the start that follows it, step by step. -/
def Obligations.ColdResetAndStartUp : Prop := coldResets ∧ starts
/-- R504, R505, R512, R513: states change as requested, and settings commits take the other slot. -/
def Obligations.StateRequestsAndSettingsCommits : Prop := stateRequests ∧ settingsCommits
/-- R63, R93–R100: brace and supply resets, the adaptive-voltage loop, the host watchdog. -/
def Obligations.SuppliesBraceAndHostWatchdog : Prop := braces ∧ adaptiveVoltage ∧ hostWatchdog
/-! Self-test and health (R521–R537). -/

/-- A 64-bit counter pair counts one. -/
def Sys2Proof.Claim.counted (a : Nat) (b c : Block) : Prop := c.n64 a = (b.n64 a + 1) % 2 ^ 64
/-- An occurrence has reached the recorder. -/
def Sys2Proof.Claim.raisedEvent (code a1 a2 : Nat) (c : Block) : Prop := ⟨code, w32 a1, w32 a2⟩ ∈ c.evr.occ

/-- R521–R524, R532, R535, R538, R539: a clean read changes nothing; a corrected error is counted, and its row remapped where CE_LIMIT of its errors fell
within a day and a spare row is left; an uncorrectable one is counted, raises its health cause for 60 s, and its row is remapped at once
where a spare row is left. In a cold reset, and for an array without power in Keep, nothing is read. Errors of the LPDDR5X count where the
part is in Run or Idle, and its uncorrectable ones raise the same cause and leave their address; those of the MRAM count likewise, and its
uncorrectable ones raise cause 16 and their record. -/
def Sys2Proof.Claim.memoryTests : Prop :=
  ∀ (s : State) (array : Half) (row : BitVec 32) (word : Half),
    let A := array.toNat
    let R := row.toNat
    let recent := s.blk.bist.ce.filter fun e => s.blk.now < e.2.2 + 86400 * gtSec
    let n := (recent.filter fun e => e.1 == A && e.2.1 == R).length + 1
    let used := s.blk.bist.usedRows A
    let reads := s.blk.aon = true ∧ s.blk.powered (A / 256) = true
    exec (.scrubRead (.sram array row word) .clean) s = .next s ∧
    (¬reads → ∀ res, exec (.scrubRead (.sram array row word) res) s = .next s) ∧
    (reads → ∃ b', exec (.scrubRead (.sram array row word) .corrected) s = .next (put s b') ∧ counted (pg 0x70 0x200) s.blk b' ∧
      b'.bist.ceSec = s.blk.bist.ceSec + 1 ∧
      (n < s.blk.f (pg 0x70 0x058) 7 0 → b'.bist.ce = recent ++ [(A, R, s.blk.now)] ∧ b'.bist.used = s.blk.bist.used) ∧
      (s.blk.f (pg 0x70 0x058) 7 0 ≤ n → used < Config.spareRows A → b'.bist.usedRows A = used + 1 ∧ raisedEvent 0xB00 A R b') ∧
      (s.blk.f (pg 0x70 0x058) 7 0 ≤ n → Config.spareRows A ≤ used → b'.bist.used = s.blk.bist.used ∧ A ∈ b'.bist.spent)) ∧
    (reads → ∃ b', exec (.scrubRead (.sram array row word) .uncorrectable) s = .next (put s b') ∧ counted (pg 0x70 0x208) s.blk b' ∧
      b'.bist.ueEnd = some (s.blk.mono + 60 * gtSec) ∧ raisedEvent 0xB01 A R b' ∧
      (used < Config.spareRows A → b'.bist.usedRows A = used + 1 ∧ (A, R, word.toNat) ∈ b'.bist.poison) ∧
      (Config.spareRows A ≤ used → b'.bist.used = s.blk.bist.used ∧ A ∈ b'.bist.spent)) ∧
    (s.blk.aon = false → ∀ place res, exec (.scrubRead place res) s = .next s) ∧
    (s.blk.aon = true → s.blk.up = true → ∀ (a : BitVec 34),
      (∃ b', exec (.scrubRead (.ddr a false) .corrected) s = .next (put s b') ∧ counted (pg 0x74 0x100) s.blk b' ∧
        b'.bist.ddrCeSec = s.blk.bist.ddrCeSec + 1) ∧
      (∃ b', exec (.scrubRead (.ddr a false) .uncorrectable) s = .next (put s b') ∧ counted (pg 0x74 0x108) s.blk b' ∧
        b'.n (pg 0x74 0x048) = a.toNat % 2 ^ 32 ∧ b'.n (pg 0x74 0x04C) = a.toNat / 2 ^ 32 ∧
        b'.bist.ueEnd = some (s.blk.mono + 60 * gtSec)) ∧
      (∃ b', exec (.scrubRead (.ddr a true) .clean) s = .next (put s b') ∧ counted (pg 0x74 0x118) s.blk b' ∧ b'.bist = s.blk.bist) ∧
      (∀ res, res ≠ .clean → ∃ b', exec (.scrubRead .ddrLink res) s = .next (put s b') ∧ counted (pg 0x74 0x110) s.blk b' ∧
        b'.bist = s.blk.bist)) ∧
    (s.blk.aon = true → ∀ (a : BitVec 26),
      (∃ b', exec (.scrubRead (.mram a) .corrected) s = .next (put s b') ∧ counted (pg 0x78 0x100) s.blk b' ∧
        b'.bist.mramCorr = s.blk.bist.mramCorr + 1) ∧
      (∃ b', exec (.scrubRead (.mram a) .uncorrectable) s = .next (put s b') ∧ counted (pg 0x78 0x108) s.blk b' ∧
        raisedEvent 0xB0B a.toNat 0 b' ∧ b'.bist.conds.getLsbD 16 = true))
/-- R527, R530–R534: lanes that agree change nothing; a mismatch is counted, and the lane that is in every pair that differs, where it is in
service, is retired. The ageing check sets its cause where the speed has fallen by 8.3 %. A 60 s cause goes at its end. The
health report is made at each second, whole, with the next sequence number. Only in states Run and Idle are units checked and
reports made. -/
def Sys2Proof.Claim.lanesAndHealth : Prop :=
  ∀ (s : State),
    (∀ unit, exec (.laneCheck unit .agree) s = .next s) ∧
    (s.blk.up = true → ∀ unit, (∃ b', exec (.laneCheck unit (.mismatch none)) s = .next (put s b') ∧
        counted (pg 0x70 0x230) s.blk b' ∧ b'.bist = s.blk.bist) ∧
      ∀ l : Fin 4, ∃ b', exec (.laneCheck unit (.mismatch (some l))) s = .next (put s b') ∧ counted (pg 0x70 0x230) s.blk b' ∧
        b'.bist.lanes = s.blk.bist.lanes.set unit (s.blk.bist.lanes[unit] &&& ~~~(1#4 <<< l.val))) ∧
    (let sNew := Config.speedNew s.blk.supply.reqMv (s.blk.f (pg 0x21 0x04C) 11 0)
     s.blk.up = true → ∃ b', exec .ageingCheck s = .next (put s b') ∧
      (b'.bist.conds.getLsbD 13 = true ↔ 0 < sNew ∧ 83 * sNew ≤ 1000 * (sNew - s.blk.supply.speed))) ∧
    (∃ b', exec .healthCauseExpire s = .next (put s b') ∧ b'.bist.level = levelOf b'.bist.standing ∧
      b'.bist.conds = s.blk.bist.conds ∧
      (b'.bist.ueEnd = match s.blk.bist.ueEnd with
        | some e => if e ≤ s.blk.mono then none else some e
        | none => none) ∧
      (b'.bist.hsEnd = match s.blk.bist.hsEnd with
        | some e => if e ≤ s.blk.mono then none else some e
        | none => none)) ∧
    (s.blk.up = true → reportSecond s.blk ≠ s.blk.bist.reportAt → ∃ b', exec .healthReport s = .next (put s b') ∧
      (∀ i < 32, b'.r (pg 0x70 (0x180 + 4 * i)) = w32 (leAt (reportBytes s.blk) (4 * i) 4)) ∧ b'.bist.reportAt = reportSecond s.blk ∧ b'.bist.seq = (s.blk.bist.seq + 1) % 256 ∧
      b'.f (pg 0x70 0x040) 7 0 = s.blk.bist.seq % 256 ∧ b'.t (pg 0x70 0x018) 0 = true ∧ b'.bist.ceSec = 0) ∧
    (reportSecond s.blk = s.blk.bist.reportAt → exec .healthReport s = .next s) ∧
    (s.blk.up = false → exec .ageingCheck s = .next s ∧ exec .healthReport s = .next s ∧
      ∀ unit res, exec (.laneCheck unit res) s = .next s)
/-- R526, R529, R536, R537: with both spares free, a rotation step begins on the next engine, where it is in service, under the first
spare. A test that passes moves the rotation on, and gives a degraded engine back; one that fails retires the engine, and
its spare covers it. BIST_REQ chooses the next engine or is refused. A handshake that times out is counted; in an engine its item
ends, and below page 0x40 its page is marked, or reset where AUTORESET is 1. -/
def Sys2Proof.Claim.rotation : Prop :=
  ∀ (s : State),
    (s.blk.up = true → s.blk.inReset 0x70 = false → s.blk.t (pg 0x70 0x04C) 31 = true → s.blk.bist.rot = none →
      s.blk.bist.rotPause ≤ s.blk.mono → rotDegraded s.blk = none → s.blk.spareFree 24 = true → s.blk.spareFree 25 = true →
      s.blk.bist.rotNext < 24 → (s.blk.eng s.blk.bist.rotNext).gone = false →
      ∃ b', exec .rotationStepStart s = .next (put s b') ∧ b'.bist.rot = some ⟨s.blk.bist.rotNext, 24, false⟩) ∧
    (∀ r k, s.blk.up = true → s.blk.bist.rot = some r → r.engine < 24 → 24 ≤ r.spare → r.spare < 26 → (s.blk.eng r.engine).run = none →
      (r.degraded = false → ∃ b', exec (.engineTestDone none) s = .next (put s b') ∧ b'.bist.rot = none ∧
        b'.bist.rotNext = (r.engine + 1) % 24 ∧ counted (pg 0x70 0x218) s.blk b' ∧ (b'.eng r.engine).retired = (s.blk.eng r.engine).retired) ∧
      (r.degraded = true → ∃ b', exec (.engineTestDone none) s = .next (put s b') ∧ b'.bist.rot = none ∧
        b'.bist.rotNext = (r.engine + 1) % 24 ∧ counted (pg 0x70 0x218) s.blk b' ∧ (b'.eng r.engine).degraded = false) ∧
      (∃ b', exec (.engineTestDone (some k)) s = .next (put s b') ∧ b'.bist.rot = none ∧ (b'.eng r.engine).retired = true ∧
        (b'.eng r.spare).covers = some r.engine ∧ raisedEvent 0xB03 r.engine (k.val + 1) b' ∧ b'.t (pg 0x70 0x018) 1 = true)) ∧
    (∀ ag v, accepts s.blk ag 0x70 0x100 →
      let e := (v.toNat) % 32
      let guard := v.toNat / 65536
      (guard ≠ 0x4254 → ∃ b', exec (.bistReqTest ag v) s = .next (put s b') ∧ onlyError 0x70 0x20 s.blk b' ∧ b'.bist = s.blk.bist) ∧
      (guard = 0x4254 → 24 ≤ e ∨ (s.blk.eng e).gone = true ∨ s.blk.spareFree 24 = false ∨ s.blk.spareFree 25 = false → ∃ b',
        exec (.bistReqTest ag v) s = .next (put s b') ∧ onlyError 0x70 0x21 s.blk b' ∧ b'.bist = s.blk.bist) ∧
      (guard = 0x4254 → e < 24 → (s.blk.eng e).gone = false → s.blk.spareFree 24 = true → s.blk.spareFree 25 = true →
        exec (.bistReqTest ag v) s = .next (put s { s.blk with bist := { s.blk.bist with rotNext := e } }))) ∧
    (∀ (page : BitVec 8) stage lane, s.blk.up = true → page.toNat ∈ allPages → ∃ b',
      exec (.handshakeTimeout page stage lane) s = .next (put s b') ∧ counted (pg 0x70 0x228) s.blk b' ∧
      b'.bist.hsEnd = some (s.blk.mono + 60 * gtSec) ∧ raisedEvent 0xB06 page.toNat stage b' ∧
      (page.toNat < 0x40 → s.blk.t (pg 0x70 0x05C) 16 = false → b'.t (pg page.toNat 0x00C) 3 = true) ∧
      (page.toNat < 0x40 → s.blk.t (pg 0x70 0x05C) 16 = true → b'.inReset page.toNat = true) ∧
      (∀ p : Fin 26, (0x58 ≤ page.toNat ∧ page.toNat = 0x40 + p.val ∨ page.toNat < 0x58 ∧ 0x40 ≤ page.toNat ∧
          s.blk.serves (page.toNat - 0x40) = some p.val) → (b'.eng p.val).run = none))

/-- R521–R537: self-test, repair and health follow their rules. -/
def Obligations.SelfTestRepairAndHealth : Prop := memoryTests ∧ lanesAndHealth ∧ rotation

/-! The event recorder (R541–R550). -/

/-- R542–R546: occurrences wait until the search has ended. One whose code is dropped leaves nothing; one whose own bucket and the
global one hold a record, or whose code is unlimited with fewer than 1,000 of the second gone, is admitted under the next SEQ: it
is queued, but is lost and counted at a full queue, and 0x010 and 0x012 are written at once. Any other is suppressed and
counted, for the global bucket too where it alone was short. The oldest queued record is written whole, with a good CRC, to
its ring position, not in brace. -/
def Obligations.RecorderAdmitsSuppressesAndCommits : Prop :=
  (∀ (s : State), s.blk.evr.ready = false → exec .evrOccurrence s = .next s) ∧
  (∀ (s : State) (o : EvrOcc), s.blk.evr.ready = true → s.blk.evr.occ = [o] → o.code < 4096 →
    let own := 1000000 ≤ bucketOf s.blk o.code
    let glob := s.blk.evr.globalUsed + 1000000 ≤ 4096 * 1000000
    let unlim := s.blk.t (rateAt o.code) 6 = true
    let admits := if s.blk.t (rateAt o.code) 6 then s.blk.evr.unlimited < 1000 else own ∧ glob
    let direct := o.code = 0x010 ∨ o.code = 0x012
    let suppr := s.blk.r (rateAt o.code + 8)
    (s.blk.t (rateAt o.code) 7 = true → exec .evrOccurrence s = .next (put s { s.blk with evr := { s.blk.evr with occ := [] } })) ∧
    (s.blk.t (rateAt o.code) 7 = false → admits → ∃ b', exec .evrOccurrence s = .next (put s b') ∧
      (unlim → b'.evr.unlimited = s.blk.evr.unlimited + 1 ∧ b'.evr.tokens = s.blk.evr.tokens) ∧
      (¬unlim → bucketOf b' o.code = bucketOf s.blk o.code - 1000000 ∧ b'.evr.globalUsed = s.blk.evr.globalUsed + 1000000) ∧
      (direct ∨ s.blk.evr.queue.length < 256 → b'.evr.next = s.blk.evr.next + 1 ∧ b'.evr.occ = [] ∧ b'.r (rateAt o.code + 8) = 0) ∧
      (¬direct → s.blk.evr.queue.length < 256 → b'.mram = s.blk.mram ∧ ∃ r, b'.evr.queue = s.blk.evr.queue ++ [r] ∧
        r.seq = s.blk.evr.next ∧ r.code = o.code ∧ r.suppr = suppr.toNat ∧ r.timeValid = s.blk.time.valid ∧
        r.deferred = s.blk.supply.brace) ∧
      (¬direct → 256 ≤ s.blk.evr.queue.length → b'.evr.queue = s.blk.evr.queue ∧ b'.evr.next = s.blk.evr.next ∧
        b'.evr.lostBefore = true ∧ b'.r (pg 0x64 0x05C) = satInc (s.blk.r (pg 0x64 0x05C)) ∧ b'.r (rateAt o.code + 8) = satInc suppr) ∧
      (direct → b'.evr.queue = s.blk.evr.queue ∧ ∃ l, recGood l = true ∧ leAt l 0 4 = s.blk.evr.next.toNat ∧
        readBytes b'.mram (0x02C00000 + s.blk.evr.next.toNat % 65536 * 128) 128 = l)) ∧
    (s.blk.t (rateAt o.code) 7 = false → ¬admits → ∃ b', exec .evrOccurrence s = .next (put s b') ∧
      b'.evr.queue = s.blk.evr.queue ∧ b'.evr.next = s.blk.evr.next ∧ b'.evr.occ = [] ∧ b'.r (rateAt o.code + 8) = satInc suppr ∧
      counted (pg 0x64 0x208) s.blk b' ∧ b'.mram = s.blk.mram ∧
      (unlim ∨ own ∧ ¬glob → counted (pg 0x64 0x210) s.blk b') ∧ (¬unlim → ¬own → b'.n64 (pg 0x64 0x210) = s.blk.n64 (pg 0x64 0x210)))) ∧
  (∀ (s : State) (r : EvrRec) (rest : List EvrRec), s.blk.evr.queue = r :: rest →
    (s.blk.supply.brace = false → ∃ b' l, exec .evrCommit s = .next (put s b') ∧ b'.evr.queue = rest ∧
      l.length = 128 ∧ recGood l = true ∧ readBytes b'.mram (0x02C00000 + r.seq.toNat % 65536 * 128) 128 = l ∧
      (∀ a, a < 0x02C00000 + r.seq.toNat % 65536 * 128 ∨ 0x02C00000 + r.seq.toNat % 65536 * 128 + 128 ≤ a →
        byteAt b'.mram a = byteAt s.blk.mram a) ∧
      (r.seq = s.blk.evr.head → b'.evr.head = r.seq + 1) ∧ b'.evr.lostBefore = false ∧ counted (pg 0x64 0x200) s.blk b') ∧
    (s.blk.supply.brace = true → exec .evrCommit s = .next s))

/-- R543, R546, R547, R549: each ms of always-on time the buckets gain their refill; each second OP_SEC increases; the search at
start puts the head one past the highest SEQ of a good record, or at 0. A read of the window shows the record at the agent's cursor, or 0 with
status 1 below the tail, 2 from the head on, 3 where the record there is not good. -/
def Obligations.RecorderTimersSearchAndWindows : Prop :=
  ∀ (s : State),
    (s.blk.dev.st = .off → exec .evrBucketRefill s = .next s ∧ exec .evrSecondTick s = .next s) ∧
    (s.blk.dev.st ≠ .off → exec .evrBucketRefill s = .next (put s { s.blk with evr := { s.blk.evr with
      aonMs := s.blk.evr.aonMs + 1
      globalUsed := s.blk.evr.globalUsed - s.blk.f (pg 0x64 0x040) 13 0 * 1000
      tokens := s.blk.evr.tokens.map fun e => (e.1, min (e.2 + s.blk.f (rateAt e.1) 31 16) (bucketCap s.blk e.1)) } })) ∧
    (s.blk.dev.st ≠ .off → s.blk.evr.secDone < s.blk.evr.aonMs / 1000 → ∃ fl, exec .evrSecondTick s = .next (put s { s.blk with
      evr := { s.blk.evr with unlimited := 0, secDone := s.blk.evr.aonMs / 1000, opSec := s.blk.evr.opSec + 1, flushed := fl } }) ∧
      fl = (if s.blk.supply.brace then s.blk.evr.flushed.1 else s.blk.evr.opSec + 1, s.blk.evr.flushed.2)) ∧
    (s.blk.evr.aonMs / 1000 ≤ s.blk.evr.secDone → exec .evrSecondTick s = .next s) ∧
    (s.blk.evr.ready = false → s.blk.aon = true → ∃ b', exec .evrRingSearch s = .next (put s b') ∧ b'.evr.ready = true ∧
      b'.evr.next = b'.evr.head ∧ b'.mram = s.blk.mram ∧ (ringSeqs s.blk = [] → b'.evr.head = 0) ∧
      (ringSeqs s.blk ≠ [] → ∃ q ∈ ringSeqs s.blk, b'.evr.head = w32 (q + 1) ∧ ∀ q' ∈ ringSeqs s.blk, q' ≤ q)) ∧
    (s.blk.evr.ready = true ∨ s.blk.aon = false → exec .evrRingSearch s = .next s) ∧
    (∀ ag, s.blk.agentUp ag = true →
      let cur := (s.blk.agent ag).evrCur
      let l := readBytes s.blk.mram (0x02C00000 + cur.toNat % 65536 * 128) 128
      let below := 2 ^ 31 ≤ (cur - s.blk.evr.tail).toNat
      let past := (cur - s.blk.evr.head).toNat < 2 ^ 31
      let good := recGood l = true ∧ leAt l 0 4 = cur.toNat
      let shows := fun (st : Nat) => ∃ b', exec (.evrWinRead ag) s = .next (put s b') ∧ (b'.agent ag).evrWinSts = st ∧
        b'.regs = s.blk.regs ∧
        (st = 0 → bytesOfWords (b'.agent ag).evrWin = l ∧ (b'.agent ag).compl = cur) ∧
        (st ≠ 0 → (b'.agent ag).evrWin = List.replicate 32 0 ∧ (b'.agent ag).compl = 0)
      (below → shows 1) ∧ (¬below → past → shows 2) ∧ (¬below → ¬past → good → shows 0) ∧ (¬below → ¬past → ¬good → shows 3))

/-- R550: a write to EVR_ADV adds its value to the writing agent's cursor and never moves the other's; 0 has no effect but
code 0x06. A link reset returns the host's cursor to 0 and leaves the side-band's; a cold reset clears both. -/
def Obligations.EvrAdvMovesTheWritersCursorOnly : Prop :=
  ∀ (s : State) (ag : Agent) (v : Word),
    (accepts s.blk ag 0x64 0x084 → v.toNat % 65536 ≠ 0 → ∃ b', exec (.evrAdv ag v) s = .next (put s b') ∧
      (b'.agent ag).evrCur = (s.blk.agent ag).evrCur + w32 (v.toNat % 65536) ∧ (∀ ag', ag' ≠ ag → b'.agent ag' = s.blk.agent ag') ∧
      b'.regs = s.blk.regs ∧ b'.evr = s.blk.evr) ∧
    (accepts s.blk ag 0x64 0x084 → v.toNat % 65536 = 0 → ∃ b', exec (.evrAdv ag v) s = .next (put s b') ∧
      onlyError 0x64 0x06 s.blk b' ∧ ∀ ag', b'.agent ag' = s.blk.agent ag') ∧
    (∀ src, s.blk.aon = true → s.blk.dev.st ≠ .keep → s.blk.dev.warm = false → s.blk.dev.link = false → ∃ b', exec (.linkReset src) s = .next (put s b') ∧
      b'.host.evrCur = 0 ∧ b'.side.evrCur = s.blk.side.evrCur) ∧
    (s.blk.up = true → ∃ b', exec (.warmReset 1000) s = .next (put s b') ∧ b'.host.evrCur = 0 ∧ b'.side.evrCur = s.blk.side.evrCur) ∧
    (∃ b', exec (.coldReset .powerOn) s = .next (put s b') ∧ b'.host.evrCur = 0 ∧ b'.side.evrCur = 0)
/-! Keys, the owner session, attestation and tamper (R556–R577). -/

/-- A command is refused with a code: nothing but the error record of its page changes among the registers. -/
def Sys2Proof.Claim.turnedAway (s : State) (c : Instr) (p code : Nat) (more : Block → Prop) : Prop :=
  ∃ b', exec c s = .next (put s b') ∧ onlyError p code s.blk b' ∧ more b'

/-- R559, R563, R565: a slot command is checked in order: guard 0x20, a write under way 0x29, slot 0 0x25, no owner session where the descriptor as it
stands or to come asks for one 0x24; a write besides: no root 0x26, a descriptor that does not hold together 0x22, a parent that may not
be one 0x21, no key that unwraps 0x23. A write that passes is under way with GEN one higher, behind a brace deferred; its
commit record makes the slot valid, and where brace came between only the copy is made. Revoking and erasing raise GEN at once, and a
slot under the former key fails its next use. -/
def Obligations.KeySlotCommandsRaiseTheGeneration : Prop :=
  ∀ (s : State) (ag : Agent),
    let k := s.blk.keys
    let i := (s.blk.r (pg 0x68 0x040)).toNat % 256
    let d := s.blk.r (pg 0x68 0x054)
    let asks := fun (x : Word) => descUse x = 1 ∨ descUse x = 2 ∨ descUse x = 7 ∨ descParent x = 0x100
    let owned := k.session.isSome = true ∨ ¬asks (k.slot i).desc
    let refused := fun (c : Instr) (code : Nat) => turnedAway s c 0x68 code fun b' => b'.keys = { k with ksResult := code }
    let data := bytesOfWords ((List.range 32).map fun j => s.blk.r (pg 0x68 (0x200 + 4 * j)))
    let copy : KeyCopy := ⟨(k.slot i).gen + 1, d, data.take 32, data⟩
    (acceptsL s.blk ag 0x68 0x058 →
      (∀ guard, guard ≠ 0x4B53 → refused (.ksCmdWrite ag guard) 0x20 ∧ refused (.ksCmdRevoke ag guard) 0x20 ∧
        refused (.ksCmdErase ag guard) 0x20) ∧
      (k.write.isSome = true → refused (.ksCmdWrite ag 0x4B53) 0x29 ∧ refused (.ksCmdRevoke ag 0x4B53) 0x29 ∧
        refused (.ksCmdErase ag 0x4B53) 0x29) ∧
      (k.write = none → i = 0 → refused (.ksCmdWrite ag 0x4B53) 0x25 ∧ refused (.ksCmdRevoke ag 0x4B53) 0x25 ∧
        refused (.ksCmdErase ag 0x4B53) 0x25) ∧
      (k.write = none → i ≠ 0 → ¬owned → refused (.ksCmdWrite ag 0x4B53) 0x24 ∧ refused (.ksCmdRevoke ag 0x4B53) 0x24 ∧
        refused (.ksCmdErase ag 0x4B53) 0x24) ∧
      (k.write = none → i ≠ 0 → k.session = none → asks d → refused (.ksCmdWrite ag 0x4B53) 0x24) ∧
      (k.write = none → i ≠ 0 → k.session.isSome = true ∨ ¬asks (k.slot i).desc ∧ ¬asks d →
        (k.rootOk = false → refused (.ksCmdWrite ag 0x4B53) 0x26) ∧
        (k.rootOk = true → descOk d = false → refused (.ksCmdWrite ag 0x4B53) 0x22) ∧
        (k.rootOk = true → descOk d = true → parentOk k d = false → refused (.ksCmdWrite ag 0x4B53) 0x21) ∧
        (k.rootOk = true → descOk d = true → parentOk k d = true →
          (descKind d = 2 → Config.onCurve (data.take 97) = false → refused (.ksCmdWrite ag 0x4B53) 0x22) ∧
          (descKind d ≠ 2 → keyOfCopy (k.parentKey d) i copy = none → refused (.ksCmdWrite ag 0x4B53) 0x23) ∧
          (∀ key, (descKind d = 2 → Config.onCurve (data.take 97) = true) → keyOfCopy (k.parentKey d) i copy = some key → ∃ b' w,
            exec (.ksCmdWrite ag 0x4B53) s = .next (put s b') ∧ w.slot = i ∧ w.copy = copy ∧ w.key = key ∧
            b'.keys = { k with write := some w, deferred := s.blk.supply.brace, ksResult := 0 } ∧ b'.regs = s.blk.regs))) ∧
      (k.write = none → i ≠ 0 → owned →
        (∃ b', exec (.ksCmdRevoke ag 0x4B53) s = .next (put s b') ∧ (b'.keys.slot i).st = 2 ∧ (b'.keys.slot i).gen = (k.slot i).gen + 1 ∧
          (b'.keys.slot i).key = [] ∧ raisedEvent 0x909 i 0 b' ∧ (∀ j, j ≠ i → b'.keys.slot j = k.slot j) ∧
          (∀ c use, c ≠ i → c ≠ 0 → descParent (k.slot c).desc = i → (k.slot c).pgen ≤ (k.slot i).gen → (keyUse c use b').1 = none)) ∧
        (∃ b', exec (.ksCmdErase ag 0x4B53) s = .next (put s b') ∧ (b'.keys.slot i).st = 0 ∧ (b'.keys.slot i).gen = (k.slot i).gen + 1 ∧
          (b'.keys.slot i).desc = 0 ∧ raisedEvent 0x909 i 1 b' ∧ ∀ j, j ≠ i → b'.keys.slot j = k.slot j))) ∧
    (∀ w, k.write = some w → k.deferred = false →
      (s.blk.supply.brace = false → ∃ b', exec .keySlotWriteDone s = .next (put s b') ∧
        (b'.keys.slot w.slot).st = 1 ∧ (b'.keys.slot w.slot).gen = w.copy.gen ∧ (b'.keys.slot w.slot).pgen = w.pgen ∧
        (b'.keys.slot w.slot).desc = w.copy.desc ∧ (b'.keys.slot w.slot).key = w.key ∧ b'.keys.write = none ∧
        raisedEvent 0x908 w.slot w.copy.gen b' ∧ b'.t (pg 0x68 0x018) 0 = true ∧
        (∀ c, (k.slot w.slot).commit = some c → ∃ c', (b'.keys.slot w.slot).commit = some c' ∧ c'.copy = 1 - c.copy)) ∧
      (s.blk.supply.brace = true → ∃ b', exec .keySlotWriteDone s = .next (put s b') ∧ b'.keys.write = some w ∧ b'.keys.deferred = true ∧
        (b'.keys.slot w.slot).commit = (k.slot w.slot).commit ∧ (b'.keys.slot w.slot).gen = (k.slot w.slot).gen ∧
        b'.supply.waits = s.blk.supply.waits ++ [.key] ∧ b'.regs = s.blk.regs)) ∧
    (k.write = none ∨ k.deferred = true → exec .keySlotWriteDone s = .next s)

/-- R567–R569: a read of the challenge draws a fresh one, but not while the wait behind a failure runs; each challenge serves one attempt. A good
signature of the anchor's key, or of any key in a part without an anchor, which it becomes, opens a session for OWN_TTL seconds; a good one in a session
changes the anchor; any other counts a failure with code 0x27. A session that ends closes every owner lock. -/
def Obligations.OwnerSessionsOpenByChallengeAndCloseEveryLock : Prop :=
  ∀ (s : State) (ag : Agent),
    let k := s.blk.keys
    let refused := fun (c : Instr) (code : Nat) => turnedAway s c 0x68 code fun b' => b'.keys = k
    (s.blk.agentUp ag = true → s.blk.powered 0x68 = true →
      (k.chalFrom ≤ s.blk.mono → ∃ b' c, exec (.ownChalRead ag) s = .next (put s b') ∧
        b'.keys = { k with chal := some c, chalWords := c } ∧ c.length = 32 ∧ (b'.agent ag).compl = w32 (leAt c 0 4) ∧ b'.regs = s.blk.regs) ∧
      (s.blk.mono < k.chalFrom → ∃ b', exec (.ownChalRead ag) s = .next (put s b') ∧ b'.keys = k ∧
        (b'.agent ag).compl = w32 (leAt k.chalWords 0 4) ∧ b'.regs = s.blk.regs)) ∧
    (accepts s.blk ag 0x68 0x068 →
      (∀ guard, guard ≠ 0x4F57 → refused (.ownCmdOpen ag guard) 0x20 ∧ refused (.ownCmdReanchor ag guard) 0x20 ∧
        refused (.ownCmdClose ag guard) 0x20) ∧
      (k.session = none → refused (.ownCmdReanchor ag 0x4F57) 0x24 ∧ exec (.ownCmdClose ag 0x4F57) s = .next s) ∧
      (k.verifying.isSome = true → refused (.ownCmdOpen ag 0x4F57) 0x29 ∧
        (k.session.isSome = true → refused (.ownCmdReanchor ag 0x4F57) 0x29)) ∧
      (k.verifying = none → k.chal = none ∨ s.blk.mono < k.chalFrom → refused (.ownCmdOpen ag 0x4F57) 0x28 ∧
        (k.session.isSome = true → refused (.ownCmdReanchor ag 0x4F57) 0x28)) ∧
      (∀ c, k.verifying = none → k.chal = some c → k.chalFrom ≤ s.blk.mono →
        (∃ b' t, exec (.ownCmdOpen ag 0x4F57) s = .next (put s b') ∧ t.op = 1 ∧ t.chal = c ∧
          b'.keys = { k with chal := none, verifying := some t } ∧ b'.regs = s.blk.regs) ∧
        (k.session.isSome = true → ∃ b' t, exec (.ownCmdReanchor ag 0x4F57) s = .next (put s b') ∧ t.op = 3 ∧ t.chal = c ∧
          b'.keys = { k with chal := none, verifying := some t } ∧ b'.regs = s.blk.regs))) ∧
    (∀ t, k.verifying = some t →
      let h := Config.sha384 t.point
      let free := k.anchor = zeros 48
      let good := Config.ecdsaVerify t.point (ownDigest t) t.sig = true ∧
        (t.op = 3 → k.session.isSome = true) ∧ (t.op ≠ 3 → free ∨ h = k.anchor)
      (good → t.op ≠ 3 → ∃ b', exec .ownerSessionVerifyDone s = .next (put s b') ∧ b'.regs = s.blk.regs ∧
        b'.keys = { k with verifying := none, fails := 0, anchor := h,
                           session := some (s.blk.mono + s.blk.f (pg 0x68 0x06C) 11 0 * gtSec) } ∧
        raisedEvent 0x903 (if k.anchor == zeros 48 then 1 else 0) 0 b') ∧
      (good → t.op = 3 → ∃ b', exec .ownerSessionVerifyDone s = .next (put s b') ∧ b'.regs = s.blk.regs ∧
        b'.keys = { k with verifying := none, fails := 0, anchor := h } ∧ raisedEvent 0x90A 0 0 b') ∧
      (¬good → ∃ b', exec .ownerSessionVerifyDone s = .next (put s b') ∧ errorCounted 0x68 0x27 s.blk b' ∧
        b'.keys = { k with verifying := none, fails := k.fails + 1, chalFrom := s.blk.mono + min (2 ^ k.fails) 4096 * gtSec } ∧
        raisedEvent 0x905 (k.fails + 1) 0 b' ∧ counted (pg 0x68 0x718) s.blk b')) ∧
    (k.verifying = none → exec .ownerSessionVerifyDone s = .next s) ∧
    (let ended := fun (c : Instr) (cause : Nat) => ∃ b', exec c s = .next (put s b') ∧ b'.keys = { k with session := none } ∧
      (∀ p ∈ allPages, b'.locked p = true) ∧ raisedEvent 0x904 cause 0 b'
     (accepts s.blk ag 0x68 0x068 → k.session.isSome = true → ended (.ownCmdClose ag 0x4F57) 0) ∧
     (∀ e, k.session = some e → e ≤ s.blk.mono → ended .ownSessionTimeout 1) ∧
     (∀ e, k.session = some e → s.blk.mono < e → exec .ownSessionTimeout s = .next s) ∧
     (k.session = none → exec .ownSessionTimeout s = .next s))

/-- R570–R576: an attestation request waits for its signature with the agent's nonce as it stood, the host's before the side-band's but behind the one being
served, and its statement lands in the agent's buffer; guard, no root, or a request still waiting refuse it. A tamper source that counts
destroys root and keys at once, drives TMP_OUT_N low and latches, until TAMP_CLEAR in a session clears it with no source
live; one that does not count only shows live. The class 2 erasure destroys helper data and slots; a new root, or the old one
regenerated, follows a clear. -/
def Obligations.AttestationAndTamper : Prop :=
  ∀ (s : State),
    let k := s.blk.keys
    (∀ ag, accepts s.blk ag 0x68 0x120 →
      let host := ag == .host
      let e := (host, (List.range 8).flatMap fun i => leBytes 4 (mget 0 (s.blk.agent ag).attNonce i).toNat)
      let waiting := ∃ n, (host, n) ∈ k.signing
      let refused := fun (guard : Half) (code : Nat) => turnedAway s (.attReqSign ag guard) 0x68 code fun b' => b'.keys = k ∧
        (b'.agent ag).attSts = ((s.blk.agent ag).attSts &&& ~~~0xFF#32) ||| w32 code
      (∀ guard, guard ≠ 0x4154 → refused guard 0x20) ∧ (k.rootOk = false → refused 0x4154 0x26) ∧
      (k.rootOk = true → waiting → refused 0x4154 0x29) ∧
      (k.rootOk = true → ¬waiting → ∃ b', exec (.attReqSign ag 0x4154) s = .next (put s b') ∧
        b'.keys = { k with signing := match k.signing with
          | [] => [e]
          | x :: l => if host then x :: e :: l else x :: l ++ [e] } ∧
        bitAt (b'.agent ag).attSts 30 = false ∧ b'.regs = s.blk.regs)) ∧
    (∀ h n rest, s.blk.up = true → s.blk.inReset 0x68 = false → k.signing = (h, n) :: rest →
      let ag : Agent := if h = true then .host else .side
      let body := statementBody ag n s.blk
      ∃ b', exec .attStatementReady s = .next (put s b') ∧ b'.keys = { k with signing := rest } ∧ body.length = 632 ∧
        leAt body 0 4 = 0x47415431 ∧ (b'.agent ag).attStmt = body ++ Config.ecdsaSign (k.slot 0).key (Config.sha384 body) ∧
        bitAt (b'.agent ag).attSts 30 = true ∧ counted (pg 0x68 0x710) s.blk b' ∧ b'.t (pg 0x68 0x018) 1 = true) ∧
    (k.signing = [] ∨ s.blk.up = false ∨ s.blk.inReset 0x68 = true → exec .attStatementReady s = .next s) ∧
    (∀ i : Fin 6, s.blk.dev.st ≠ .off →
      (tampCounts s.blk i = true → ∃ b', exec (.tamperAssert i) s = .next (put s b') ∧ b'.keys.latched = true ∧
        b'.keys.rootOk = false ∧ b'.keys.root = [] ∧ (∀ e ∈ b'.keys.slots, e.2.key = []) ∧ b'.keys.session = none ∧
        b'.keys.cause.getLsbD i.val = true ∧ b'.balls.tmpOutN = false ∧ b'.t (pg 0x81 0x040) 3 = true ∧ b'.dev = s.blk.dev ∧
        b'.granMem = s.blk.granMem ∧
        (s.blk.t (pg 0x7C 0x040) (24 + i.val) = true → k.class2 = false → b'.keys.erasePend = true)) ∧
      (tampCounts s.blk i = false → exec (.tamperAssert i) s = .next (put s { s.blk with
        keys := { k with live := k.live ||| (1#6 <<< i.val) } }))) ∧
    (s.blk.dev.st = .off → (∀ i, exec (.tamperAssert i) s = .next s) ∧ exec .tamperEraseDone s = .next s) ∧
    (s.blk.dev.st ≠ .off → (k.erasePend = true → exec .tamperEraseDone s = .next (put s { s.blk with
        keys := { k with erasePend := false, helper := [false, false], slots := [] } })) ∧
      (k.erasePend = false → exec .tamperEraseDone s = .next s)) ∧
    (∀ ag live, accepts s.blk ag 0x7C 0x064 →
      let counts := BitVec.ofNat 6 (s.blk.f (pg 0x7C 0x040) 5 0) ||| 0b111100#6
      let refused := fun (guard : Half) (code : Nat) => turnedAway s (.tampClear ag guard live) 0x7C code fun b' =>
        b'.keys = { k with live := live } ∧ b'.balls = s.blk.balls
      (∀ guard, guard ≠ 0x5443 → refused guard 0x23) ∧ (k.session = none → refused 0x5443 0x20) ∧
      (k.session.isSome = true → live &&& counts ≠ 0 → refused 0x5443 0x22) ∧
      (k.session.isSome = true → live &&& counts = 0 → k.latched = true → ∃ b', exec (.tampClear ag 0x5443 live) s = .next (put s b') ∧
        b'.keys = { k with live := live, latched := false, cause := 0, class2 := false, lockedOut := false,
                           clearing := some (if k.class2 = true then 2 else 1) } ∧ b'.balls.tmpOutN = true) ∧
      (k.session.isSome = true → live &&& counts = 0 → k.latched = false →
        exec (.tampClear ag 0x5443 live) s = .next (put s { s.blk with keys := { k with live := live } }))) ∧
    (∀ reads, (k.clearing = some 2 → ∃ b', exec (.rootEnrolmentDone reads) s = .next (put s b') ∧ b'.keys.rootOk = true ∧
        b'.keys.root = Config.rootSecret (k.enrol + 1) ∧ b'.keys.reEnrolled = true ∧ b'.keys.clearing = none ∧
        (∀ i, i ≠ 0 → b'.keys.slot i = {})) ∧
      (k.clearing = some 1 → k.latched = false →
        let reproduced := k.helper.any id = true ∧ ∃ r ∈ reads.take 8, r.ok = true
        ∃ b', exec (.rootEnrolmentDone reads) s = .next (put s b') ∧ b'.keys.clearing = none ∧
          (reproduced → b'.keys.rootOk = true ∧ b'.keys.root = Config.rootSecret k.enrol) ∧ (¬reproduced → b'.keys.rootOk = false)) ∧
      (k.clearing = none → exec (.rootEnrolmentDone reads) s = .next s))

/-! Field update (R584–R601). -/

/-- R591, R592, R602: a package enters staging by LOAD from the host or by APPEND. STAGE rejects what its checks find wrong with their code, what is no
package with 0x23; else the slot is FILLING, or waits for a brace to end. A build whose parts are all good leaves the slot STAGED, any other
REJECTED with its code. A wrong guard, phase or length has no effect but its code. -/
def Sys2Proof.Claim.updateStaging : Prop :=
  ∀ (s : State),
    let u := s.blk.upd
    let idle := u.phase = 0 ∨ u.phase = 4
    let i : Fin 2 := 1 - u.running
    let guarded : Word → Prop := fun v => v.toNat / 65536 = 0x5550
    let refused := fun (c : Instr) (code : Nat) => turnedAway s c 0x6C code fun b' => b'.upd = { u with result := code }
    (∀ v ag, accepts s.blk ag 0x6C 0x05C → ¬guarded v → refused (.updLoad ag v) 0x20 ∧ refused (.updStage ag v) 0x20 ∧
      (∀ pins, updPins pins s.blk = s.blk → refused (.updActivate ag v pins) 0x20) ∧ refused (.updAbort ag v) 0x20) ∧
    (∀ v ag, accepts s.blk ag 0x6C 0x05C → guarded v →
      (ag = .side ∨ ¬idle → refused (.updLoad ag v) 0x21) ∧ (¬idle → refused (.updStage ag v) 0x21) ∧
      (ag = .host → idle →
        (0x20000000 < s.blk.f (pg 0x6C 0x058) 29 0 → refused (.updLoad ag v) 0x22) ∧
        (s.blk.f (pg 0x6C 0x058) 29 0 ≤ 0x20000000 → ∃ b', exec (.updLoad ag v) s = .next (put s b') ∧ b'.upd.phase = 1 ∧
          b'.upd.result = 0 ∧ b'.ddr = s.blk.ddr ∧ b'.mram = s.blk.mram)) ∧
      (idle →
        let m := stagedManifest s.blk
        let found := (pkgCheck s.blk m (stagedParts m) (keyUse (s.blk.f (pg 0x6C 0x048) 7 0) 7 s.blk).1).1
        (leAt (readBytes s.blk.ddr 0x3C0000000 64) 0 4 ≠ 0x53455031 → found = 0x23) ∧
        (found ≠ 0 → ∃ b', exec (.updStage ag v) s = .next (put s b') ∧ b'.upd.result = found ∧ b'.mram = s.blk.mram ∧
          b'.upd.slots = u.slots ∧ b'.upd.phase ≠ 2 ∧ errorCounted 0x6C found s.blk b' ∧ counted (pg 0x6C 0x110) s.blk b') ∧
        (found = 0 → s.blk.supply.brace = false → ∃ b', exec (.updStage ag v) s = .next (put s b') ∧ b'.upd.phase = 3 ∧
          b'.upd.result = 0 ∧ (b'.upd.slots[i]).st = 1 ∧ (b'.upd.slots[i]).seq = leAt m 20 4 ∧
          b'.upd.slots[u.running] = u.slots[u.running] ∧ b'.upd.running = u.running) ∧
        (found = 0 → s.blk.supply.brace = true → ∃ b', exec (.updStage ag v) s = .next (put s b') ∧ b'.upd.phase = 2 ∧
          b'.upd.slots = u.slots ∧ b'.mram = s.blk.mram))) ∧
    (∀ bytes ok, u.phase = 1 → s.blk.inReset 0x6C = false → ∃ b', exec (.updLoadDone bytes ok) s = .next (put s b') ∧
      (let l := bytes.take (s.blk.f (pg 0x6C 0x058) 29 0)
       readBytes b'.ddr 0x3C0000000 l.length = l ∧ b'.upd.fill = l.length) ∧
      b'.upd.phase ≠ 1 ∧ b'.t (pg 0x6C 0x018) 1 = true ∧ (ok = false → b'.upd.result = 0x22 ∧ errorCounted 0x6C 0x22 s.blk b')) ∧
    (∀ bytes ok, u.phase ≠ 1 ∨ s.blk.inReset 0x6C = true → exec (.updLoadDone bytes ok) s = .next s) ∧
    (∀ ag v, accepts s.blk ag 0x6C 0x088 →
      let n := v.toNat % 4096
      let o := (s.blk.agent ag).updOfs
      let length := 4 ≤ n ∧ n ≤ 2048 ∧ n % 4 = 0
      (v.toNat / 65536 ≠ 0x4441 → refused (.updAppend ag v) 0x20) ∧
      (v.toNat / 65536 = 0x4441 → ¬idle → refused (.updAppend ag v) 0x21) ∧
      (v.toNat / 65536 = 0x4441 → idle →
        (¬length → turnedAway s (.updAppend ag v) 0x6C 0x06 fun b' => b'.upd = u) ∧
        (length → 0x20000000 < o + n → refused (.updAppend ag v) 0x22) ∧
        (length → o + n ≤ 0x20000000 → ∃ b', exec (.updAppend ag v) s = .next (put s b') ∧
          readBytes b'.ddr (0x3C0000000 + o) n = bytesOfWords ((List.range (n / 4)).map fun i => mget 0 (s.blk.agent ag).updWin i) ∧
          (b'.agent ag).updOfs = o + n ∧ b'.upd = { u with fill := max u.fill (o + n) } ∧
          (∀ a, a < 0x3C0000000 + o ∨ 0x3C0000000 + o + n ≤ a → byteAt b'.ddr a = byteAt s.blk.ddr a) ∧ b'.regs = s.blk.regs))) ∧
    (∀ bad, u.phase = 2 ∨ u.phase = 3 → s.blk.supply.brace = false → s.blk.up = true → s.blk.inReset 0x6C = false →
      let b := if u.phase = 2 then stageFill s.blk else s.blk
      let built := buildParts (b.upd.slots[i]).manifest bad b.upd.pkg b
      let rest := (List.range 8).filterMap fun k => if b.upd.pkg.any (fun p => p.kind = k + 1) then none else some (k + 1)
      let code := if built.1.2 = 0 then (copyParts rest built.2).1.2 else built.1.2
      (code = 0 → ∃ b', exec (.updStageDone bad) s = .next (put s b') ∧
        (b'.upd.slots[i]).st = 2 ∧ b'.upd.phase = 4 ∧ b'.upd.running = u.running ∧ raisedEvent 0xA00 (b.upd.slots[i]).seq b.upd.pkg.length b') ∧
      (code ≠ 0 → ∃ b', exec (.updStageDone bad) s = .next (put s b') ∧ (b'.upd.slots[i]).st = 5 ∧ b'.upd.result = code ∧
        b'.upd.phase = 0 ∧ errorCounted 0x6C code s.blk b')) ∧
    (∀ bad, ¬(u.phase = 2 ∨ u.phase = 3) ∨ s.blk.supply.brace = true ∨ s.blk.up = false ∨ s.blk.inReset 0x6C = true →
      exec (.updStageDone bad) s = .next s)
/-- R593–R599: ACTIVATE takes the levels of BACKUP_N and UPD_INHIBIT_N that it finds; of a staged slot it begins the shadow run in an owner-locked part, asks the partner of a pair first, or is refused with the code of what stands
against it; ABORT leaves each phase; the shadow run fixes T_h or fails, as by its time-out; at T_h the slots change over; probation that
passes keeps the new slot and its migrated settings, not in brace; one that failed hands back at the bale time 10 ms later. -/
def Sys2Proof.Claim.updateActivation : Prop :=
  ∀ (s : State),
    let u := s.blk.upd
    let i : Fin 2 := 1 - u.running
    let active := s.blk.settings.slots[s.blk.settings.active]
    let refused := fun (c : Instr) (code : Nat) => turnedAway s c 0x6C code fun b' => b'.upd = { u with result := code }
    let abandoned := fun (c : Instr) (code : Nat) => ∃ b', exec c s = .next (put s b') ∧ b'.upd.phase = 0 ∧ b'.upd.result = code ∧
      (b'.upd.slots[i]).st = 5 ∧ b'.upd.slotHeld = false ∧ b'.upd.running = u.running
    (∀ ag v, accepts s.blk ag 0x6C 0x05C → v.toNat / 65536 = 0x5550 →
      (∀ pins, exec (.updActivate ag v pins) s = exec (.updActivate ag v pins) (put s (updPins pins s.blk))) ∧
      (∀ pins, updPins pins s.blk = s.blk → let c := Instr.updActivate ag v pins
        (u.phase ≠ 4 → refused c 0x21) ∧
        (u.phase = 4 →
          (activateCheck s.blk true ≠ 0 → refused c (activateCheck s.blk true)) ∧
          (activateCheck s.blk true = 0 → s.blk.member = true → ∃ b', exec c s = .next (put s b') ∧
            b'.upd.phase = 5 ∧ b'.upd.result = 0 ∧ b'.upd.slots = u.slots) ∧
          (activateCheck s.blk true = 0 → s.blk.member = false → ∃ b', exec c s = .next (put s b') ∧
            b'.upd.phase = 6 ∧ b'.upd.slotHeld = true ∧ b'.upd.running = u.running ∧ (∀ p ∈ allPages, b'.locked p = true) ∧
            raisedEvent 0xA02 (u.slots[i]).seq 0 b'))) ∧
      (u.phase < 5 ∨ 7 < u.phase → refused (.updAbort ag v) 0x21) ∧
      (u.phase = 5 → ∃ b', exec (.updAbort ag v) s = .next (put s b') ∧ b'.upd.phase = 4 ∧ b'.upd.result = 0) ∧
      (u.phase = 6 → abandoned (.updAbort ag v) 0) ∧
      (u.phase = 7 → u.failAt = none → exec (.updAbort ag v) s = .next (put s { s.blk with upd := { u with failAt := some (s.blk.now, 5) } })) ∧
      (u.phase = 7 → u.failAt.isSome = true → exec (.updAbort ag v) s = .next s)) ∧
    (∀ w, u.phase = 6 → u.th = none → s.blk.inReset 0x6C = false →
      let same := active.schema = (u.slots[i]).version 8
      abandoned (.updShadowDone w false) 0x31 ∧
      (¬same → w = none → abandoned (.updShadowDone w true) 0x30) ∧
      (same ∨ w.isSome = true →
        (u.shadowLeft ≠ 0 ∨ u.spare = none → exec (.updShadowDone w true) s = .next s) ∧
        (u.shadowLeft = 0 → u.spare.isSome = true →
          (activateCheck s.blk false ≠ 0 → abandoned (.updShadowDone w true) (activateCheck s.blk false)) ∧
          (activateCheck s.blk false = 0 → ∃ b' t, exec (.updShadowDone w true) s = .next (put s b') ∧ b'.upd.th = some t ∧
            s.blk.now + gtMs 100 ≤ t ∧ (same → b'.upd.mig = active.words) ∧ b'.upd.phase = 6 ∧ b'.regs = s.blk.regs)))) ∧
    (∀ w ok, u.phase ≠ 6 ∨ u.th.isSome = true ∨ s.blk.inReset 0x6C = true → exec (.updShadowDone w ok) s = .next s) ∧
    (let late := u.phase = 6 ∧ u.th = none ∧ u.shadowAt + s.blk.f (pg 0x6C 0x044) 7 0 * gtSec ≤ s.blk.mono
     (late → abandoned .updShadowTimeout 0x31) ∧ (¬late → exec .updShadowTimeout s = .next s)) ∧
    (∀ t, u.phase = 6 → u.th = some t → t ≤ s.blk.now → s.blk.inReset 0x6C = false → ∃ b', exec .updHandover s = .next (put s b') ∧
      b'.upd.running = i ∧ b'.upd.phase = 7 ∧ (b'.upd.slots[i]).st = 3 ∧ b'.upd.failAt = none ∧ raisedEvent 0xA03 (u.slots[i]).seq
        ((leadRate s.blk).elim 0 fun r => baleIndex (s.blk.rateHz r) t) b') ∧
    (u.phase ≠ 6 ∨ u.th = none ∨ (∃ t, u.th = some t ∧ s.blk.now < t) ∨ s.blk.inReset 0x6C = true → exec .updHandover s = .next s) ∧
    (let elapsed := u.th.getD 0 + s.blk.f (pg 0x6C 0x040) 11 0 * gtSec ≤ s.blk.now
     (u.phase = 7 → u.failAt = none → elapsed → s.blk.supply.brace = false → ∃ b',
       exec .updProbationPass s = .next (put s b') ∧ b'.upd.phase = 0 ∧ (b'.upd.slots[u.running]).st = 4 ∧ (b'.upd.slots[i]).st = 6 ∧
       b'.settings.active = 1 - s.blk.settings.active ∧ b'.settings.slots[b'.settings.active].words = u.mig ∧ b'.upd.running = u.running) ∧
     (u.phase ≠ 7 ∨ u.failAt.isSome = true ∨ ¬elapsed ∨ s.blk.supply.brace = true → exec .updProbationPass s = .next s)) ∧
    (∀ t cause, u.phase = 7 → u.failAt = some (t, cause) → leadAfter s.blk (t + gtMs 10) ≤ s.blk.now → ∃ b',
      exec .updHandback s = .next (put s b') ∧ b'.upd.running = i ∧ b'.upd.phase = 0 ∧ (b'.upd.slots[u.running]).st = 5 ∧
      b'.upd.result = 0x32 ∧ raisedEvent 0xA05 (u.slots[u.running]).seq cause b') ∧
    (u.phase ≠ 7 ∨ u.failAt = none ∨ (∃ t c, u.failAt = some (t, c) ∧ s.blk.now < leadAfter s.blk (t + gtMs 10)) →
      exec .updHandback s = .next s) ∧
    (u.phase = 6 → abandoned .firmwareWatchdogTrip 0x31) ∧
    (u.phase = 7 → u.failAt = none → exec .firmwareWatchdogTrip s =
      .next (put s { s.blk with upd := { u with failAt := some (s.blk.now, 1) } })) ∧
    (u.phase ≠ 6 → u.phase ≠ 7 ∨ u.failAt.isSome = true → exec .firmwareWatchdogTrip s = .next s)

/-- R584–R602: staging, the build, the shadow run, the handover and its probation follow their rules. -/
def Obligations.FieldUpdateStagesAndActivates : Prop := updateStaging ∧ updateActivation
/-! Grid time (R112–R144). -/

/-- R119–R128: a reading of a source that works is judged against the one before: a steady one starts the source's qualification, qualifies it behind
QUAL_S, and the list selects it; a jump disqualifies it. A reading of the selected source renews E and, with VALID 1 and no slew
running, slews an offset above 100 ns at SLEW_PPM or corrects the rate by 0.1 ppm at the most. A source whose input is
lost is disqualified, and holdover begins with the last one; PTP is lost with the last Announce. An offset beyond the step
threshold for 10 s disqualifies the source or, where steps are allowed, lets the counter step by the selected one. -/
def Sys2Proof.Claim.timeSources : Prop :=
  ∀ (s : State) (i : Fin 3) (ofs : Int),
    let v := s.blk.time.srcs[i]
    let c := i.val + 1
    let works := s.blk.timeRuns = true ∧ srcUsable s.blk i = true
    let slew := if s.blk.time.slewEnd.isSome then (s.blk.mono - max v.lastAt s.blk.time.slewFrom) * s.blk.f (pg 0x02 0x040) 23 16 / 1000000 else 0
    let steady := v.fresh = true ∨ ∀ p, v.last = some p → (ofs - p).natAbs < 1000 * 65536 + slew
    let gives := fun (P : Block → Prop) => ∃ b', exec (.timeOffsetReading i ofs) s = .next (put s b') ∧ (b'.time.srcs[i]).last = some ofs ∧ P b'
    (¬works → exec (.timeOffsetReading i ofs) s = .next s) ∧
    (works →
      (steady → v.st = .absent ∨ v.st = .disqualified →
        gives fun b' => (b'.time.srcs[i]).st = .qualifying ∧ (b'.time.srcs[i]).since = s.blk.mono) ∧
      (steady → v.st = .qualifying → s.blk.mono < v.since + s.blk.f (pg 0x02 0x040) 15 8 * gtSec →
        gives fun b' => (b'.time.srcs[i]).st = .qualifying ∧ (b'.time.srcs[i]).since = v.since) ∧
      (steady → v.st = .qualifying → v.since + s.blk.f (pg 0x02 0x040) 15 8 * gtSec ≤ s.blk.mono →
        gives fun b' => (b'.time.srcs[i]).st = .qualified ∧
          (s.blk.f (pg 0x02 0x044) 3 0 = c → srcIsUtc s.blk i.val = false → s.blk.time.selected = 0 →
            b'.time.selected.val = c ∧ raisedEvent 0x100 c 0 b' ∧ b'.time.holdover = false)) ∧
      (¬steady → v.st = .qualified → gives fun b' => (b'.time.srcs[i]).st = .disqualified ∧ raisedEvent 0x101 c 1 b') ∧
      (¬steady → v.st = .disqualified → gives fun b' => (b'.time.srcs[i]).st = .disqualified) ∧
      (¬steady → v.st = .qualifying → gives fun b' => (b'.time.srcs[i]).st = .qualifying ∧ (b'.time.srcs[i]).since = s.blk.mono) ∧
      (steady → v.st = .qualified → gives fun b' => (b'.time.srcs[i]).st = .qualified) ∧
      (steady → v.st = .qualified → s.blk.time.selected.val = c → bestSrc s.blk = c → ofs.natAbs ≤ (s.blk.r (pg 0x02 0x04C)).toNat * 65536 →
        let h := ((s.blk.mono, ofs) :: v.hist).take 16
        let m := meanI (h.map (·.2))
        let ppm := s.blk.f (pg 0x02 0x040) 23 16
        let held := s.blk.time.heldAdj
        gives fun b' => (b'.time.srcs[i]).hist = h ∧ b'.time.eAt = estimateE m (devI (h.map (·.2))) v.inacc ∧ b'.time.eFrom = s.blk.now ∧
          b'.time.ctr = s.blk.time.ctr ∧
          (s.blk.time.valid = false ∨ s.blk.time.slewEnd.isSome = true → b'.time.freqAdj = s.blk.time.freqAdj ∧
            b'.time.slewEnd = s.blk.time.slewEnd ∧ b'.time.locked = s.blk.time.slewEnd.isNone) ∧
          (s.blk.time.valid = true → s.blk.time.slewEnd = none → m.natAbs ≤ 100 * 65536 → b'.time.locked = true ∧ b'.time.slewEnd = none ∧
            (-45035996273 ≤ held → held ≤ 45035996273 → (b'.time.freqAdj - held).natAbs ≤ 22517998)) ∧
          (s.blk.time.valid = true → s.blk.time.slewEnd = none → 100 * 65536 < m.natAbs → b'.time.locked = false ∧
            b'.time.slewEnd = some (s.blk.mono + ceilDiv (m.natAbs * 1000000) (max ppm 1)) ∧ b'.time.slewOfs = m ∧
            b'.time.freqAdj = clampAdj (held + (if m < 0 then ppmUnits ppm else -(ppmUnits ppm)))))) ∧
    (let lost := s.blk.aon = true ∧ v.st ≠ .absent ∧ v.st ≠ .disqualified ∧ v.inputAt + 2 * gtSec ≤ s.blk.mono
     i ≠ 0 → (¬lost → exec (.sourceLossTimeout i) s = .next s) ∧
       (lost → ∃ b', exec (.sourceLossTimeout i) s = .next (put s b') ∧ (b'.time.srcs[i]).st = .disqualified ∧ b'.time.ctr = s.blk.time.ctr ∧
         (v.st = .qualified → raisedEvent 0x101 c 0 b') ∧
         (s.blk.time.selected.val = c → s.blk.time.valid = true → (∀ j, j ≠ i → (s.blk.time.srcs[j]).st ≠ .qualified) →
           b'.time.selected = 0 ∧ b'.time.holdover = true ∧ b'.time.locked = false))) ∧
    (let silent := fun (k : Fin 2) => (s.blk.time.ptp[k]).best.isSome = true ∧ (s.blk.time.ptp[k]).heardAt + 3 * gtSec ≤ s.blk.mono
     (s.blk.aon = false ∨ (∀ k, ¬silent k) → exec (.sourceLossTimeout 0) s = .next s) ∧
     (s.blk.aon = true → (∃ k, silent k) → ∃ b', exec (.sourceLossTimeout 0) s = .next (put s b') ∧
       (∀ k, silent k → (b'.time.ptp[k]).best = none) ∧ b'.time.ctr = s.blk.time.ctr ∧
       ((∀ k, silent k ∨ (s.blk.time.ptp[k]).best = none) → (s.blk.time.srcs[(0 : Fin 3)]).st = .qualified →
         (b'.time.srcs[(0 : Fin 3)]).st = .disqualified ∧ raisedEvent 0x101 1 0 b'))) ∧
    (v.above = none → exec (.stepThresholdTimeout i) s = .next s) ∧
    (∀ t, v.above = some t →
      (s.blk.mono < t + 10 * gtSec → exec (.stepThresholdTimeout i) s = .next s) ∧
      (t + 10 * gtSec ≤ s.blk.mono → s.blk.t (pg 0x02 0x040) 3 = false → ∃ b', exec (.stepThresholdTimeout i) s = .next (put s b') ∧
        (b'.time.srcs[i]).st = .disqualified ∧ (v.st = .qualified → raisedEvent 0x101 c 2 b')) ∧
      (t + 10 * gtSec ≤ s.blk.mono → s.blk.t (pg 0x02 0x040) 3 = true →
        (s.blk.time.selected.val = c → s.blk.time.valid = true →
          exec (.stepThresholdTimeout i) s = .next (put s { s.blk with time := { s.blk.time with stepWait := v.last } })) ∧
        (s.blk.time.selected.val ≠ c ∨ s.blk.time.valid = false → exec (.stepThresholdTimeout i) s = .next s)))
/-- R117, R122–R125, R128, R135: a waiting step moves the counter by the offset; the first setting by a source sets it and VALID, the host's waits for
the next tick and is refused with code 0x20 while VALID is 1, the side-band's with 0x02; the loss of XO_IN ends VALID, every source and a pulse, and its return lets
the counter go on; a slew ends at its end; LOCKED falls 2 s after the last reading. -/
def Sys2Proof.Claim.timeSteps : Prop :=
  ∀ (s : State),
    (s.blk.time.stepWait = none → exec .timeStep s = .next s) ∧
    (∀ ofs, s.blk.time.stepWait = some ofs → ∃ b', exec .timeStep s = .next (put s b') ∧
      b'.time.ctr = ((s.blk.now : Int) - ofs).toNat * 2 ^ 32 ∧ b'.time.stepWait = none ∧ ∃ o ∈ b'.evr.occ, o.code = 0x104) ∧
    (∀ sec, s.blk.aon = true → s.blk.time.xo = true → s.blk.time.valid = false → s.blk.time.selected ≠ 0 → ∃ b',
      exec (.timeSetBySource sec) s = .next (put s b') ∧ b'.time.ctr = sec.toNat * gtSec * 2 ^ 32 ∧ b'.time.valid = true ∧
      raisedEvent 0x108 0 0 b' ∧ b'.time.selected = s.blk.time.selected) ∧
    (∀ sec, s.blk.aon = false ∨ s.blk.time.xo = false ∨ s.blk.time.valid = true ∨ s.blk.time.selected = 0 →
      exec (.timeSetBySource sec) s = .next s) ∧
    (∀ v, accepts s.blk .host 0x02 0x084 →
      (s.blk.time.valid = true → ∃ b', exec (.timeSetCmd .host v) s = .next (put s b') ∧ onlyError 0x02 0x20 s.blk b' ∧
        b'.time = s.blk.time) ∧
      (s.blk.time.valid = false → exec (.timeSetCmd .host v) s = .next (put s { s.blk with time := { s.blk.time with
        setPend := some (mkGt (s.blk.n64 (pg 0x02 0x078)) (s.blk.f (pg 0x02 0x080) 29 0)) } }))) ∧
    (∀ v, s.blk.reach .side 0x02 = true → s.blk.inReset 0x02 = false → ∃ b', exec (.timeSetCmd .side v) s = .next (put s b') ∧
      onlyError 0x02 0x02 s.blk b' ∧ b'.time = s.blk.time) ∧
    (s.blk.time.xo = true → ∃ b', exec .xoLoss s = .next (put s b') ∧ b'.time.xo = false ∧ b'.time.valid = false ∧
      b'.time.selected = 0 ∧ b'.time.ctr = s.blk.time.ctr ∧ (∀ i : Fin 3, (b'.time.srcs[i]).st = .absent) ∧ b'.balls.ppsOut = false) ∧
    (s.blk.time.xo = false → exec .xoLoss s = .next s ∧ exec .xoResume s = .next (put s { s.blk with
      time := { s.blk.time with xo := true, valid := false, eFrom := s.blk.time.eFrom - (s.blk.mono - s.blk.time.xoAt) },
      evr := { s.blk.evr with occ := s.blk.evr.occ ++ [⟨0x10A, 0, 0⟩] } })) ∧
    (s.blk.time.xo = true → exec .xoResume s = .next s) ∧
    (s.blk.time.slewEnd = none → exec .slewEnd s = .next s) ∧
    (∀ e, s.blk.time.slewEnd = some e →
      (e ≤ s.blk.mono → ∃ b', exec .slewEnd s = .next (put s b') ∧ b'.time.slewEnd = none ∧
        b'.time.freqAdj = clampAdj s.blk.time.heldAdj ∧ b'.time.ctr = s.blk.time.ctr) ∧
      (s.blk.mono < e → exec .slewEnd s = .next s)) ∧
    (∀ i : Fin 3, s.blk.time.selected.val = i.val + 1 →
      (s.blk.time.locked = true → (s.blk.time.srcs[i]).lastAt + 2 * gtSec ≤ s.blk.mono → exec .lockedReadingTimeout s =
        .next (put s { s.blk with time := { s.blk.time with locked := false } })) ∧
      (s.blk.time.locked = false ∨ s.blk.mono < (s.blk.time.srcs[i]).lastAt + 2 * gtSec → exec .lockedReadingTimeout s = .next s))
/-- R129–R133: a message that does not parse or comes on no PTP port is dropped, a Delay_Req is counted, one that is not authentic records code
0x25; an Announce is kept as the best where none was, and a Sync in one step gives the part its offset. A Pdelay_Req on C or D is answered
in queue 0. A running part's own Pdelay_Req, and as master its Sync and Announce, count their sequence numbers, as those of the transparent clock on
C and D do. -/
def Sys2Proof.Claim.ptpMessages : Prop :=
  ∀ (s : State) (p : Nat) (ingress : Gt) (l : List Byte) (rest : List (Nat × Gt × List Byte)),
    (s.blk.time.ptpIn = [] → exec .ptpMessageRx s = .next s) ∧ (s.blk.time.tcIn = [] → exec .pdelayReqRx s = .next s) ∧
    (s.blk.time.ptpIn = (p, ingress, l) :: rest →
      (ptpParse (outerTpid s.blk p) l = none ∨ ptpAt s.blk p = none →
        exec .ptpMessageRx s = .next (put s { s.blk with time := { s.blk.time with ptpIn := rest } })) ∧
      (∀ m k, ptpParse (outerTpid s.blk p) l = some m → ptpAt s.blk p = some k →
        (m.typ = 1 ∨ m.typ = 9 → ∃ b', exec .ptpMessageRx s = .next (put s b') ∧
          b'.r (pg 0x02 0x0AC) = satInc (s.blk.r (pg 0x02 0x0AC)) ∧ regsKeptBut [pg 0x02 0x0AC] s.blk b' ∧ b'.time.ptpIn = rest) ∧
        (m.typ ≠ 1 → m.typ ≠ 9 → m.domain = s.blk.f (pg 0x02 0x090) 31 24 →
          ((ptpAuth m s.blk).1 = false → ∃ b', exec .ptpMessageRx s = .next (put s b') ∧ b'.time.ptpIn = rest ∧
            errorCounted 0x02 0x25 s.blk b' ∧ b'.time.srcs = s.blk.time.srcs) ∧
          ((ptpAuth m s.blk).1 = true → m.typ = 0xB → (s.blk.time.ptp[k]).best = none → ∃ b',
            exec .ptpMessageRx s = .next (put s b') ∧ (b'.time.ptp[k]).best = some (ptpAnnounceOf m) ∧
            (b'.time.ptp[k]).heardAt = s.blk.mono ∧ b'.time.ptpIn = rest) ∧
          ((ptpAuth m s.blk).1 = true → m.typ = 0 → m.twoStep = false → (s.blk.time.ptp[k]).st = .slave →
            k = s.blk.time.ptpActive → s.blk.timeRuns = true → ∃ b', exec .ptpMessageRx s = .next (put s b') ∧
            let ofs : Int := ingress - ptpStamp m.bytes 34 - m.corr - (s.blk.time.ptp[k]).pdelay
            (b'.time.srcs[(0 : Fin 3)]).last = some ofs ∧ b'.r (pg 0x02 0x09C) = w32 (sarg (ofs / 2 ^ 14)) ∧ b'.time.ptpIn = rest)))) ∧
    (s.blk.time.tcIn = (p, ingress, l) :: rest → p < 4 →
      (ptpParse (outerTpid s.blk p) l = none →
        exec .pdelayReqRx s = .next (put s { s.blk with time := { s.blk.time with tcIn := rest } })) ∧
      (∀ m, ptpParse (outerTpid s.blk p) l = some m → m.typ = 2 → (s.blk.port p).link = true →
        (s.blk.port p).sending.isSome = true → queued (s.blk.port p).q0 ≤ 16000 → ∃ b' f, exec .pdelayReqRx s = .next (put s b') ∧
        b'.time.tcIn = rest ∧ (b'.port p).q0 = (s.blk.port p).q0 ++ [f] ∧ f.kind = .ptp ∧ f.ingress = ingress)) ∧
    (s.blk.running = false ∨ s.blk.inReset 0x02 = true → ∀ q kind, exec (.ptpIntervalTx q kind) s = .next s) ∧
    (s.blk.running = true → s.blk.inReset 0x02 = false →
      (∀ q : Fin 2, ptpHas s.blk q = true → ∃ b', exec (.ptpIntervalTx (q.castLE (by decide)) .pdelayReq) s = .next (put s b') ∧
        (b'.time.ptp[q]).seqPd = ((s.blk.time.ptp[q]).seqPd + 1) % 65536) ∧
      (∀ q : Fin 2, ptpHas s.blk q = true → s.blk.f (pg 0x02 0x090) 7 6 = 2 →
        (∃ b', exec (.ptpIntervalTx (q.castLE (by decide)) .sync) s = .next (put s b') ∧ (b'.time.ptp[q]).st = .master ∧
          (b'.time.ptp[q]).seqSync = ((s.blk.time.ptp[q]).seqSync + 1) % 65536) ∧
        (∃ b', exec (.ptpIntervalTx (q.castLE (by decide)) .announce) s = .next (put s b') ∧ (b'.time.ptp[q]).st = .master ∧
          (b'.time.ptp[q]).seqAnn = ((s.blk.time.ptp[q]).seqAnn + 1) % 65536)) ∧
      (passOn s.blk = true →
        (∃ b', exec (.ptpIntervalTx 2 .pdelayReq) s = .next (put s b') ∧
          (b'.time.tc[(0 : Fin 2)]).seqPd = ((s.blk.time.tc[(0 : Fin 2)]).seqPd + 1) % 65536) ∧
        (∃ b', exec (.ptpIntervalTx 3 .pdelayReq) s = .next (put s b') ∧
          (b'.time.tc[(1 : Fin 2)]).seqPd = ((s.blk.time.tc[(1 : Fin 2)]).seqPd + 1) % 65536)))
/-- R134–R139, R143: an edge is stamped and waits 500 ms for its message; a message with a good CRC, or with NMEA a ZDA sentence that reads,
gives the source an offset, another or a late one, and none in time, records code 0x24; an IRIG-B frame is a reading where a UTC offset is known, or
records code 0x26; REF_IN is good within its limits and steers the rate in holdover; a pulse and its message leave at the second while VALID
is 1; a leap second changes the UTC offset at its instant; a setting of the sample-pulse generator waits for its own. -/
def Sys2Proof.Claim.timeInputs : Prop :=
  ∀ (s : State),
    (∀ t : Fin 8, (s.blk.timeRuns = true → s.blk.time.xo = true → exec (.ppsInEdge t) s = .next (put s { s.blk with time := { s.blk.time with
        ppsEdge := some ((s.blk.now : Int) + (rndNat (t.val * 65536) 10 : Nat) + sgn 32 (s.blk.n (pg 0x02 0x0D4)) * 65536).toNat } })) ∧
      (s.blk.timeRuns = false ∨ s.blk.time.xo = false → exec (.ppsInEdge t) s = .next s)) ∧
    (∀ l, let bad := ∃ b', exec (.todMessageRx l) s = .next (put s b') ∧ b'.time = { s.blk.time with ppsEdge := none } ∧ onlyError 0x02 0x24 s.blk b'
      (s.blk.timeRuns = false → exec (.todMessageRx l) s = .next s) ∧
      (s.blk.timeRuns = true → s.blk.time.ppsEdge = none → bad) ∧
      (∀ e, s.blk.timeRuns = true → s.blk.time.ppsEdge = some e →
        let shows := fun (sec : Int) => ∃ b', exec (.todMessageRx l) s = .next (put s b') ∧ b'.time.ppsEdge = none ∧
          (b'.time.srcs[(1 : Fin 3)]).last = some ((e : Int) - sec * gtSec)
        let good := l.length = 16 ∧ beAt l 0 2 = 0x4754 ∧ beAt l 2 1 = 1 ∧ beAt l 14 2 = crc16 (l.take 14)
        (e + gtMs 500 < s.blk.now → bad) ∧
        (s.blk.now ≤ e + gtMs 500 →
          (s.blk.t (pg 0x02 0x0DC) 8 = false → (good → shows (beAt l 4 6)) ∧ (¬good → bad)) ∧
          (s.blk.t (pg 0x02 0x0DC) 8 = true →
            (zdaUtc l = none → bad) ∧ (∀ u d, zdaUtc l = some u → s.blk.delta = some d → shows (u + d)) ∧
            (∀ u, zdaUtc l = some u → s.blk.delta = none → exec (.todMessageRx l) s = .next (put s { s.blk with
              time := { s.blk.time with ppsEdge := none } })))))) ∧
    (s.blk.time.ppsEdge = none → exec .todTimeout s = .next s) ∧
    (∀ e, s.blk.time.ppsEdge = some e →
      (e + gtMs 500 ≤ s.blk.now → ∃ b', exec .todTimeout s = .next (put s b') ∧
        b'.time = { s.blk.time with ppsEdge := none } ∧ onlyError 0x02 0x24 s.blk b') ∧
      (s.blk.now < e + gtMs 500 → exec .todTimeout s = .next s)) ∧
    (∀ f : IrigFrame,
      (s.blk.timeRuns = false ∨ s.blk.time.xo = false → exec (.irigFrameRx f) s = .next s) ∧
      (s.blk.timeRuns = true → s.blk.time.xo = true →
        (f.good = false → ∃ b', exec (.irigFrameRx f) s = .next (put s b') ∧ onlyError 0x02 0x26 s.blk b' ∧ b'.time = s.blk.time) ∧
        (f.good = true → s.blk.delta = none → ∃ b', exec (.irigFrameRx f) s = .next (put s b') ∧ b'.regs = s.blk.regs ∧
          b'.time.ctr = s.blk.time.ctr ∧ (b'.time.srcs[(2 : Fin 3)]).last = (s.blk.time.srcs[(2 : Fin 3)]).last) ∧
        (∀ d, f.good = true → s.blk.delta = some d →
          let y := f.year.getD (yearOfDays (((secOf s.blk.now : Int) - d) / 86400).toNat)
          let loc : Int := if s.blk.t (pg 0x02 0x0E0) 31 = true then f.localHalfHours * 1800 else 0
          ∃ b', exec (.irigFrameRx f) s = .next (put s b') ∧ (b'.time.srcs[(2 : Fin 3)]).last = some ((f.edge : Int)
            + sgn 16 (s.blk.f (pg 0x02 0x0E0) 15 0) * 65536
            - (((yearDays y + (f.day - 1)) * 86400 + f.secOfDay : Nat) - loc + d) * gtSec)))) ∧
    (∀ mh,
      let on := s.blk.t (pg 0x02 0x044) 16 = true ∧ s.blk.timeRuns = true
      let nom := s.blk.f (pg 0x02 0x05C) 16 0 * 1000000
      (¬on → exec (.refInMeasure mh) s = .next (put s { s.blk with time := { s.blk.time with refOk := false, refLast := none } })) ∧
      (on → ∃ b', exec (.refInMeasure mh) s = .next (put s b') ∧ b'.time.refLast = some mh ∧
        (b'.time.refOk = true ↔ ((mh : Int) - nom).natAbs * 1000000 ≤ nom * 50 ∧
          ∀ l, s.blk.time.refLast = some l → ((mh : Int) - l).natAbs * 100000000 < nom) ∧
        (s.blk.time.holdover = false ∨ b'.time.refOk = false → b'.time.freqAdj = s.blk.time.freqAdj) ∧
        (s.blk.time.holdover = true → b'.time.refOk = true → b'.time.freqAdj = clampAdj (refSteer s.blk mh)))) ∧
    (s.blk.aon = true → s.blk.time.valid = true → ∃ b' l, exec .ppsOutEdge s = .next (put s b') ∧ b'.balls.ppsOut = true ∧
      b'.time.ppsEnd = some (s.blk.now + gtMs (s.blk.f (pg 0x02 0x0D0) 8 0)) ∧ b'.out = s.blk.out ++ [.tod l] ∧ l.length = 16 ∧
      beAt l 14 2 = crc16 (l.take 14) ∧ b'.regs = s.blk.regs) ∧
    (s.blk.aon = false ∨ s.blk.time.valid = false → exec .ppsOutEdge s = .next s) ∧
    (s.blk.time.ppsEnd = none → exec .ppsOutPulseEnd s = .next s) ∧
    (∀ e, s.blk.time.ppsEnd = some e →
      (e ≤ s.blk.now → exec .ppsOutPulseEnd s = .next (put s { s.blk with
        balls := { s.blk.balls with ppsOut := false }, time := { s.blk.time with ppsEnd := none } })) ∧
      (s.blk.now < e → exec .ppsOutPulseEnd s = .next s)) ∧
    (s.blk.delta = none ∨ leapPending s.blk = none → exec .leapApply s = .next s) ∧
    (∀ d l59, s.blk.delta = some d → leapPending s.blk = some l59 →
      let d2 := if l59 = true then d - 1 else d + 1
      (((secOf s.blk.now : Int) - d) % 86400 = (if l59 = true then 86399 else 1) → ∃ b', exec .leapApply s = .next (put s b') ∧
        b'.delta = some d2 ∧ b'.time.ctr = s.blk.time.ctr ∧ recorded 0x105 (sarg d2) 0 s.blk b' ∧ b'.regs = s.blk.regs) ∧
      (((secOf s.blk.now : Int) - d) % 86400 ≠ (if l59 = true then 86399 else 1) → exec .leapApply s = .next s)) ∧
    (s.blk.time.spgPend = none → exec .spgSettingApply s = .next s) ∧
    (∀ t src del, s.blk.time.spgPend = some (t, src, del) →
      (t ≤ s.blk.now → ∃ b', exec .spgSettingApply s = .next (put s b') ∧ b'.time.spgSrc = src ∧ b'.time.spgDelay = del ∧
        b'.time.spgPend = none ∧ (src = s.blk.time.spgSrc → b'.chain = s.blk.chain)) ∧
      (s.blk.now < t → exec .spgSettingApply s = .next s))

/-- R117, R120–R128: sources qualify and are selected, the servo follows them, and the counter steps only as allowed. -/
def Obligations.TimeSourcesServoAndSteps : Prop := timeSources ∧ timeSteps
/-- R129–R144: PTP messages, pulses, time-of-day messages, IRIG-B, REF_IN and leap seconds. -/
def Obligations.TimeMessagesPulsesAndLeaps : Prop := ptpMessages ∧ timeInputs

/-! Ports (R149–R184). -/

/-- The address of a port's counter i (R178). -/
def Sys2Proof.Claim.portCnt (p i : Nat) : Nat := pg (4 + p) (0x200 + 8 * i)
/-- The frame check sequence of a frame, in its last four bytes, holds and no error block lies in it. -/
def Sys2Proof.Claim.fcsGood (l : List Byte) (errorBlock : Bool) : Prop :=
  errorBlock = false ∧ 4 ≤ l.length ∧ crc32 (l.take (l.length - 4)) = leAt l (l.length - 4) 4
/-- R155: a frame of 64 bytes to MAX_LEN is a valid PAUSE frame. -/
def Sys2Proof.Claim.isPause (b : Block) (p : Nat) (l : List Byte) : Prop :=
  64 ≤ l.length ∧ l.length ≤ maxLen b p ∧ beAt l 12 2 = 0x8808 ∧ beAt l 14 2 = 1 ∧
    (beAt l 0 6 = 0x0180C2000001 ∨ slice l 0 6 = macOf b p)
/-- A port whose line is taken: no frame can start. -/
def Sys2Proof.Claim.busy (b : Block) (p : Nat) : Prop := (b.port p).sending.isSome = true
/-- So is its PRP partner's. -/
def Sys2Proof.Claim.bothBusy (b : Block) (p : Nat) : Prop := busy b p ∧ ∀ q, prpPeer b p = some q → busy b q

/-- R157: while PAUSE_RX_EN is 0 a valid PAUSE frame is counted, in RX_PAUSE and as any frame that passes, its FEC blocks are counted
where FEC is in use, and nothing but those counters changes. -/
def Obligations.PauseWithoutPauseRxEnOnlyCounts : Prop :=
  ∀ (s : State) (port : Fin 4) (l : List Byte) (ago corr uncorr : Nat),
    let p := port.val
    let kind := if beAt l 0 6 = 0xFFFFFFFFFFFF then 4 else if beAt l 0 1 % 2 = 1 then 3 else 2
    s.blk.up = true → (s.blk.port p).link = true → s.blk.t (pg (4 + p) 0x040) 4 = false → fcsGood l false → isPause s.blk p l → ∃ b',
      exec (.frameReceive port l false ago corr uncorr) s = .next (put s b') ∧ counted (portCnt p 13) s.blk b' ∧
      counted (portCnt p 0) s.blk b' ∧
      counted (portCnt p kind) s.blk b' ∧ b'.n64 (portCnt p 1) = (s.blk.n64 (portCnt p 1) + l.length) % 2 ^ 64 ∧
      regsKeptBut ([13, 0, kind, 1, 16, 17].flatMap fun i => [portCnt p i, portCnt p i + 4]) s.blk b' ∧
      { b' with regs := s.blk.regs } = s.blk

/-- R152–R156, R169, R118: on a port whose link is up a frame is judged by length and FCS and counted, its FEC blocks where FEC is in
use; a good one is buffered with its stamp or lost at a full buffer, and a fill that reaches XOFF sends a PAUSE; a PAUSE sets the pause
end and PAUSED, and other MAC control frames are dropped. -/
def Sys2Proof.Claim.portReceives : Prop :=
  ∀ (s : State) (port : Fin 4) (l : List Byte) (eb : Bool) (ago corr uncorr : Nat),
    let p := port.val
    let t := s.blk.port p
    let c := Instr.frameReceive port l eb ago corr uncorr
    let n := l.length
    let q := beAt l 16 2
    let gives := fun (P : Block → Prop) => ∃ b', exec c s = .next (put s b') ∧ P b'
    let lost := fun (i : Nat) => gives fun b' => counted (portCnt p i) s.blk b' ∧ { b' with regs := s.blk.regs } = s.blk
    ((s.blk.up = false ∨ t.link = false) → exec c s = .next s) ∧
    (s.blk.up = true → t.link = true →
      (let fec := s.blk.t (pg (4 + p) 0x040) 2 && s.blk.t (pg (4 + p) 0x040) 0
       gives fun b' => b'.n64 (portCnt p 16) = (s.blk.n64 (portCnt p 16) + if fec = true then corr else 0) % 2 ^ 64 ∧
        b'.n64 (portCnt p 17) = (s.blk.n64 (portCnt p 17) + if fec = true then uncorr else 0) % 2 ^ 64 ∧
        (eb = true → counted (portCnt p 12) s.blk b')) ∧
      (n < 64 → lost 9) ∧
      (64 ≤ n → maxLen s.blk p < n → (fcsGood l eb → lost 10) ∧ (¬ fcsGood l eb → lost 11)) ∧
      (64 ≤ n → n ≤ maxLen s.blk p → ¬ fcsGood l eb → lost 8) ∧
      (64 ≤ n → n ≤ maxLen s.blk p → fcsGood l eb →
        (beAt l 12 2 = 0x8808 → ¬ isPause s.blk p l → lost 14) ∧
        (isPause s.blk p l → s.blk.t (pg (4 + p) 0x040) 4 = true →
          (q ≠ 0 → gives fun b' => counted (portCnt p 13) s.blk b' ∧ (b'.port p).rx = t.rx ∧
            (b'.port p).pauseEnd = s.blk.mono + quantaTime s.blk p q ∧
            (∀ f, t.pausedFrom = some f → s.blk.mono < t.pauseEnd → (b'.port p).pausedFrom = some f) ∧
            (t.pausedFrom = none ∨ t.pauseEnd ≤ s.blk.mono → (b'.port p).pausedFrom = some s.blk.mono)) ∧
          (q = 0 → gives fun b' => counted (portCnt p 13) s.blk b' ∧ (b'.port p).rx = t.rx ∧
            (b'.port p).pauseEnd = s.blk.mono ∧ (b'.port p).pausedFrom = none ∧
            (∀ f, t.pausedFrom = some f → b'.n64 (portCnt p 44) =
              (s.blk.n64 (portCnt p 44) + (min t.pauseEnd s.blk.mono - f) / 65536) % 2 ^ 64))) ∧
        (beAt l 12 2 ≠ 0x8808 → t.fill + n ≤ 262144 → gives fun b' =>
          counted (portCnt p 0) s.blk b' ∧ b'.n64 (portCnt p 1) = (s.blk.n64 (portCnt p 1) + n) % 2 ^ 64 ∧
          (b'.port p).rx = t.rx ++
            [{ bytes := l, stamp := ((s.blk.now : Int) - ago + (s.blk.r (pg 0x02 (0x0B0 + 4 * p))).toInt).toNat }] ∧
          (let xoff := s.blk.f (pg (4 + p) 0x05C) 31 24 * 1024
           let sends := s.blk.t (pg (4 + p) 0x040) 5 = true ∧ t.fill < xoff ∧ xoff ≤ t.fill + n
           t.sending.isSome = true → (b'.port p).pauseOut = t.pauseOut ++ (if sends then [s.blk.f (pg (4 + p) 0x05C) 15 0] else []))) ∧
        (beAt l 12 2 ≠ 0x8808 → 262144 < t.fill + n → gives fun b' =>
          counted (portCnt p 15) s.blk b' ∧ counted (portCnt p 0) s.blk b' ∧ (b'.port p).rx = t.rx ∧
          (quiet t.ovfAt s.blk = true → raisedEvent 0x202 p 0 b' ∧ b'.t (pg (4 + p) 0x018) 2 = true))))
/-- R156, R158: the pause ends at its end and its time is counted; the port's own PAUSE is repeated when half of it has run out while the
fill stays at or above XON. -/
def Sys2Proof.Claim.portPauses : Prop :=
  ∀ (s : State) (port : Fin 4),
    let p := port.val
    let t := s.blk.port p
    (t.pausedFrom = none ∨ s.blk.mono < t.pauseEnd → exec (.pauseEnd port) s = .next s) ∧
    (∀ f, t.pausedFrom = some f → t.pauseEnd ≤ s.blk.mono → ∃ b', exec (.pauseEnd port) s = .next (put s b') ∧
      (b'.port p).pausedFrom = none ∧ b'.n64 (portCnt p 44) = (s.blk.n64 (portCnt p 44) + (t.pauseEnd - f) / 65536) % 2 ^ 64) ∧
    (let q := s.blk.f (pg (4 + p) 0x05C) 15 0
     let due := fun (at_ : Gt) => s.blk.t (pg (4 + p) 0x040) 5 = true ∧ s.blk.f (pg (4 + p) 0x05C) 23 16 * 1024 ≤ t.fill ∧
       at_ + quantaTime s.blk p q / 2 ≤ s.blk.mono
     ((∀ at_, t.ownPause = some at_ → ¬due at_) → exec (.pauseTxRepeat port) s = .next s) ∧
     (∀ at_, t.ownPause = some at_ → due at_ → ∃ b', exec (.pauseTxRepeat port) s = .next (put s b') ∧ b'.regs = s.blk.regs ∧
       (b'.port p).ownPause = (if q = 0 then none else some s.blk.mono) ∧
       (t.sending.isSome = true ∨ t.link = false → (b'.port p).pauseOut = t.pauseOut ++ [q]) ∧
       (t.sending = none → t.link = true → (b'.port p).pauseOut = (t.pauseOut ++ [q]).drop 1 ∧
         (b'.port p).sending = some { kind := .pause, bytes := pauseFrame s.blk p ((t.pauseOut ++ [q]).headD 0) })))
/-- R151, R179, R180: an enabled port's link is up with block lock, no high BER and no local fault; its rise and fall are recorded, the fall
with its reason, and it drops what classes 0 to 2 hold; disabling a port takes its link down, and enabling starts training. -/
def Sys2Proof.Claim.portLinks : Prop :=
  ∀ (s : State) (port : Fin 4),
    let p := port.val
    let t := s.blk.port p
    let dropped := t.q0.length + t.q1.length + t.q2.length
    let falls := fun (cause : Nat) (b' : Block) => counted (portCnt p 18) s.blk b' ∧ raisedEvent 0x201 p cause b' ∧
      b'.t (pg (4 + p) 0x018) 1 = true ∧ (b'.port p).q0 = [] ∧ (b'.port p).q1 = [] ∧ (b'.port p).q2 = [] ∧
      (prpOn s.blk = false → b'.n64 (portCnt p 45) = (s.blk.n64 (portCnt p 45) + dropped) % 2 ^ 64)
    (∀ bl hb lf rf,
      let works := s.blk.linesOn = true ∧ s.blk.inReset (4 + p) = false ∧ s.blk.enabled (4 + p) = true
      (¬works → exec (.linkChange port bl hb lf rf) s = .next s) ∧
      (works → ∃ b',
        exec (.linkChange port bl hb lf rf) s = .next (put s b') ∧ (b'.port p).link = (bl && !hb && !lf) ∧
        (b'.port p).blockLock = bl ∧ (b'.port p).hiBer = hb ∧ (b'.port p).localFault = lf ∧ (b'.port p).remoteFault = rf ∧
        (∀ q : Fin 4, q ≠ port → (b'.port q.val).link = (s.blk.port q.val).link) ∧
        (hb = true → t.hiBer = false → counted (portCnt p 19) s.blk b') ∧
        (t.link = true → (bl && !hb && !lf) = false → falls (if bl = false then 0 else if hb = true then 1 else 2) b') ∧
        (t.link = false → (bl && !hb && !lf) = true → b'.t (pg (4 + p) 0x018) 1 = true ∧
          raisedEvent 0x200 p ((s.blk.f (pg (4 + p) 0x040) 2 2) * 2 + s.blk.f (pg (4 + p) 0x040) 0 0) b'))) ∧
    (∀ ag en,
      let may := s.blk.reach ag (4 + p) = true
      let admitted := ag = .host ∨ sbwAllows (4 + p) 0x008 = true
      let lineLost := fun (b' : Block) => (b'.port p).blockLock = false ∧ (b'.port p).hiBer = false ∧ (b'.port p).localFault = false
      (¬may → exec (.portEnableChange ag port en) s = .next s) ∧
      (may → ¬admitted → turnedAway s (.portEnableChange ag port en) (4 + p) 0x02 fun b' => b'.ports = s.blk.ports) ∧
      (may → admitted → s.blk.sharedHeld (4 + p) 0x008 = true →
        turnedAway s (.portEnableChange ag port en) (4 + p) 0x01 fun b' => b'.ports = s.blk.ports) ∧
      (may → admitted → s.blk.sharedHeld (4 + p) 0x008 = false →
        (en = s.blk.enabled (4 + p) → exec (.portEnableChange ag port en) s = .next s) ∧
        (en = true → s.blk.enabled (4 + p) = false → ∃ b', exec (.portEnableChange ag port en) s = .next (put s b') ∧
          b'.enabled (4 + p) = true ∧ lineLost b') ∧
        (en = false → s.blk.enabled (4 + p) = true → ∃ b', exec (.portEnableChange ag port en) s = .next (put s b') ∧
          b'.enabled (4 + p) = false ∧ (b'.port p).link = false ∧ lineLost b' ∧ (t.link = true → falls 3 b'))))
/-- What a frame that reaches the classifier does (R164, R167): its counters, and one of dropped, to the Gleaner, to a silo, to PTP. -/
def Sys2Proof.Claim.delivers (b : Block) (p : Nat) (f : RxFrame) (b' : Block) : Prop :=
  let d := classify b p f.bytes
  let e := d.2.1
  let act := d.2.2.1 % 8
  let target := d.2.2.2.1
  let lateOrStandby := b.leads = false ∨ ∃ t, b.pair.takeAt = some t ∧ f.stamp < t
  (d.1 = true → counted (portCnt p 30) b b') ∧
  (d.1 = false → b'.r (clsAddr p e + 24) = b.r (clsAddr p e + 24) + 1) ∧
  (act ≠ 1 → (b'.port p).atGlean = none) ∧ (act ≠ 3 → b'.time.ptpIn = b.time.ptpIn) ∧
  (act = 1 → counted (portCnt p 27) b b' ∧
    (b.dev.st = .idle → b'.r (pg 0x00 0x09C) = satInc (b.r (pg 0x00 0x09C)) ∧ (b'.port p).atGlean = none) ∧
    (b.dev.st ≠ .idle → lateOrStandby → counted (pg 0x60 0x258) b b' ∧ (b'.port p).atGlean = none) ∧
    (b.dev.st ≠ .idle → ¬lateOrStandby →
      (b'.port p).atGlean = some ⟨p, target, d.1, if d.1 = true then 0 else e, f.bytes, f.stamp⟩)) ∧
  (act = 2 → counted (portCnt p 28) b b' ∧ (target < 16 →
    let n := 1 + ceilDiv (f.bytes.length - 48) 64
    (b.siloFits target n = true → (b'.silo target).q.length = (b.silo target).q.length + n ∧
      (b'.silo target).q.take (b.silo target).q.length = (b.silo target).q) ∧
    (b.siloFits target n = false → counted (portCnt p 32) b b' ∧ b'.r (sqDrops target) = satInc (b.r (sqDrops target))))) ∧
  (act = 3 → counted (portCnt p 25) b b' ∧ b'.time.ptpIn = b.time.ptpIn ++ [(p, f.stamp, f.bytes)]) ∧
  (act = 0 ∨ 4 ≤ act → d.1 = false → counted (portCnt p 29) b b')
/-- R152, R160, R163: the oldest frame leaves the buffer once the Gleaner has taken the one before and, of the two ports of a PRP pair, its turn has come by
stamp; it goes through the duplicate discard on A and B, the pass-through on C and D, and on to the classifier. -/
def Sys2Proof.Claim.portDelivers : Prop :=
  ∀ (s : State) (port : Fin 4),
    let p := port.val
    let t := s.blk.port p
    let waits := fun (f : RxFrame) => prpOn s.blk = true ∧ p < 2 ∧ ∃ g l, (s.blk.port (1 - p)).rx = g :: l ∧
      (shortGrain g.stamp < shortGrain f.stamp ∨ (shortGrain g.stamp = shortGrain f.stamp ∧ p = 1))
    (s.blk.up = false ∨ s.blk.inReset (4 + p) = true ∨ t.rx = [] ∨ t.atGlean.isSome = true ∨ (∃ f l, t.rx = f :: l ∧ waits f) →
      exec (.ingressDequeue port) s = .next s) ∧
    (∀ f rest, s.blk.up = true → s.blk.inReset (4 + p) = false → t.rx = f :: rest → t.atGlean = none → ¬waits f →
      let et := (rxEth s.blk p f.bytes).1
      let o := (rxEth s.blk p f.bytes).2
      let tags := tagsOf (outerTpid s.blk p) f.bytes
      let gives := fun (P : Block → Prop) => ∃ b', exec (.ingressDequeue port) s = .next (put s b') ∧ (b'.port p).rx = rest ∧ P b'
      let here := delivers s.blk p f
      let ends := fun (b' : Block) => (b'.port p).atGlean = none ∧ b'.time.ptpIn = s.blk.time.ptpIn ∧ b'.silos = s.blk.silos
      let typ := beAt f.bytes o 1 % 16
      let event := typ = 2 ∨ typ = 3 ∨ typ = 10
      let relays := passOn s.blk = true ∧ 2 ≤ p ∧ et = 0x88F7
      let pair := prpOn s.blk = true ∧ p < 2
      let lan : Fin 2 := if p = 0 then 0 else 1
      let other : Fin 2 := if p = 0 then 1 else 0
      let heard := fun (b' : Block) => b'.prp.alive[lan] = true ∧ b'.prp.seen[lan] = s.blk.mono ∧
        (s.blk.prp.alive[lan] = false → raisedEvent 0x204 p 0 b')
      let forget := gtMs (s.blk.f (pg 0x08 0x040) 25 16)
      (gives fun b' => s.blk.t (pg (4 + p) 0x040) 3 = true →
        (tags.2 = true → counted (portCnt p 7) s.blk b') ∧ (tags = (1, false) → counted (portCnt p 5) s.blk b') ∧
        (tags = (2, false) → counted (portCnt p 6) s.blk b')) ∧
      (¬relays → ¬pair → gives here) ∧
      (relays → event → gives fun b' => b'.time.tcIn = s.blk.time.tcIn ++ [(p, f.stamp, f.bytes)] ∧ ends b') ∧
      (relays → ¬event → gives fun b' => counted (portCnt p 26) s.blk b' ∧ ends b' ∧ b'.time.tcIn = s.blk.time.tcIn) ∧
      (pair → et = 0x88FB → beAt f.bytes 0 5 = 0x01154E0001 → gives fun b' => counted (portCnt p 23) s.blk b' ∧ heard b' ∧ ends b') ∧
      (pair → et = 0x88F7 → gives fun b' => here b' ∧ b'.prp.table = s.blk.prp.table) ∧
      (pair → et ≠ 0x88F7 → (et = 0x88FB → beAt f.bytes 0 5 ≠ 0x01154E0001) →
        (rctOf (outerTpid s.blk p) f.bytes = none →
          gives fun b' => counted (portCnt p 21) s.blk b' ∧ here b' ∧ b'.prp.table = s.blk.prp.table) ∧
        (∀ seq id, rctOf (outerTpid s.blk p) f.bytes = some (seq, id) →
          let src := beAt f.bytes 6 6
          let key := fun (e : PrpEntry) => e.src = src ∧ e.seq = seq
          let rest' := s.blk.prp.table.filter fun e => !(e.src = src && e.seq = seq)
          let all := fun (b' : Block) => heard b' ∧ (id ≠ 0xA + p → counted (portCnt p 22) s.blk b')
          (s.blk.prp.alive[other] = false → gives fun b' => all b' ∧ here b' ∧ b'.prp.table = s.blk.prp.table) ∧
          (s.blk.prp.alive[other] = true →
            (∀ e, s.blk.prp.table.find? (fun e => decide (key e)) = some e → f.stamp ≤ e.stamp + forget →
              gives fun b' => all b' ∧ counted (portCnt p 20) s.blk b' ∧ ends b' ∧ b'.prp.table = rest') ∧
            (∀ e, s.blk.prp.table.find? (fun e => decide (key e)) = some e → e.stamp + forget < f.stamp →
              gives fun b' => all b' ∧ here b' ∧ b'.prp.table = rest' ++ [⟨src, seq, f.stamp⟩]) ∧
            ((∀ e ∈ s.blk.prp.table, ¬key e) → s.blk.prp.table.length < 16384 →
              gives fun b' => all b' ∧ here b' ∧ b'.prp.table = s.blk.prp.table ++ [⟨src, seq, f.stamp⟩]) ∧
            ((∀ e ∈ s.blk.prp.table, ¬key e) → 16384 ≤ s.blk.prp.table.length →
              gives fun b' => all b' ∧ here b' ∧ b'.prp.table = s.blk.prp.table.drop 1 ++ [⟨src, seq, f.stamp⟩] ∧
                counted (portCnt p 24) s.blk b')))))
/-- R166–R168: an entry whose action has a bad target is refused; another is committed whole from the staged words and the written one, and its hit count
returns to 0. -/
def Sys2Proof.Claim.portClassifier : Prop :=
  ∀ (s : State) (port : Fin 4) ag (e : Fin 64) v,
    let p := port.val
    acceptsL s.blk ag (4 + p) 0 →
      let a := clsAddr p e.val
      let w := fun (i : Nat) => (if i = 0 then v else mget (s.blk.r (a + 4 * i)) s.blk.staged (a + 4 * i)) &&& w32 (clsMask i)
      (clsBad (fld (w 5) 7 0) (fld (w 5) 15 8) = true → ∃ b', exec (.clsEntryCommit ag port e v) s = .next (put s b') ∧
        onlyError (4 + p) 0x06 s.blk b' ∧ b'.staged = s.blk.staged) ∧
      (clsBad (fld (w 5) 7 0) (fld (w 5) 15 8) = false → ∃ b', exec (.clsEntryCommit ag port e v) s = .next (put s b') ∧
        (∀ i < 6, b'.r (a + 4 * i) = w i) ∧ b'.r (a + 24) = 0 ∧ (∀ i < 8, mget none (b'.staged.map fun x => (x.1, some x.2)) (a + 4 * i) = none))
/-- R159–R162, R183: an entry of the duplicate-discard table is forgotten after its time; a silent LAN is reported once; the
supervision frame leaves on both ports with one sequence number, and is counted as dropped where neither port takes it; PRP_EN changes
only between ports of one speed and empties the table. -/
def Sys2Proof.Claim.prpPair : Prop :=
  ∀ (s : State),
    (let forget := gtMs (s.blk.f (pg 0x08 0x040) 25 16)
     (s.blk.prp.table = [] ∨ s.blk.up = false → exec .prpEntryForget s = .next s) ∧
     (∀ e l, s.blk.prp.table = e :: l →
      (s.blk.up = true → e.stamp + forget < s.blk.now → exec .prpEntryForget s =
        .next (put s { s.blk with prp := { s.blk.prp with table := l } })) ∧
      (s.blk.now ≤ e.stamp + forget → exec .prpEntryForget s = .next s))) ∧
    (∀ lan : Fin 2,
      let silent := s.blk.up = true ∧ prpOn s.blk = true ∧ s.blk.prp.alive[lan] = true ∧
        s.blk.prp.seen[lan] + gtMs (s.blk.f (pg 0x08 0x048) 15 0) ≤ s.blk.mono
      (¬silent → exec (.prpLanTimeout lan) s = .next s) ∧
      (silent → ∃ b', exec (.prpLanTimeout lan) s = .next (put s b') ∧
        b'.prp = { s.blk.prp with alive := s.blk.prp.alive.set lan false } ∧ recorded 0x203 lan.val 0 s.blk b' ∧ b'.regs = s.blk.regs)) ∧
    (let due := s.blk.up = true ∧ prpOn s.blk = true ∧ s.blk.t (pg 0x08 0x044) 31 = true ∧
       s.blk.prp.supAt + gtMs (s.blk.f (pg 0x08 0x044) 15 0) ≤ s.blk.mono
     let takes := fun (p : Nat) => (s.blk.port p).link = true ∧ queued (s.blk.port p).q2 + 60 ≤ 65536
     (¬due → exec .prpSupTx s = .next s) ∧
     (due → (∃ b', exec .prpSupTx s = .next (put s b') ∧ b'.prp.supAt = s.blk.mono ∧ b'.prp.supSeq = (s.blk.prp.supSeq + 1) % 65536) ∧
      ((∀ p : Fin 2, busy s.blk p.val) → ∃ b', exec .prpSupTx s = .next (put s b') ∧
        b'.prp.txSeq = (s.blk.prp.txSeq + 1) % 65536 ∧
        (∀ p : Fin 2, takes p.val → ∃ f, (b'.port p.val).q2 = (s.blk.port p.val).q2 ++ [f] ∧ f.kind = .sup ∧
          f.bytes = withRct (outerTpid s.blk p.val) (0xA + p.val) s.blk.prp.txSeq (supFrame s.blk)) ∧
        (∀ p : Fin 2, ¬takes p.val → (b'.port p.val).q2 = (s.blk.port p.val).q2) ∧
        (takes 0 ∨ takes 1 → b'.regs = s.blk.regs) ∧ (¬takes 0 → ¬takes 1 → counted (portCnt 0 45) s.blk b')))) ∧
    (∀ ag en, acceptsL s.blk ag 0x08 0x040 →
      (en = prpOn s.blk → exec (.prpEnChange ag en) s = .next s) ∧
      (en = true → prpOn s.blk = false → s.blk.t (pg 0x04 0x040) 0 ≠ s.blk.t (pg 0x05 0x040) 0 → ∃ b',
        exec (.prpEnChange ag en) s = .next (put s b') ∧ onlyError 0x08 0x20 s.blk b' ∧ b'.prp = s.blk.prp) ∧
      (en ≠ prpOn s.blk → (en = false ∨ s.blk.t (pg 0x04 0x040) 0 = s.blk.t (pg 0x05 0x040) 0) → ∃ b',
        exec (.prpEnChange ag en) s = .next (put s b') ∧ prpOn b' = en ∧ b'.prp.table = [] ∧
        b'.prp.alive = Vector.replicate 2 false ∧ regsKeptBut [pg 0x08 0x040] s.blk b'))
/-- The counters of a frame's class (R178). -/
def Sys2Proof.Claim.kindCounters : TxKind → List Nat
  | .ptp => [36]
  | .ptpPass => [36, 41]
  | .goose _ => [37]
  | .sv => [38]
  | .host => [39]
  | .exp => [40]
  | .sup => [38, 42]
  | .pause => [43]
/-- What a descriptor says of itself. -/
def Sys2Proof.Claim.descId (d : Desc) : DescSrc × Nat × Nat × Nat × Nat × Nat × Nat :=
  (d.src, d.addr, d.len, d.seg, d.hdrLen, d.mode, d.tag)
/-- R170–R177: a frame that ends is counted with its bytes and in its class; LSO_PROD is stored. The ring's next descriptor is taken and checked, as is the
head of the port's own queue, and an engine's payload outside the Granary that cannot be read whole is counted in MEMC_UE with its
address. A finished descriptor leaves, is counted as done or failed, and its status returns to
the host's ring or to the Stook it belongs to. -/
def Sys2Proof.Claim.portSends : Prop :=
  ∀ (s : State) (port : Fin 4),
    let p := port.val
    let t := s.blk.port p
    (∀ f, t.sending = some f → ∃ b', exec (.txFrameEnd port) s = .next (put s b') ∧ counted (portCnt p 34) s.blk b' ∧
      b'.n64 (portCnt p 35) = (s.blk.n64 (portCnt p 35) + f.bytes.length + 4) % 2 ^ 64 ∧
      (∀ i ∈ kindCounters f.kind, counted (portCnt p i) s.blk b')) ∧
    (t.sending = none → exec (.txFrameEnd port) s = .next s) ∧
    (∀ ag v, accepts s.blk ag (4 + p) 0x06C → ∃ b', exec (.lsoProdWrite ag port v) s = .next (put s b') ∧
      b'.r (pg (4 + p) 0x06C) = v &&& 0xFFF ∧ regsKeptBut [pg (4 + p) 0x06C] s.blk b' ∧ b'.ports = s.blk.ports) ∧
    (∀ desc payload template,
      let c := Instr.lsoDescriptor (.ring port desc payload template)
      let ready := s.blk.hostUp = true ∧ s.blk.inReset (4 + p) = false ∧ s.blk.r (pg (4 + p) 0x06C) ≠ s.blk.r (pg (4 + p) 0x070) ∧ t.d3 = []
      let d := descOf (.host (s.blk.r (pg (4 + p) 0x070)).toNat) desc
      let code := descCheck s.blk p d (template.map (padTo d.hdrLen))
      (¬ready → exec c s = .next s) ∧
      (ready → (d.space ≠ 0 → code = some 8) ∧ (d.space = 0 → d.len = 0 ∨ 262144 < d.len → code = some 1) ∧
        ∃ b' e, exec c s = .next (put s b') ∧ (b'.port p).d3 = [e] ∧ descId e = descId d ∧ e.checked = true ∧
        (∀ k, code = some k → e.status = some k) ∧ (bothBusy s.blk p → e.sent = 0 ∧ e.status = code ∧ b'.regs = s.blk.regs))) ∧
    (∀ readable,
      let c := Instr.lsoDescriptor (.queue port readable)
      (t.d4 = [] ∨ s.blk.up = false ∨ s.blk.inReset (4 + p) = true ∨ (∃ d l, t.d4 = d :: l ∧ d.checked = true) → exec c s = .next s) ∧
      (∀ d rest, t.d4 = d :: rest → s.blk.up = true → s.blk.inReset (4 + p) = false → d.checked = false → ∃ b' e,
        exec c s = .next (put s b') ∧ (b'.port p).d4 = e :: rest ∧ descId e = descId d ∧ e.checked = true ∧
        (bothBusy s.blk p → d.len ≤ readable → b'.regs = s.blk.regs) ∧
        (bothBusy s.blk p → readable < d.len → e.status = none → (∃ k, d.src = .engine k) → d.space ≠ 2 →
          counted (pg 0x74 0x108) s.blk b' ∧ b'.r (pg 0x74 0x048) = w32 (d.addr + readable)))) ∧
    (∀ (host : Bool),
      let q := if host = true then t.d3 else t.d4
      let c := Instr.lsoDescriptorDone port host
      ((∀ d, q.head? = some d → d.status = none) → exec c s = .next s) ∧
      (∀ d rest code, q = d :: rest → d.status = some code → ∃ b', exec c s = .next (put s b') ∧
        ((if host = true then (b'.port p).d3 else (b'.port p).d4).map descId = rest.map descId) ∧
        (code = 0 → counted (portCnt p 46) s.blk b') ∧
        (code ≠ 0 → counted (portCnt p 47) s.blk b' ∧ b'.t (pg (4 + p) 0x018) 3 = true) ∧
        (∀ i, d.src = .host i →
          (b'.r (pg (4 + p) 0x070)) = w32 ((i + 1) % max (s.blk.r (pg (4 + p) 0x068)).toNat 1) ∧ b'.t (pg (4 + p) 0x018) 0 = true ∧
          .hostMem (s.blk.n64 (pg (4 + p) 0x060) + 64 * i + 56) (leBytes 4 d.sent ++ leBytes 4 (2 ^ 31 + code)) ∈ b'.out) ∧
        (∀ q k, d.src = .cap q k → (q, k, code) ∈ b'.cap.done)))

/-- R151–R158, R169, R179, R180: links, reception and PAUSE. -/
def Obligations.PortsLinkReceiveAndPause : Prop := portLinks ∧ portReceives ∧ portPauses
/-- R152, R159–R168, R183: delivery, the PRP pair and the classifier. -/
def Obligations.FramesReachTheirTargets : Prop := portDelivers ∧ portClassifier ∧ prpPair
/-- R170–R177: transmission and large send. -/
def Obligations.FramesEndAndDescriptorsAreAccounted : Prop := portSends

/-! Silos (R185–R205). -/

/-- R191: a push of n entries succeeds while O + n ≤ D − 1 and then all n entries stand behind those that were there; else no
entry of an item is added, and where the block does not work nothing changes. No item ever takes the last entry. FULL is 1 while O = D − 1, EMPTY while COUNT is 0. -/
def Obligations.SiloPushNeedsRoomBelowTheLastEntry : Prop :=
  ∀ (s : State) (q : Fin 64) (item : List Byte), s.blk.siloOn q.val = true →
    let n := ceilDiv item.length 64
    let old := (s.blk.silo q.val).q
    let items := fun (l : List (Bool × List Byte)) => (l.filter fun e => !e.1).length
    let depth := 2 ^ s.blk.f (sqCtl q.val) 3 0
    ((sqSts s.blk q.val).testBit 30 = true ↔ items old = depth - 1) ∧
    ((sqSts s.blk q.val).testBit 31 = true ↔ old = []) ∧
    (s.blk.up = false ∨ s.blk.inReset (siloPage q.val) = true → exec (.siloPush q item) s = .next s) ∧
    (s.blk.up = true → s.blk.inReset (siloPage q.val) = false → ∃ b', exec (.siloPush q item) s = .next (put s b') ∧
      (items old + n ≤ depth - 1 → ∃ l, (b'.silo q.val).q = old ++ l ∧ l.length = n ∧ (∀ e ∈ l, e.1 = false ∧ e.2.length = 64) ∧
        (∃ t, (l.map fun e => e.2).flatten = item ++ t ∧ t.length < 64) ∧ items (b'.silo q.val).q ≤ depth - 1) ∧
      (depth - 1 < items old + n → items (b'.silo q.val).q = items old ∧ (b'.silo q.val).q.length ≤ old.length + 1))
/-- R187, R192, R193, R195–R199: a dropped item is counted and marked once, later ones counted in the newest marker or deferred to the next;
a push to silos 48 to 55 that succeeds raises its event, one to an empty silo 63 the side-band's alert. The host pops the
oldest entry of its silos and reads the last one again where none is left; it pushes a staged entry to its own; a silo is enabled
where depth and pool allow it, and disabling discards its entries. -/
def Obligations.SilosPopMarkAndEnable : Prop :=
  ∀ (s : State) (q : Fin 64),
    let p := siloPage q.val
    let on := s.blk.siloOn q.val
    let old := s.blk.silo q.val
    (∀ item, s.blk.up = true → s.blk.inReset p = false → s.blk.siloFits q.val (ceilDiv item.length 64) = false → ∃ b',
      exec (.siloPush q item) s = .next (put s b') ∧ b'.r (sqDrops q.val) = satInc (s.blk.r (sqDrops q.val)) ∧
      b'.t (sqFlags q.val) 0 = true ∧
      (on = true → old.marker = false → (b'.silo q.val).q = old.q ++ [(true, chaff 1 s.blk.now s.blk.now)]) ∧
      (on = true → old.marker = true → old.newestMarker = false → (b'.silo q.val).q = old.q ∧ (b'.silo q.val).defer = old.defer + 1) ∧
      (old.newestMarker = true → on = true → ∃ l e, old.q = l ++ [(true, e)] ∧
        (b'.silo q.val).q = l ++ [(true, chaffMore s.blk.now e)] ∧ (b'.silo q.val).defer = old.defer) ∧
      (on = false → b'.silo q.val = old) ∧ (q.val = 63 → old.q = [] → on = true → b'.t (pg 0x81 0x040) 0 = true)) ∧
    (∀ item, s.blk.up = false ∨ s.blk.inReset p = true → exec (.siloPush q item) s = .next s) ∧
    (∀ item, s.blk.up = true → s.blk.inReset p = false → s.blk.siloFits q.val (ceilDiv item.length 64) = true → ∃ b',
      exec (.siloPush q item) s = .next (put s b') ∧ b'.r (sqDrops q.val) = s.blk.r (sqDrops q.val) ∧
      (48 ≤ q.val → q.val < 56 → ∃ x, b'.thr.raised = s.blk.thr.raised ++ [x] ∧ x.src = 0x10 + (q.val - 48) ∧ x.t = s.blk.now) ∧
      (q.val < 48 ∨ 56 ≤ q.val → b'.thr = s.blk.thr) ∧
      (q.val = 63 → old.q = [] → item ≠ [] → b'.t (pg 0x81 0x040) 0 = true)) ∧
    (s.blk.hostUp = false → exec (.siloPopHost q) s = .next s) ∧
    (s.blk.hostUp = true →
      (hostPops q.val = false → ∃ b', exec (.siloPopHost q) s = .next (put s b') ∧ onlyError p 0x22 s.blk b' ∧ b'.host.compl = 0 ∧
        b'.silo q.val = old) ∧
      (∀ mk e rest, hostPops q.val = true → old.q = (mk, e) :: rest → ∃ b', exec (.siloPopHost q) s = .next (put s b') ∧
        b'.host.compl = w32 (leAt e 0 4) ∧ b'.host.lastPop q.val = e ∧
        (b'.silo q.val).q = (if mk = true ∧ 0 < old.defer then rest ++ [(true, chaff old.defer old.deferFirst old.deferLast)] else rest)) ∧
      (hostPops q.val = true → old.q = [] → ∃ b', exec (.siloPopHost q) s = .next (put s b') ∧
        b'.host.compl = w32 (leAt (s.blk.host.lastPop q.val) 0 4) ∧ b'.t (sqFlags q.val) 1 = true ∧ b'.silos = s.blk.silos)) ∧
    (∀ v, accepts s.blk .host p 0x800 →
      (hostPushes q.val = false → ∃ b', exec (.siloPushHost q v) s = .next (put s b') ∧ onlyError p 0x23 s.blk b' ∧ b'.silo q.val = old) ∧
      (hostPushes q.val = true → s.blk.siloFits q.val 1 = false → ∃ b', exec (.siloPushHost q v) s = .next (put s b') ∧
        (b'.silo q.val).stage = [] ∧ b'.r (sqDrops q.val) = satInc (s.blk.r (sqDrops q.val)) ∧ b'.thr = s.blk.thr) ∧
      (hostPushes q.val = true → s.blk.siloFits q.val 1 = true → ∃ b' e, exec (.siloPushHost q v) s = .next (put s b') ∧
        (b'.silo q.val).q = old.q ++ [(false, e)] ∧ (b'.silo q.val).stage = [] ∧ e.length = 64 ∧
        leAt e 0 4 = (v &&& 0xFFFF00FF).toNat ∧ (∀ i < 15, leAt e (4 * (i + 1)) 4 = (mget 0 old.stage (i + 1)).toNat) ∧
        (48 ≤ q.val ∧ q.val < 56 → ∃ x, b'.thr.raised = s.blk.thr.raised ++ [x] ∧ x.src = 0x10 + (q.val - 48)))) ∧
    (∀ ag v, acceptsL s.blk ag p (0x100 + 0x20 * (q.val % 16)) →
      let d := v.toNat % 16
      (d < 4 ∨ 14 < d → ∃ b', exec (.siloEnable ag q v) s = .next (put s b') ∧ onlyError p 0x06 s.blk b' ∧ b'.silos = s.blk.silos) ∧
      (4 ≤ d → d ≤ 14 → on = true → d ≠ s.blk.f (sqCtl q.val) 3 0 → ∃ b', exec (.siloEnable ag q v) s = .next (put s b') ∧
        onlyError p 0x20 s.blk b' ∧ b'.silos = s.blk.silos) ∧
      (4 ≤ d → d ≤ 14 → on = false → v.getLsbD 31 = true →
        (65536 < poolUsed s.blk + 2 ^ d → ∃ b', exec (.siloEnable ag q v) s = .next (put s b') ∧
          onlyError p 0x21 s.blk b' ∧ b'.silos = s.blk.silos) ∧
        (poolUsed s.blk + 2 ^ d ≤ 65536 → ∃ b', exec (.siloEnable ag q v) s = .next (put s b') ∧ b'.siloOn q.val = true ∧
          b'.siloDepth q.val = 2 ^ d ∧ (b'.silo q.val).q = [] ∧ regsKeptBut [sqCtl q.val] s.blk b')) ∧
      (4 ≤ d → d ≤ 14 → on = true → d = s.blk.f (sqCtl q.val) 3 0 → v.getLsbD 31 = false → ∃ b',
        exec (.siloEnable ag q v) s = .next (put s b') ∧ b'.siloOn q.val = false ∧ (b'.silo q.val).q = [] ∧
        regsKeptBut [sqCtl q.val] s.blk b') ∧
      (4 ≤ d → d ≤ 14 → on = v.getLsbD 31 → (on = true → d = s.blk.f (sqCtl q.val) 3 0) → ∃ b',
        exec (.siloEnable ag q v) s = .next (put s b') ∧ b'.r (sqCtl q.val) = v &&& 0x8000000F ∧ b'.silos = s.blk.silos ∧
        regsKeptBut [sqCtl q.val] s.blk b'))

/-! Field acquisition, the Winnow chain and the estimator (R270–R325). -/

/-- R270, R272, R277, R294, R318: each conversion takes an input's code at its channel's gain, clipped and to the nearest, into every converting channel's
filter behind its over-range flag, and an over-range sample is counted; a channel's settings wait for their conversion; with an external
clock a missing or shifted edge is an error; a crossing overflow disturbs its channel. -/
def Sys2Proof.Claim.conversions : Prop :=
  ∀ (s : State) (nv : List Int),
    let taken := fun (g : Nat) (b' : Block) => b'.chain.conv = some g ∧ ∀ c : Fin 16,
      let v := s.blk.chan c.val
      let w := b'.chan c.val
      let due := fun (e : Gt × Word) => e.1 + 65536000 ≤ g * 32000000
      (s.blk.inReset 0x20 = true → w.cic = v.cic ∧ w.pend = v.pend ∧ w.ctl = v.ctl) ∧
      (s.blk.inReset 0x20 = false →
        (∀ e, v.pend = [e] → due e → w.ctl = e.2 ∧ w.pend = []) ∧
        ((∀ e ∈ v.pend, ¬due e) → w.ctl = v.ctl ∧ w.pend = v.pend ∧ (v.ctl.getLsbD 31 = false → w.cic = v.cic) ∧
          (v.ctl.getLsbD 31 = true →
            let x := codeOf v.gain (nth nv c.val 0)
            let isOver := decide (x = -131072 ∨ x = 131071)
            let cnt := pg 0x20 (0x180 + 4 * c.val)
            w.cic = (if s.blk.inReset 0x22 = true then v.cic else ((x, isOver) :: v.cic).take 36) ∧
            b'.r cnt = (if isOver = true then satInc (s.blk.r cnt) else s.blk.r cnt))))
    (let g := s.blk.now * 2048000 / gtSec
     let samples := s.blk.up = true ∧ s.blk.spgOn = true ∧ s.blk.time.spgSrc = false ∧ ∀ l, s.blk.chain.conv = some l → l < g
     (samples → ∃ b', exec (.conversion nv) s = .next (put s b') ∧ taken g b') ∧ (¬samples → exec (.conversion nv) s = .next s)) ∧
    (let i := nearInstant s.blk.now
     let edges := s.blk.up = true ∧ s.blk.spgOn = true ∧ s.blk.time.spgSrc = true
     let wrong := fun (b' : Block) => b'.time.syncErr = true ∧ raisedEvent 0x107 0 0 b' ∧ errorCounted 0x02 0x23 s.blk b' ∧
       b'.r (pg 0x02 0x0F4) = satInc (s.blk.r (pg 0x02 0x0F4)) ∧ b'.time.ctr = s.blk.time.ctr
     (edges → ∃ b', exec (.syncInEdge nv) s = .next (put s b') ∧ taken (i.1 * 2048000 + i.2) b' ∧
       (nearEnough s.blk.now = false → wrong b') ∧ (nearEnough s.blk.now = true → b'.time = s.blk.time)) ∧
     (¬edges → exec (.syncInEdge nv) s = .next s) ∧
     (edges → ∃ b', exec .syncInMissing s = .next (put s b') ∧ wrong b' ∧ b'.chain.conv = none) ∧
     (¬edges → exec .syncInMissing s = .next s)) ∧
    (∀ ag (ch : Fin 16) w, acceptsL s.blk ag 0x20 (0x100 + 4 * ch.val) →
      let v := w &&& 0x80000337
      let a := pg 0x20 (0x100 + 4 * ch.val)
      let reserved := fld v 9 8 = 3 ∨ fld v 5 4 = 3 ∨ fld v 1 0 = 3
      let high := fld v 5 4 ≠ 0 ∧ 4096 ≤ s.blk.f (pg 0x20 0x044) 27 16 * 2 ^ fld v 9 8
      (reserved → ∃ b', exec (.chCtlWrite ag ch w) s = .next (put s b') ∧ onlyError 0x20 0x06 s.blk b' ∧ b'.chain = s.blk.chain) ∧
      (¬ reserved → high → ∃ b', exec (.chCtlWrite ag ch w) s = .next (put s b') ∧ onlyError 0x20 0x20 s.blk b' ∧
        b'.chain = s.blk.chain) ∧
      (¬ reserved → ¬ high → ∃ b', exec (.chCtlWrite ag ch w) s = .next (put s b') ∧ b'.r a = v ∧
        (b'.chan ch.val).ctl = (s.blk.chan ch.val).ctl ∧ (b'.chan ch.val).pend = (s.blk.chan ch.val).pend ++ [(s.blk.now, v)] ∧
        (fld v 5 4 = 0 → (b'.chan ch.val).opened = false ∧ ((s.blk.chan ch.val).opened = true → raisedEvent 0x401 ch.val 0 b')) ∧
        (fld v 5 4 ≠ 0 ∨ (s.blk.chan ch.val).opened = false → regsKeptBut [a] s.blk b'))) ∧
    (∀ ch : Fin 16, (s.blk.up = false → exec (.crossingOverflow ch) s = .next s) ∧
      (s.blk.up = true → ∃ b', exec (.crossingOverflow ch) s = .next (put s b') ∧ (b'.chan ch.val).s1 = 36 ∧
        (b'.chan ch.val).s4 = bankTaps s.blk (chanBank s.blk ch.val) 4 ∧ b'.t (pg 0x22 0x00C) 3 = true ∧
        recorded 0x414 ch.val 0 s.blk b' ∧ ∀ c : Fin 16, c ≠ ch → b'.chan c.val = s.blk.chan c.val))
/-- R104, R281, R282, R286: a scan that is due publishes each sum shifted by SHIFT, in Keep the sensors' alone, and the hottest sensor; one that reads
125 °C and did not before forces Keep from Run or Idle, or behind the start that runs; that Keep ends ten seconds behind the last scan with a sensor at 100 °C or more. -/
def Sys2Proof.Claim.housekeeping : Prop :=
  ∀ (s : State),
    (∀ sums : Vector (BitVec 20) 24,
      let n := fun (c : Nat) => 2 ^ min 8 (s.blk.f (pg 0x21 (0x100 + 4 * c)) 3 0)
      let sum := fun (c : Nat) => min (sums.toList.getD c 0).toNat (4095 * n c)
      let mean := fun (c : Nat) => sum c / n c
      let keep := s.blk.dev.st = .keep
      let hot := ∃ i < 8, 3024 ≤ mean (16 + i)
      (hkDue s.blk = false ∨ s.blk.inReset 0x21 = true → exec (.hkScan sums) s = .next s) ∧
      (hkDue s.blk = true → s.blk.inReset 0x21 = false →
        (¬hot ∨ keep ∨ s.blk.hk.hot = true → ∃ b', exec (.hkScan sums) s = .next (put s b') ∧
          b'.hk.at_ = some (s.blk.mono / gtMs 1) ∧ b'.dev.st = s.blk.dev.st ∧
          (¬keep → b'.r (pg 0x21 0x054) = s.blk.r (pg 0x21 0x054) + 1 ∧ b'.t (pg 0x21 0x018) 0 = true) ∧
          (b'.hk.hot = true ↔ hot) ∧ b'.f (pg 0x21 0x04C) 11 0 = mean (16 + b'.f (pg 0x21 0x04C) 26 24) ∧
          ∀ c < 24, (if keep then 16 ≤ c else hkAlways.testBit c = true ∨ s.blk.t (pg 0x21 0x044) c = true) →
            b'.t (pg 0x21 (0x200 + 4 * c)) 31 = true ∧
            b'.f (pg 0x21 (0x200 + 4 * c)) 19 0 = sum c / 2 ^ min 8 (s.blk.f (pg 0x21 (0x100 + 4 * c)) 11 8) % 2 ^ 20) ∧
        (hot → s.blk.hk.hot = false → s.blk.dev.st = .run ∨ s.blk.dev.st = .idle → ∃ b', exec (.hkScan sums) s = .next (put s b') ∧
          b'.dev.st = .keep ∧ b'.hk.forced = true ∧ b'.dev.keepFrom = s.blk.dev.st) ∧
        (hot → s.blk.hk.hot = false → s.blk.dev.st = .starting → ∃ b', exec (.hkScan sums) s = .next (put s b') ∧
          b'.dev.waiting = some (.keep, 2) ∧ b'.hk.forced = true))) ∧
    (let cooled := s.blk.dev.st = .keep ∧ s.blk.dev.warm = false ∧ s.blk.hk.forced = true ∧
       ∃ t, s.blk.hk.coolFrom = some t ∧ t + 10000 ≤ s.blk.mono / gtMs 1
     (¬cooled → exec .thermalResume s = .next s) ∧
     (cooled → ∃ b', exec .thermalResume s = .next (put s b') ∧ b'.dev.st = s.blk.dev.keepFrom ∧ b'.hk.forced = false))
/-- R301: why the schedule of a field swap is refused: the codes in ascending order. -/
def Sys2Proof.Claim.swapRefusal (b : Block) (v : Word) : Option Nat :=
  let set := fld v 2 0
  let bank := fun (k : Nat) => 0x300000 + set * 0x2000 + k * 0x1000
  let act := if b.t (pg 0x22 0x054) set = true then 1 else 0
  let taps := fun (k n : Nat) => b.f (bank k + 0xC00 + 4 * (n - 2)) 8 0
  let tap := fun (n i : Nat) => sgn 24 (b.r (bank (1 - act) + 0x400 * (n - 2) + 4 * i)).toNat
  if ([2, 3, 4].any fun n => let t := taps (1 - act) n
      t = 0 ∨ 256 < t ∨ t % 2 = 0 ∨ (List.range t).any fun i => tap n i ≠ tap n (t - 1 - i)) = true then some 0x21
  else if 25600000 < bankGd b (bank (1 - act)) then some 0x22
  else if 2048000 ≤ (b.r (pg 0x22 0x048)).toNat then some 0x23
  else if b.n64 (pg 0x22 0x040) * gtSec + (b.r (pg 0x22 0x048)).toNat * 32000000 < b.now + gtMs 10 then some 0x24
  else if (b.chain.swaps.any fun s => s.set = set) = true then some 0x25
  else if v.getLsbD 8 = true ∧ ([2, 3, 4].any fun n => taps 0 n ≠ taps 1 n) = true then some 0x26
  else none
/-- R298–R302: a field swap's schedule is refused with the first code that applies or waits for its instant, at which the active
bank changes and, unless it is seamless, the filters settle again; resampler swaps are refused or scheduled likewise. -/
def Sys2Proof.Claim.coefficientSwaps : Prop :=
  ∀ (s : State),
    (∀ ag v, accepts s.blk ag 0x22 0x04C →
      let set := fld v 2 0
      let bank := 0x300000 + set * 0x2000 + (if s.blk.t (pg 0x22 0x054) set = true then 0 else 0x1000)
      ∃ b', exec (.wSwapCmd ag v) s = .next (put s b') ∧ b'.r (bank + 0xC0C) = w32 (bankGd s.blk bank) ∧
        (∀ code, swapRefusal s.blk v = some code → errorCounted 0x22 code s.blk b' ∧ b'.chain = s.blk.chain) ∧
        (swapRefusal s.blk v = none → b'.chain.swaps = s.blk.chain.swaps ++
          [⟨set, s.blk.n64 (pg 0x22 0x040), (s.blk.r (pg 0x22 0x048)).toNat, v.getLsbD 8⟩] ∧ regsKeptBut [bank + 0xC0C] s.blk b')) ∧
    (∀ ag v, accepts s.blk ag 0x23 0x04C →
      let tab := fld v 0 0
      let m := (s.blk.r (pg 0x23 0x048)).toNat
      let soon := s.blk.n64 (pg 0x23 0x040) * gtSec + m * 5120000000 < s.blk.now + gtMs 10
      let pending := ∃ w ∈ s.blk.chain.rsSwaps, w.set = tab
      let refused := fun (code : Nat) => ∃ b', exec (.rsSwapCmd ag v) s = .next (put s b') ∧ onlyError 0x23 code s.blk b' ∧
        b'.chain = s.blk.chain
      (12800 ≤ m → refused 0x23) ∧ (m < 12800 → soon → refused 0x24) ∧ (m < 12800 → ¬ soon → pending → refused 0x25) ∧
      (m < 12800 → ¬ soon → ¬ pending → ∃ b', exec (.rsSwapCmd ag v) s = .next (put s b') ∧ b'.chain.rsSwaps =
        s.blk.chain.rsSwaps ++ [⟨tab, s.blk.n64 (pg 0x23 0x040), m, v.getLsbD 8⟩] ∧ b'.regs = s.blk.regs)) ∧
    (let dueW := s.blk.chain.swaps.filter fun w => decide (swapTime w ≤ s.blk.now)
     let dueR := s.blk.chain.rsSwaps.filter fun w => decide (rsSwapTime w ≤ s.blk.now)
     let arg := fun (w : Swap) (on : Bool) => (if w.seamless = true then 2 else 0) + (if on = true then 0 else 1)
     (s.blk.up = false ∨ (dueW = [] ∧ dueR = []) → exec .coeffSwap s = .next s) ∧
     (s.blk.up = true → ∃ b', exec .coeffSwap s = .next (put s b') ∧
       b'.chain.swaps = (s.blk.chain.swaps.filter fun w => decide (s.blk.now < swapTime w)) ∧
       b'.chain.rsSwaps = (s.blk.chain.rsSwaps.filter fun w => decide (s.blk.now < rsSwapTime w)) ∧
       (∀ w ∈ dueW, w.set < 8 → (∀ x ∈ dueW, x.set < 8) → (dueW.filter fun x => x.set = w.set) = [w] →
         b'.t (pg 0x22 0x054) w.set = !(s.blk.t (pg 0x22 0x054) w.set) ∧
         raisedEvent 0x410 w.set (arg w (s.blk.t (pg 0x22 0x054) w.set)) b') ∧
       (∀ w ∈ dueR, w.set < 2 → (∀ x ∈ dueR, x.set < 2) → (dueR.filter fun x => x.set = w.set) = [w] →
         b'.t (pg 0x23 0x054) w.set = !(s.blk.t (pg 0x23 0x054) w.set) ∧
         raisedEvent 0x410 (8 + w.set) (arg w (s.blk.t (pg 0x23 0x054) w.set)) b') ∧
       (∀ w, dueW = [w] → w.set < 8 → ∀ c : Fin 16,
         (w.seamless = false ∧ chanSet s.blk c.val = w.set → (b'.chan c.val).s1 = 36 ∧
           (b'.chan c.val).s2 = bankTaps s.blk (bankAddr w.set (if s.blk.t (pg 0x22 0x054) w.set = true then 0 else 1)) 2) ∧
         (w.seamless = true ∨ chanSet s.blk c.val ≠ w.set → b'.chan c.val = s.blk.chan c.val))))
/-- R306, R307, R317, R319: at each output instant every enabled source gives one sample to its eight channels, one that is late is
marked bad; the slice answers one instant; a channel's settings are refused or take effect whole, the former ones kept with their end. -/
def Sys2Proof.Claim.estimation : Prop :=
  ∀ (s : State),
    (let M := s.blk.now * 12800 / gtSec
     let due := s.blk.up = true ∧ s.blk.inReset 0x23 = false ∧ ∀ l, s.blk.chain.rsAt = some l → l < M
     (¬due → exec .resamplerOutput s = .next s) ∧
     (due → ∃ b', exec .resamplerOutput s = .next (put s b') ∧ b'.chain.rsAt = some M ∧ b'.svIn = [] ∧
      ∀ v < 64, s.blk.t (pg 0x18 (0x400 + 16 * v)) 31 = true → ∀ q < 8,
        ∃ x, (b'.estCh (16 + 8 * v + q)).hist.head? = some x ∧ x.g = M - fld (peWord s.blk (16 + 8 * v + q) 1) 23 16)) ∧
    (s.blk.chain.rsAt = none ∨ s.blk.up = false → exec .resamplerOverrun s = .next s) ∧
    (∀ M, s.blk.chain.rsAt = some M → s.blk.up = true → ∃ b', exec .resamplerOverrun s = .next (put s b') ∧
      b'.t (pg 0x23 0x00C) 3 = true ∧ b'.t (pg 0x23 0x018) 2 = true ∧ raisedEvent 0x416 (M % 12800) 0 b' ∧
      ∀ v < 64, s.blk.t (pg 0x18 (0x400 + 16 * v)) 31 = true → ∀ q < 8, ∀ x ∈ (b'.estCh (16 + 8 * v + q)).hist,
        x.g = M - fld (peWord s.blk (16 + 8 * v + q) 1) 23 16 → x.bad.testBit 1 = true) ∧
    (s.blk.up = false ∨ s.blk.inReset 0x24 = true → exec .estimatorSlice s = .next s) ∧
    (s.blk.up = true → s.blk.inReset 0x24 = false →
      (∀ m, sliceDue s.blk = some m → ∃ b', exec .estimatorSlice s = .next (put s b') ∧ b'.chain.slice = some m ∧
        b'.chain.late = s.blk.chain.late.filter (m < ·) ∧ b'.chain.chans = s.blk.chain.chans) ∧
      (sliceDue s.blk = none → exec .estimatorSlice s = .next s)) ∧
    (∀ ag v, acceptsL s.blk ag 0x24 0x048 →
      let c := s.blk.f (pg 0x24 0x040) 9 0
      let a := 0x3000000 + 16 * c
      let pu := mget (s.blk.r a) s.blk.staged a
      let positive := pu.getLsbD 31 = false ∧ 1 ≤ fld pu 30 23 ∧ fld pu 30 23 ≤ 254
      let refused := fun (code : Nat) => ∃ b', exec (.peChCommit ag v) s = .next (put s b') ∧ onlyError 0x24 code s.blk b' ∧
        b'.staged = s.blk.staged
      (c < 16 → fld v 23 16 ≠ 0 → refused 0x20) ∧ (16 ≤ c ∨ fld v 23 16 = 0 → ¬ positive → refused 0x21) ∧
      (16 ≤ c ∨ fld v 23 16 = 0 → positive → ∃ b', exec (.peChCommit ag v) s = .next (put s b') ∧ b'.r a = pu ∧
        b'.r (a + 4) = v &&& 0x00FF0001 ∧ regsKeptBut [a, a + 4] s.blk b' ∧
        (b'.estCh c).past.head? = some (s.blk.now, servedOf s.blk.chain.ends c - (pStep : Nat), s.blk.r a, s.blk.r (a + 4))))

/-- R104, R270–R296, R318: conversions, channel settings, housekeeping scans. -/
def Obligations.ConversionsAndHousekeeping : Prop := conversions ∧ housekeeping
/-- R298–R319: coefficient swaps, the resampler, the estimator's slices and settings. -/
def Obligations.SwapsResamplerAndEstimator : Prop := coefficientSwaps ∧ estimation


/-! The Gleaner, the Granary and what leaves of it (R206–R269). -/

/-- R214–R218, R220, R227, R475: a frame is rejected, forwarded or accepted by its parse; an accepted value enters the open bale
of its instant; local entries are journalled and, where their stream is enrolled, written once; a standby, and a new holder until it
has taken them all, takes what the active member mirrored. -/
def Sys2Proof.Claim.gleaning : Prop :=
  ∀ (s : State),
    (∀ (p : Nat) (f : GlFrame), glRuns s.blk = true → s.blk.follows = false → nextFrame s.blk = some (p, f) →
      let out := gleanParse (bufLeave p (fun t => { t with atGlean := none }) (notePeak s.blk)) f.port f.cls f.bytes
        (shortGrain f.stamp) true
      ∃ b', exec .gleanFrame s = .next (put s b') ∧ (b'.port p).atGlean = none ∧
        (∀ r ≤ 13, out.1 = .rej r → counted (glCnt (r + 7)) out.2 b' ∧ b'.granMem = out.2.granMem ∧ b'.gran = out.2.gran) ∧
        (out.1 = .fwd → (s.blk.t (pg 0x18 0x040) 18 = true → counted (glCnt 3) out.2 b') ∧ b'.granMem = out.2.granMem ∧ b'.gran = out.2.gran) ∧
        (∀ vals sv, out.1 = .ok vals sv → counted (glCnt 0) out.2 b' ∧ b'.svIn = out.2.svIn ++ sv) ∧
        (∀ slot T v r x sec, out.1 = .ok [(slot, T, v)] [] → ratesOf out.2 slot T = [r] → baleAt out.2 r T = some x →
          x.closed = false → slot ∉ x.arrived → slot ∉ x.late → secOfSlot x.secs slot = some sec → shortGrain f.stamp < x.deadline →
          b'.granMem = writeBytes out.2.granMem (baleOfs out.2 r x + sec.ofs) (sectionBytes slot v.quality (shortGrain f.stamp) v) ∧
          (b'.rate r).bales = (out.2.rate r).bales.map (fun y => if y.idx = x.idx then { x with arrived := x.arrived ++ [slot] } else y) ∧
          counted (glCnt 5) out.2 b')) ∧
    (∀ e : LocalEntry, glRuns s.blk = true → s.blk.follows = false → nextLocal s.blk = some e → e.ph.length ≤ 32 →
      e.dig.length ≤ 1 → ∃ b' x, exec .gleanLocalEntry s = .next (put s b') ∧ b'.glean.locq = s.blk.glean.locq.drop 1 ∧
        b'.glean.recs.getLast? = some x ∧ x.stamp = e.stamp ∧ x.ofs = s.blk.glean.head ∧
        (let d := streamAt s.blk e.inst e.slot
         let taken := d.enrolled = true ∧ d.kind = 2
         (¬taken → b'.granMem = s.blk.granMem ∧ b'.gran = s.blk.gran) ∧
         (taken → repeats s.blk e.slot e.inst = true → counted (glCnt 2) s.blk b' ∧ b'.granMem = s.blk.granMem ∧ b'.gran = s.blk.gran) ∧
         (taken → repeats s.blk e.slot e.inst = false → canWrite s.blk e.slot e.inst = true → counted (glCnt 1) s.blk b'))) ∧
    (glRuns s.blk = false ∨ (s.blk.follows = true ∧ nextMirror s.blk = none) →
      exec .gleanFrame s = .next s ∧ exec .gleanLocalEntry s = .next s) ∧
    (glRuns s.blk = true → s.blk.follows = false →
      (nextFrame s.blk = none → exec .gleanFrame s = .next s) ∧ (nextLocal s.blk = none → exec .gleanLocalEntry s = .next s)) ∧
    (∀ n l rest, glRuns s.blk = true → s.blk.pair.inq = (n, .mirror l) :: rest → (∀ m l', rest = m :: l' → ∃ x, m.2 = .mirror x) →
      (ledgerFirst s.blk (widen s.blk.now (leAt l 0 10)) = true → exec .gleanFrame s = .next s ∧ exec .gleanLocalEntry s = .next s) ∧
      (ledgerFirst s.blk (widen s.blk.now (leAt l 0 10)) = false →
        let takes := fun (c : Instr) => ∃ b', exec c s = .next (put s b') ∧ b'.pair.inq = rest ∧ b'.pair.rxMirror = n ∧
          b'.ports = s.blk.ports ∧ (s.blk.leads = true → counted (pg 0x60 0x268) s.blk b') ∧
          (s.blk.leads = false → b'.glean.locq = s.blk.glean.locq)
        ((leAt l 10 1).testBit 3 = false → exec .gleanLocalEntry s = .next s ∧ takes .gleanFrame) ∧
        ((leAt l 10 1).testBit 3 = true → exec .gleanFrame s = .next s ∧ takes .gleanLocalEntry)))
/-- R211–R213, R221, R225: a stream entry, a calibration channel and an SV source are checked and committed whole. -/
def Sys2Proof.Claim.gleanTables : Prop :=
  ∀ (s : State),
    (∀ ag (slot : Fin 8192) v, acceptsL s.blk ag 0x18 0 →
      let a := strAddr slot.val
      let kind2 := fld v 14 12 = 2
      let w := fun (i : Nat) => (if i = 0 then v else mget (s.blk.r (a + 4 * i)) s.blk.staged (a + 4 * i)) &&& w32 (streamMask kind2 i)
      let ws := (List.range 32).map w
      let e := streamOf ws
      let isOver := ([0, 1, 2, 3].any fun r => (s.blk.rate r).on &&
        decide (s.blk.n (brReg r 0x08C) < baleSize (layoutNow (wrList a ws s.blk) r))) = true
      (streamCheck s.blk slot.val e ≠ 0 → ∃ b', exec (.streamEntryCommit ag slot v) s = .next (put s b') ∧
        onlyError 0x18 (streamCheck s.blk slot.val e) s.blk b' ∧ b'.staged = s.blk.staged ∧ b'.glean = s.blk.glean) ∧
      (streamCheck s.blk slot.val e = 0 →
        (isOver → ∃ b', exec (.streamEntryCommit ag slot v) s = .next (put s b') ∧ errorCounted 0x18 0x27 s.blk b' ∧
          errorCounted 0x19 0x21 s.blk b' ∧ regsKeptBut [pg 0x18 0x01C, pg 0x18 0x018, pg 0x19 0x01C, pg 0x19 0x018] s.blk b' ∧
          b'.staged = s.blk.staged) ∧
        (¬ isOver → ∃ b', exec (.streamEntryCommit ag slot v) s = .next (put s b') ∧ (∀ i < 32, b'.r (a + 4 * i) = w i) ∧
          (∀ i < 32, ∀ d, mget d b'.staged (a + 4 * i) = d) ∧ b'.glean.commitAt = some s.blk.mark ∧
          raisedEvent 0x300 slot.val (if e.enrolled = true then 1 else 0) b'))) ∧
    (∀ ag v, accepts s.blk ag 0x18 0x060 → ∃ b', exec (.calIdxLoad ag v) s = .next (put s b') ∧
      b'.r (pg 0x18 0x060) = v &&& 0xFFFF ∧ regsKeptBut [pg 0x18 0x060] s.blk b' ∧
      ∀ k < 4, ∀ d, mget d b'.staged (pg 0x18 (0x064 + 4 * k)) = s.blk.r (calAddr (fld v 15 0) + 4 * k)) ∧
    (∀ ag v, acceptsL s.blk ag 0x18 0x070 →
      let a := calAddr (s.blk.f (pg 0x18 0x060) 15 0)
      ∃ b', exec (.calCommit ag v) s = .next (put s b') ∧ b'.r (a + 12) = v ∧ b'.glean.commitAt = some s.blk.mark ∧
        ∀ k < 3, b'.r (a + 4 * k) = mget (s.blk.r (a + 4 * k)) s.blk.staged (pg 0x18 (0x064 + 4 * k))) ∧
    (∀ ag (src : Fin 64) (w : Fin 4) v, acceptsL s.blk ag 0x18 0x400 →
      let at_ := fun (u w : Nat) => pg 0x18 (0x400 + 16 * u + 4 * w)
      let n := v &&& w32 (if w = 0 then 0xF0FFFFFF else if w = 3 then 0 else 0xFFFFFFFF)
      let dup := ∃ u : Fin 64, u ≠ src ∧ s.blk.t (at_ u.val 0) 31 = true ∧ s.blk.f (at_ u.val 0) 15 0 = fld n 15 0
      (w = 0 → fld n 29 28 = 3 → ∃ b', exec (.svSourceWrite ag src w v) s = .next (put s b') ∧ onlyError 0x18 0x22 s.blk b' ∧
        b'.chain = s.blk.chain) ∧
      (w = 0 → fld n 29 28 ≠ 3 → n.getLsbD 31 = true → dup → ∃ b', exec (.svSourceWrite ag src w v) s = .next (put s b') ∧
        onlyError 0x18 0x26 s.blk b' ∧ b'.chain = s.blk.chain) ∧
      (w = 0 → fld n 29 28 ≠ 3 ∧ ¬ (n.getLsbD 31 = true ∧ dup)) →
        ∃ b', exec (.svSourceWrite ag src w v) s = .next (put s b') ∧ b'.r (at_ src.val w.val) = n ∧
          regsKeptBut [at_ src.val w.val] s.blk b')

/-- R242, R245, R247–R250: bales open at the ring's next position in the order of their times; one closes complete when every due
member has arrived, else at its deadline with the missing members filled. -/
def Sys2Proof.Claim.baleLife : Prop :=
  ∀ (s : State),
    (∀ r T, earliest (openDue s.blk) = some (r, T) →
      let old := s.blk.rate r
      ∃ b' x, exec .baleOpen s = .next (put s b') ∧ (b'.rate r).bales = (old.bales.filter fun y => y.pos ≠ old.next) ++ [x] ∧
        (b'.rate r).next = (old.next + 1) % max old.n 1 ∧ x.idx = baleIndex (s.blk.rateHz r) T ∧ x.time = T ∧ x.pos = old.next ∧
        x.closed = false ∧ x.arrived = [] ∧ x.late = [] ∧ x.secs = layoutAt s.blk r T ∧ x.size = baleSize x.secs ∧
        x.deadline = T + gtMs (s.blk.f (brReg r 0x084) 10 0) ∧
        b'.granMem = (openWrites (tqAt s.blk T) r x (baleOfs s.blk r x) s.blk).granMem) ∧
    (openDue s.blk = [] → exec .baleOpen s = .next s) ∧
    (s.blk.running = false ∨ s.blk.inReset 0x19 = true → exec .baleCompleteClose s = .next s ∧ exec .deadlineClose s = .next s) ∧
    (s.blk.running = true → s.blk.inReset 0x19 = false →
      let done := pickBale s.blk fun _ x => !x.closed && x.full
      let flagsOf := fun (fl : Nat) (x : Bale) =>
        fl + (if x.govern = true then 32 else 0) + (if x.stepped = true ∧ fl = 2 then 8 else 0)
      (done = none → exec .baleCompleteClose s = .next s) ∧ (deadlineDue s.blk = none → exec .deadlineClose s = .next s) ∧
      (∀ r x, done = some (r, x) → ∃ b', exec .baleCompleteClose s = .next (put s b') ∧
        counted (pg 0x19 (0x400 + 64 * r)) s.blk b' ∧
        (∃ y ∈ (b'.rate r).bales, y.idx = x.idx ∧ y.closed = true ∧ y.flags = flagsOf 1 x ∧ y.arrived = x.arrived) ∧
        ∃ ref ∈ b'.gran.toExp, ref.rate = r ∧ ref.idx = x.idx ∧ ref.time = x.time) ∧
      (∀ r x, deadlineDue s.blk = some (r, x) →
        let missing := x.secs.filter fun m => m.due && !x.arrived.contains m.slot
        let held := (missing.filter fun m => (fillSec s.blk r x m).1).length
        let c := pg 0x19 (0x400 + 64 * r)
        ∃ b', exec .deadlineClose s = .next (put s b') ∧ counted (c + 8) s.blk b' ∧
          b'.n64 (c + 40) = (s.blk.n64 (c + 40) + held) % 2 ^ 64 ∧
          b'.n64 (c + 32) = (s.blk.n64 (c + 32) + (missing.length - held)) % 2 ^ 64 ∧
          (∃ y ∈ (b'.rate r).bales, y.idx = x.idx ∧ y.closed = true ∧ y.flags = flagsOf 2 x) ∧
          ∃ ref ∈ b'.gran.toExp, ref.rate = r ∧ ref.idx = x.idx ∧ ref.time = x.time))
/-- The descriptors that a view sends of a closed bale (R229–R231): the bale itself, or its C37.118.2 frame. -/
def Sys2Proof.Claim.viewDescs (b : Block) (x : BaleRef) (l : List Byte) : List Desc :=
  if (leAt l 0 2).testBit 14 then (gbxPayloads x 0).map (exportDesc l 1 x.time)
  else match c37Frame b l x (viewBale x.bytes) with
    | some m => if 65507 < m.length then [] else [exportDesc l 2 x.time m]
    | none => []
/-- The class 4 queues have grown by what views send to their ports, in their order. -/
def Sys2Proof.Claim.queuedTo (b b' : Block) (views : List (List Byte × List Desc)) : Prop :=
  ∀ p : Fin 4, ((b'.port p.val).d4.map fun d => { d with ord := 0 }) = ((b.port p.val).d4.map fun d => { d with ord := 0 }) ++
    views.flatMap fun e => if p.val ∈ viewPorts b e.1 then e.2 else []
/-- R229–R232, R256, R262: the export engine takes the closed bales in turn and sends each enabled view's descriptors to its ports; sections
with an error read INVALID and are counted; an amendment leaves once its time has passed, where the bale has late values and a view asks for it.
A standby sends nothing. -/
def Sys2Proof.Claim.baleExports : Prop :=
  ∀ (s : State) (bad : List Nat),
    (s.blk.up = false ∨ s.blk.inReset 0x19 = true ∨ s.blk.gran.toExp = [] → exec (.exportBale bad) s = .next s) ∧
    (∀ x rest, s.blk.up = true → s.blk.inReset 0x19 = false → s.blk.gran.toExp = x :: rest →
      let views := viewsOf s.blk x.rate fun _ => true
      let y := { x with bytes := spoil x.bytes (secOffsets x.bytes) bad }
      let frame := fun (l : List Byte) => c37Frame s.blk l y (viewBale y.bytes)
      let c37 := views.filter fun e => !(leAt e.2 0 2).testBit 14
      (s.blk.leads = false → exec (.exportBale bad) s = .next (put s { s.blk with gran := { s.blk.gran with toExp := rest } })) ∧
      (s.blk.leads = true → ∃ b', exec (.exportBale bad) s = .next (put s b') ∧ b'.gran.toExp = rest ∧
        queuedTo s.blk b' (views.map fun e => (e.2, viewDescs s.blk y e.2)) ∧
        (∀ v l m, (v, l) ∈ c37 → frame l = some m → 65507 < m.length → raisedEvent 0x303 v m.length b') ∧
        (∀ v l, (c37.filter fun e => (frame e.2).isNone).head? = some (v, l) → quiet s.blk.glean.utcSkipAt s.blk = true →
          raisedEvent 0x304 v x.idx b') ∧
        (bad = [] → b'.regs = s.blk.regs ∧ b'.granMem = s.blk.granMem) ∧
        (bad ≠ [] → raisedEvent 0x312 x.rate x.idx b' ∧
          b'.n64 (pg 0x19 0x508) = (s.blk.n64 (pg 0x19 0x508) + bad.eraseDups.length) % 2 ^ 64))) ∧
    (s.blk.running = false ∨ s.blk.inReset 0x19 = true ∨ amendDue s.blk = none → exec (.amendmentExport bad) s = .next s) ∧
    (∀ r x, s.blk.running = true → s.blk.inReset 0x19 = false → amendDue s.blk = some (r, x) →
      let vs := viewsOf s.blk r fun c => c.testBit 14 && c.testBit 11
      let a := baleOfs s.blk r x
      let mem := writeBytes s.blk.granMem (a + 50) [1]
      let ref : BaleRef := { rate := r, idx := x.idx, time := x.time, pos := x.pos, bytes := readBytes mem a x.size }
      let y := { ref with bytes := spoil ref.bytes (secOffsets ref.bytes) bad }
      ∃ b', exec (.amendmentExport bad) s = .next (put s b') ∧
        (∃ y ∈ (b'.rate r).bales, y.idx = x.idx ∧ y.amendDone = true) ∧
        (x.late = [] ∨ vs = [] → b'.granMem = s.blk.granMem ∧ b'.regs = s.blk.regs ∧ b'.ports = s.blk.ports) ∧
        (x.late ≠ [] → vs ≠ [] → counted (pg 0x19 (0x400 + 64 * r + 48)) s.blk b' ∧
          (bad = [] ∨ s.blk.leads = false → b'.granMem = mem) ∧
          (s.blk.leads = false → b'.ports = s.blk.ports) ∧
          (s.blk.leads = true → queuedTo s.blk b' (vs.map fun e => (e.2, (gbxPayloads y 1).map (exportDesc e.2 1 x.time)))) ∧
          (s.blk.leads = true → bad ≠ [] → raisedEvent 0x312 r x.idx b')))
/-- R238, R246, R252: rates are enabled where their settings, the layout and a free range allow it, and disabled; ranges are
committed whole. -/
def Sys2Proof.Claim.rates : Prop :=
  ∀ (s : State),
    (∀ ag (rate : Fin 4) w, let r := rate.val
      let a := brReg r 0x080
      acceptsL s.blk ag 0x19 (0x080 + 0x40 * r) →
      let new := (putBit w 31 true) &&& 0xFF0000FF
      let known := (rateList (new.getLsbD 30)).contains (fld new 7 0) = true
      let on := s.blk.t a 31 = true
      let amend := s.blk.f (brReg r 0x084) 26 16
      let short := amend ≠ 0 ∧ s.blk.f (brReg r 0x088) 15 0 ≤ ceilDiv (amend * fld new 7 0) 1000
      let c := wr a (putBit new 31 false) s.blk
      let slot := s.blk.n (brReg r 0x08C)
      let n := ceilDiv (s.blk.f (brReg r 0x084) 10 0 * fld new 7 0) 1000 + s.blk.f (brReg r 0x088) 15 0
      let refused := fun (code : Nat) => ∃ b', exec (.rateEnable ag rate w) s = .next (put s b') ∧ onlyError 0x19 code s.blk b' ∧
        b'.gran = s.blk.gran
      (¬ known → refused 0x23) ∧
      (known → on → fld new 30 30 ≠ s.blk.f a 30 30 ∨ fld new 7 0 ≠ s.blk.f a 7 0 → refused 0x25) ∧ (¬ on → known → short → refused 0x24) ∧
      (¬ on → known → ¬ short → slot < baleSize (layoutNow c r) → refused 0x21) ∧
      (¬ on → known → ¬ short → baleSize (layoutNow c r) ≤ slot → findFree c (n * slot) = none → refused 0x20) ∧
      (∀ base, ¬ on → known → ¬ short → baleSize (layoutNow c r) ≤ slot → findFree c (n * slot) = some base → ∃ b',
        exec (.rateEnable ag rate w) s = .next (put s b') ∧ b'.r a = new ∧ recorded 0x315 r 1 s.blk b' ∧ regsKeptBut [a] s.blk b' ∧
        (b'.rate r).on = true ∧ (b'.rate r).base = base ∧ (b'.rate r).n = n ∧ (b'.rate r).bales = [] ∧ (b'.rate r).next = 0 ∧
        (b'.rate r).from_ = s.blk.mark) ∧
      (on → fld new 30 30 = s.blk.f a 30 30 → fld new 7 0 = s.blk.f a 7 0 → known → ∃ b',
        exec (.rateEnable ag rate w) s = .next (put s b') ∧ b'.r a = new ∧ regsKeptBut [a] s.blk b' ∧ b'.gran = s.blk.gran)) ∧
    (∀ ag (rate : Fin 4) w, let r := rate.val
      let a := brReg r 0x080
      acceptsL s.blk ag 0x19 (0x080 + 0x40 * r) →
      let new := (putBit w 31 false) &&& 0xFF0000FF
      let known := (rateList (new.getLsbD 30)).contains (fld new 7 0) = true
      let same := fld new 30 30 = s.blk.f a 30 30 ∧ fld new 7 0 = s.blk.f a 7 0
      let refused := fun (code : Nat) => ∃ b', exec (.rateDisable ag rate w) s = .next (put s b') ∧ onlyError 0x19 code s.blk b' ∧
        b'.gran = s.blk.gran
      (¬ known → refused 0x23) ∧ (known → s.blk.t a 31 = true → ¬ same → refused 0x25) ∧
      (known → s.blk.t a 31 = true → same → ∃ b', exec (.rateDisable ag rate w) s = .next (put s b') ∧ b'.r a = new ∧
        (b'.rate r).on = false ∧ (b'.rate r).bales = [] ∧ raisedEvent 0x315 r 0 b') ∧
      (s.blk.t a 31 = false → known → ∃ b', exec (.rateDisable ag rate w) s = .next (put s b') ∧ b'.r a = new ∧
        regsKeptBut [a] s.blk b' ∧ b'.gran = s.blk.gran)) ∧
    (∀ ag v, accepts s.blk ag 0x19 0x060 →
      let r := fld v 1 0
      let a := brReg r 0x200
      let ws := (List.range 16).map fun i => mget (s.blk.r (a + 4 * i)) s.blk.staged (a + 4 * i)
      let isOver := (s.blk.rate r).on = true ∧ s.blk.n (brReg r 0x08C) < baleSize (layoutNow (wrList a ws s.blk) r)
      let refused := fun (code : Nat) => ∃ b', exec (.rangeCommit ag v) s = .next (put s b') ∧ onlyError 0x19 code s.blk b' ∧
        b'.staged = s.blk.staged
      let shared := s.blk.sharedHeld 0x19 0x200 = true
      (shared → refused 0x01) ∧ (¬ shared → rangesBad (rangesOf ws) = true → refused 0x26) ∧
      (¬ shared → rangesBad (rangesOf ws) = false → isOver → refused 0x21) ∧
      (¬ shared → rangesBad (rangesOf ws) = false → ¬ isOver → ∃ b', exec (.rangeCommit ag v) s = .next (put s b') ∧
        (∀ i < 16, b'.r (a + 4 * i) = ws.getD i 0) ∧ (∀ i < 16, ∀ d, mget d b'.staged (a + 4 * i) = d) ∧
        b'.glean.commitAt = some s.blk.mark))
/-- R263: a replay is refused or begins with an empty bale; a slice takes one record; it ends with the bale closed REPLAYED. -/
def Sys2Proof.Claim.replays : Prop :=
  ∀ (s : State),
    (∀ ag v, accepts s.blk ag 0x19 0x070 →
      let r := fld v 1 0
      let i := s.blk.n (pg 0x19 0x06C)
      let refused := fun (code : Nat) => ∃ b', exec (.replayCmd ag v) s = .next (put s b') ∧ errorCounted 0x19 code s.blk b' ∧
        counted (pg 0x19 0x518) s.blk b' ∧ b'.f (pg 0x19 0x074) 7 0 = code ∧ raisedEvent 0x314 (r * 256 + code) i b' ∧ b'.gran = s.blk.gran ∧ b'.granMem = s.blk.granMem
      let reaches := fun (x : Bale) => ∃ e, s.blk.glean.recs.head? = some e ∧ e.stamp ≤ x.time
      let after := fun (x : Bale) => ∀ t, s.blk.glean.commitAt = some t → t < x.time
      (s.blk.gran.replay ≠ none → refused 0x2A) ∧
      (s.blk.gran.replay = none →
        ((s.blk.rate r).bale i = none → refused 0x27) ∧
        ∀ x, (s.blk.rate r).bale i = some x →
          (x.closed = false → refused 0x2B) ∧ (x.closed = true → ¬ reaches x → refused 0x28) ∧
          (x.closed = true → reaches x → ¬ after x → refused 0x29) ∧
          (x.closed = true → reaches x → after x → ∃ b' q, exec (.replayCmd ag v) s = .next (put s b') ∧
            b'.gran.replay = some q ∧ q.rate = r ∧ q.cause = 0 ∧ q.bale.idx = i ∧ q.bale.time = x.time ∧ q.bale.arrived = [] ∧
            q.recs = (s.blk.glean.recs.filter fun e =>
              x.time ≤ e.stamp && e.stamp < x.time + gtMs (s.blk.f (brReg r 0x084) 10 0)) ∧
            b'.r (pg 0x19 0x074) = w32 (0x80000000 + r * 0x10000)))) ∧
    (s.blk.gran.replay = none → exec .replaySlice s = .next s ∧ exec .replayDone s = .next s) ∧
    (glRuns s.blk = false ∨ s.blk.inReset 0x19 = true ∨ liveReady s.blk = true → exec .replaySlice s = .next s) ∧
    (∀ p, s.blk.gran.replay = some p →
      (p.recs = [] → exec .replaySlice s = .next s) ∧
      (∀ e rest, p.recs = e :: rest → glRuns s.blk = true → s.blk.inReset 0x19 = false → liveReady s.blk = false →
        ∃ b' q, exec .replaySlice s = .next (put s b') ∧ b'.gran.replay = some q ∧ q.rate = p.rate ∧ q.cause = p.cause ∧
          q.late = p.late ∧ q.bale.time = p.bale.time ∧ q.recs = (if q.bale.full = true then [] else rest) ∧
          (recordValues s.blk (jrnRead s.blk e) = [] → q.bale = p.bale ∧ b'.granMem = s.blk.granMem)) ∧
      (p.recs ≠ [] → p.bale.full = false → exec .replayDone s = .next s) ∧
      (p.recs = [] ∨ p.bale.full = true → p.rate < 4 → ∃ b', exec .replayDone s = .next (put s b') ∧ counted (pg 0x19 0x510) s.blk b' ∧
          raisedEvent 0x313 p.rate p.bale.idx b' ∧
          (∀ y ∈ (b'.rate p.rate).bales, y.idx = p.bale.idx → y.closed = true ∧ y.flags.testBit 2 = true) ∧
          (s.blk.pair.takeReplays = [] → b'.gran.replay = none)))

/-- R206–R228, R475: frames, local entries and the Gleaner's tables. -/
def Obligations.GleanerTakesFramesEntriesAndTables : Prop := gleaning ∧ gleanTables
/-- R229–R263: bales open, close, leave and are replayed; rates and ranges. -/
def Obligations.BalesOpenCloseLeaveAndReplay : Prop := baleLife ∧ baleExports ∧ rates ∧ replays

/-! The oscillation watch and the islanding detector (R328–R365, R381–R383). -/

/-- The words that a commit of an entry takes: the word written and the staged ones, each under its mask. -/
def Sys2Proof.Claim.entryWords (b : Block) (a n : Nat) (mask : Nat → Nat) (v : Word) : List Word :=
  (List.range n).map fun i => (if i = 0 then v else mget (b.r (a + 4 * i)) b.staged (a + 4 * i)) &&& w32 (mask i)
/-- The entry's first words read as committed, and nothing of it is staged any more. -/
def Sys2Proof.Claim.entryTaken (a k : Nat) (ws : List Word) (b : Block) : Prop :=
  (∀ i < ws.length, b.r (a + 4 * i) = ws.getD i 0) ∧ ∀ i < k, ∀ d, mget d b.staged (a + 4 * i) = d
/-- The words that stood there stay in force until the commit's first sample, bale or decision. -/
def Sys2Proof.Claim.entryWaits (a n : Nat) (b c : Block) : Prop :=
  c.later = b.later ++ [(b.mark, a, (List.range n).map fun i => b.r (a + 4 * i))]

/-- R332, R342, R345, R346: outside Run or in reset of the page, and where no slice is due, nothing happens; a slice that is due is
run and the sampled values that waited are taken. Where one signal alone is on, none of its trackers is, and the one bale that waits is of its
rate, its sample is detrended and noted. -/
def Sys2Proof.Claim.oscSlices : Prop :=
  ∀ (s : State),
    (s.blk.running = false ∨ s.blk.inReset 0x28 = true → ∀ bad, exec (.oscSlice bad) s = .next s) ∧
    (s.blk.running = true → s.blk.inReset 0x28 = false →
    (oscDue s.blk = none → ∀ bad, exec (.oscSlice bad) s = .next s) ∧
    (∀ j bad, oscDue s.blk = some j → ∃ b', exec (.oscSlice bad) s = .next (put s b') ∧ b'.osc.slice = some j ∧
      b'.osc.late = false ∧ b'.svIn = []) ∧
    (∀ j k x v, oscDue s.blk = some j → s.blk.svIn = [] → s.blk.later = [] → s.blk.osc.trks = [] → sigsOn s.blk = [k] →
      let c := sigCfg s.blk k
      let old := s.blk.sig k
      c.en = true → c.kind < 5 → old.mismatch = false → (∀ i < 8, (trkCfg s.blk (8 * k + i)).en = false) →
      s.blk.gran.toOsc = [x] → x.rate = c.rate → (x.rate, x.idx) ∉ s.blk.osc.taken → ((s.blk.rate x.rate).bale x.idx).isSome = true →
      sigValue c (viewBale x.bytes) = some v → ∃ b', exec (.oscSlice []) s = .next (put s b') ∧ b'.gran.toOsc = [] ∧
        (x.rate, x.idx) ∈ b'.osc.taken ∧ b'.r (sigAddr k + 20) = 0x80000000 ∧
        b'.sig k = { x := v, y := fmul (f64Of32 c.hp) (fsub (fadd old.y v) old.x), bad := 0, mismatch := false, seen := some x.time }))
/-- R331, R337, R345, R351, R353: signal and tracker entries are checked and committed whole; a commit with EN at 0 ends the
tracker's alarm, and a signal's ends that of its trackers, at once. -/
def Sys2Proof.Claim.oscCommits : Prop :=
  ∀ (s : State) (ag : Agent) (v : Word), acceptsL s.blk ag 0x28 0 →
    (∀ sig : Fin 512,
      let a := sigAddr sig.val
      let ws := entryWords s.blk a 5 sigMask v
      let code := sigCheck s.blk sig.val (sigOf ws)
      (code ≠ 0 → ∃ b', exec (.oscSignalCommit ag sig v) s = .next (put s b') ∧ onlyError 0x28 code s.blk b' ∧
        b'.staged = s.blk.staged ∧ b'.later = s.blk.later) ∧
      (code = 0 → ∃ b', exec (.oscSignalCommit ag sig v) s = .next (put s b') ∧ entryTaken a 16 ws b' ∧ entryWaits a 5 s.blk b' ∧
        (v.getLsbD 15 = false → ∀ k < 8, (s.blk.trk (8 * sig.val + k)).alarm = true → (b'.trk (8 * sig.val + k)).alarm = false ∧
          (b'.trk (8 * sig.val + k)).count = 0 ∧ raisedEvent 0x501 (8 * sig.val + k) 3 b'))) ∧
    (∀ trk : Fin 4096,
      let a := trkAddr trk.val
      let ws := entryWords s.blk a 9 trkMask v
      let code := trkCheck s.blk trk.val (trkOf ws)
      (code ≠ 0 → ∃ b', exec (.oscTrackerCommit ag trk v) s = .next (put s b') ∧ onlyError 0x28 code s.blk b' ∧
        b'.staged = s.blk.staged ∧ b'.later = s.blk.later) ∧
      (code = 0 → ∃ b', exec (.oscTrackerCommit ag trk v) s = .next (put s b') ∧ entryTaken a 16 ws b' ∧ entryWaits a 9 s.blk b' ∧
        (v.getLsbD 15 = false → (s.blk.trk trk.val).alarm = true → (b'.trk trk.val).alarm = false ∧ (b'.trk trk.val).count = 0 ∧
          raisedEvent 0x501 trk.val 3 b')))
/-- R356–R363: outside Run or in reset of the page nothing happens; bales of other rates, and those taken before, are passed over; the next
of RATE is evaluated. A valid report makes Δf, ΔROCOF and the counts; a criterion that is on declares, and N_CLR quiet reports in a row clear;
an invalid report leaves every count and the state unchanged. Where commits wait, bales are taken all the same. -/
def Sys2Proof.Claim.islSlices : Prop :=
  ∀ (s : State) (bad : List Nat),
    (s.blk.running = false ∨ s.blk.inReset 0x29 = true ∨ s.blk.gran.toIsl = [] → exec (.islSlice bad) s = .next s) ∧
    (s.blk.running = true → s.blk.inReset 0x29 = false → s.blk.gran.toIsl ≠ [] → ∃ b', exec (.islSlice bad) s = .next (put s b') ∧
      b'.gran.toIsl.length < s.blk.gran.toIsl.length) ∧
    (s.blk.running = true → s.blk.inReset 0x29 = false → s.blk.later = [] →
      let passed := fun (x : BaleRef) => x.rate ≠ islRate s.blk ∨ (x.rate, x.idx) ∈ s.blk.isl.taken
      ((∀ x ∈ s.blk.gran.toIsl, passed x) → exec (.islSlice bad) s =
        .next (put s { s.blk with gran := { s.blk.gran with toIsl := [] } })) ∧
      (∀ skip x rest, s.blk.gran.toIsl = skip ++ x :: rest → (∀ y ∈ skip, passed y) → ¬passed x →
        let secs := viewBale (spoil x.bytes (secOffsets x.bytes) bad)
        let ref := islRef s.blk
        let rc := grpCfg s.blk ref
        let rv := if rc.en = true ∧ s.blk.isl.late = false then (grpEval rc secs).val else none
        ∃ b', exec (.islSlice bad) s = .next (put s b') ∧ b'.gran.toIsl = rest ∧ (x.rate, x.idx) ∈ b'.isl.taken ∧ b'.isl.late = false ∧
          (bad ≠ [] → raisedEvent 0x312 x.rate x.idx b') ∧
          (rc.en = true → (b'.grp ref).rep = rv.isSome ∧ (b'.grp ref).declared = (s.blk.grp ref).declared) ∧
          ∀ g < 64, g ≠ ref →
            let c := grpCfg s.blk g
            let old := s.blk.grp g
            (c.en = false → b'.grp g = old) ∧
            (c.en = true →
              (∀ u r, (grpEval c secs).val = some u → rv = some r → s.blk.isl.late = false →
                let now := grpReport c (exprVal secs c.terms) u r { old with expr := exprVal secs c.terms }
                let df := u.1 - r.1
                let dr := u.2.1 - r.2.1
                let quiet := df.natAbs < c.fClr ∧ dr.natAbs < c.dClr ∧ (c.tEn = false ∨ exprVal secs c.terms = 0)
                let clr := if quiet then old.cntClr + 1 else 0
                (b'.grp g).df = df ∧ (b'.grp g).dr = dr ∧ (b'.grp g).rep = true ∧
                (b'.grp g).cntF = (if c.fTh ≤ df.natAbs then old.cntF + 1 else 0) ∧
                (b'.grp g).cntD = (if c.dTh ≤ dr.natAbs then old.cntD + 1 else 0) ∧
                (old.declared = false → critOn c now = 0 → (b'.grp g).declared = false) ∧
                (old.declared = false → critOn c now ≠ 0 → (b'.grp g).declared = true ∧ (b'.grp g).crit = critOn c now ∧
                  (b'.grp g).idx = x.idx ∧ raisedEvent 0x510 (g * 256 + critOn c now) x.idx b') ∧
                (old.declared = true → (b'.grp g).cntClr = clr ∧ (b'.grp g).crit = old.crit ∧
                  (clr ≠ c.nClr → (b'.grp g).declared = true) ∧
                  (clr = c.nClr → (b'.grp g).declared = false ∧ raisedEvent 0x511 (g * 256 + old.crit) x.idx b'))) ∧
              ((grpEval c secs).val = none ∨ rv = none → (b'.grp g).rep = false ∧ (b'.grp g).declared = old.declared ∧
                (b'.grp g).cntF = old.cntF ∧ (b'.grp g).cntD = old.cntD ∧ (b'.grp g).cntClr = old.cntClr ∧
                (b'.grp g).s = old.s ∧ (b'.grp g).p = old.p))))
/-- R365, R381–R383: group entries are checked and committed whole; a change of RATE or REF_GROUP is a commit. -/
def Sys2Proof.Claim.islCommits : Prop :=
  ∀ (s : State) (ag : Agent) (v : Word),
    (acceptsL s.blk ag 0x29 0 → ∀ grp : Fin 64,
      let a := grpAddr grp.val
      let shown := fun (i : Nat) => 7 ≤ i ∧ i < 12
      let ws := (entryWords s.blk a 304 grpMask v).zipIdx.map fun (w, i) => if 7 ≤ i ∧ i < 12 then s.blk.r (a + 4 * i) else w
      let code := grpCheck s.blk grp.val (grpOf ws)
      (code ≠ 0 → ∃ b', exec (.islGroupCommit ag grp v) s = .next (put s b') ∧ onlyError 0x29 code s.blk b' ∧
        b'.staged = s.blk.staged ∧ b'.later = s.blk.later ∧ b'.isl = s.blk.isl) ∧
      (code = 0 → ∃ b', exec (.islGroupCommit ag grp v) s = .next (put s b') ∧
        (∀ i < 304, ¬ shown i → b'.r (a + 4 * i) = ws.getD i 0) ∧ (∀ i < 512, ∀ d, mget d b'.staged (a + 4 * i) = d) ∧
        (s.blk.later = [] → (s.blk.rate (islRate s.blk)).on = true → entryWaits a 304 s.blk b' ∧ b'.isl = s.blk.isl) ∧
        (s.blk.later = [] → (s.blk.rate (islRate s.blk)).on = false → b'.later = [] ∧ (b'.grp grp.val).declared = false ∧
          (b'.grp grp.val).s = 0 ∧ (b'.grp grp.val).p = none ∧ (b'.grp grp.val).cntF = 0 ∧ (b'.grp grp.val).cntD = 0))) ∧
    (acceptsL s.blk ag 0x29 0x040 →
      let n := v &&& 0x33F0B
      let old := s.blk.r islCtl
      let gone := fld n 13 8 ≠ fld old 13 8 ∧ (grpNow s.blk (fld n 13 8)).en = false
      (gone → ∃ b', exec (.islCtlWrite ag v) s = .next (put s b') ∧ onlyError 0x29 0x23 s.blk b' ∧ b'.isl = s.blk.isl) ∧
      (¬ gone → fld n 17 8 = fld old 17 8 → ∃ b', exec (.islCtlWrite ag v) s = .next (put s b') ∧ b'.r islCtl = n ∧
        regsKeptBut [islCtl] s.blk b' ∧ b'.isl = s.blk.isl) ∧
      (¬ gone → fld n 17 8 ≠ fld old 17 8 → s.blk.later = [] → ∃ b', exec (.islCtlWrite ag v) s = .next (put s b') ∧
        b'.r islCtl = n ∧
        ((s.blk.rate (fld n 17 16)).on = true → entryWaits islCtl 1 s.blk b' ∧ b'.isl = s.blk.isl) ∧
        ((s.blk.rate (fld n 17 16)).on = false → b'.later = [] ∧ ∀ g < 64, (b'.grp g).declared = false)))

/-! The alarm composer and the control outputs (R365–R390). -/

/-- R366, R367, R263: while it runs the composer takes a closed bale, and its decision follows; each enabled threshold source of the bale's
rate is judged once on it: ON_N judgements in a row that meet its limits make it active, OFF_N that meet none with the hysteresis make it
inactive; an invalid report meets them where the source says so, and else changes nothing. The judgements are stated where no commit waits. -/
def Sys2Proof.Claim.thresholds : Prop :=
  ∀ (s : State) (bad : List Nat),
    (almRuns s.blk = false ∨ s.blk.gran.toAlm = [] → exec (.composerEvaluate bad) s = .next s) ∧
    (∀ x rest, almRuns s.blk = true → s.blk.gran.toAlm = x :: rest → ∃ b', exec (.composerEvaluate bad) s = .next (put s b') ∧
      b'.gran.toAlm = rest ∧ b'.alm.bales = s.blk.alm.bales ++ [(x.time, x.replayed)] ∧ b'.alm.active = s.blk.alm.active ∧
      b'.alm.balls = s.blk.alm.balls ∧ (bad ≠ [] → raisedEvent 0x312 x.rate x.idx b') ∧
      (s.blk.later = [] → ∀ q : Fin 256, let l := bytesInForce s.blk (srcAddr q.val) 6
        srcEn l = true → srcOwner l = 3 → srcRate l = x.rate →
        let ctl := leAt l 0 2
        let kind := leAt l 4 1 / 32
        let y := quantity s.blk x.time (viewBale (spoil x.bytes (secOffsets x.bytes) bad)) (leAt l 2 2 % 8192) kind
          (leAt l 4 1 % 32) (leAt l 5 1 % 16)
        let n := mget 0 s.blk.alm.cnt q.val
        let now := s.blk.alm.thr.getLsbD q.val
        let meets := ∀ z, y = some z → if kind = 4 then z ≠ 0 else (ctl.testBit 8 = true ∧ flt (f32At l 8) z = true) ∨
          (ctl.testBit 7 = true ∧ flt z (f32At l 12) = true)
        let quiet := ∃ z, y = some z ∧ if kind = 4 then z = 0 else
          ¬((ctl.testBit 8 = true ∧ flt (fsub (f32At l 8) (f32At l 16)) z = true) ∨
            (ctl.testBit 7 = true ∧ flt z (fadd (f32At l 12) (f32At l 16)) = true))
        let counts := if now = true then quiet else meets
        let lim := if now = true then leAt l 7 1 else leAt l 6 1
        let stays := b'.alm.thr.getLsbD q.val = now
        let flips := b'.alm.thr.getLsbD q.val = !now ∧ mget 0 b'.alm.cnt q.val = 0 ∧ ⟨q.val, !now, x.time, x.replayed⟩ ∈ b'.alm.reqs
        b'.alm.valid.getLsbD q.val = y.isSome ∧
        (y = none → ctl.testBit 9 = false → mget 0 b'.alm.cnt q.val = n ∧ stays) ∧
        (y.isSome = true ∨ ctl.testBit 9 = true →
          (counts → lim ≤ n + 1 → flips) ∧ (counts → n + 1 < lim → mget 0 b'.alm.cnt q.val = n + 1 ∧ stays) ∧
          (¬counts → lim = 0 → flips) ∧ (¬counts → 0 < lim → mget 0 b'.alm.cnt q.val = 0 ∧ stays))))
/-- R367–R370: while the composer runs a decision applies all that is pending and evaluates each ball once; a change waits for MIN_PW, which
is always-on time; a latch is released by ALM_ACK where its logic is 0; ALM_TEST forces the levels. What one source's request does is stated
where it is the only one and no commit waits. -/
def Sys2Proof.Claim.ballDecisions : Prop :=
  ∀ (s : State),
    (almRuns s.blk = false → exec .composerDecision s = .next s ∧ ∀ i, exec (.minPwExpire i) s = .next s) ∧
    (almRuns s.blk = true → ∃ b', exec .composerDecision s = .next (put s b') ∧ b'.alm.reqs = [] ∧ b'.alm.bales = [] ∧
      (∀ i : Fin 16, (b'.ball i.val).l = ballLogic b' i.val ∧ ((s.blk.ball i.val).latched = false →
        ((s.blk.ball i.val).hold ≤ s.blk.mono → (b'.ball i.val).out = (b'.ball i.val).l) ∧
        (s.blk.mono < (s.blk.ball i.val).hold → (b'.ball i.val).out = (s.blk.ball i.val).out))) ∧
      (∀ q on t rep, s.blk.alm.reqs = [⟨q, on, t, rep⟩] → q < 256 → s.blk.later = [] → s.blk.alm.active.getLsbD q ≠ on →
        b'.alm.active.getLsbD q = on ∧ (∀ p < 256, p ≠ q → b'.alm.active.getLsbD p = s.blk.alm.active.getLsbD p) ∧
        counted (almCnt 1) s.blk b' ∧ b'.t (pg 0x2A 0x018) 1 = true ∧ ⟨5, q, on, t⟩ ∈ b'.cap.evs)) ∧
    (∀ i : Fin 16, almRuns s.blk = true →
      let x := s.blk.ball i.val
      (x.ask = none ∨ s.blk.mono < x.hold ∨ (x.l || x.latched) = x.out → exec (.minPwExpire i) s = .next s) ∧
      (∀ a, x.ask = some a → x.hold ≤ s.blk.mono → (x.l || x.latched) ≠ x.out → ∃ b', exec (.minPwExpire i) s = .next (put s b') ∧
        (b'.ball i.val).out = (x.l || x.latched) ∧ (b'.ball i.val).ask = none ∧ counted (almCnt 0) s.blk b' ∧
        b'.t (pg 0x2A 0x018) 0 = true ∧ ∀ k : Fin 16, k ≠ i → b'.ball k.val = s.blk.ball k.val)) ∧
    (∀ ag v, accepts s.blk ag 0x2A 0x048 → ∃ b', exec (.almAck ag v) s = .next (put s b') ∧ ∀ i : Fin 16,
      let x := s.blk.ball i.val
      (v.getLsbD i.val = false ∨ x.latched = false ∨ x.l = true → b'.ball i.val = x) ∧
      (v.getLsbD i.val = true → x.latched = true → x.l = false → raisedEvent 0x521 i.val 0 b' ∧
        (ballLogic s.blk i.val = false → (b'.ball i.val).latched = false ∧
          (x.hold ≤ s.blk.mono → (b'.ball i.val).out = false)))) ∧
    (∀ ag v, acceptsL s.blk ag 0x2A 0x04C → ∃ b', exec (.almTestWrite ag v) s = .next (put s b') ∧ b'.r (pg 0x2A 0x04C) = v ∧
      regsKeptBut [pg 0x2A 0x04C] s.blk b' ∧ b'.alm = s.blk.alm ∧
      (s.blk.r (pg 0x2A 0x04C) = v → b'.evr = s.blk.evr) ∧ (s.blk.r (pg 0x2A 0x04C) ≠ v → recorded 0x522 v.toNat 0 s.blk b') ∧
      ∀ i : Fin 16, let ctl := leAt (bytesInForce s.blk (ballAddr i.val) 6) 0 2
        s.blk.balls.inact = true → s.blk.running = true → s.blk.enabled 0x2A = true → s.blk.acts = true → ctl.testBit 15 = true →
        v.getLsbD (16 + i.val) = true → b'.balls.alm.getLsbD i.val = (v.getLsbD i.val == ctl.testBit 13))
/-- R365, R372, R373, R385, R386: source, ball and dataset entries are checked and committed whole; an enabled dataset's message is repeated
once its interval of always-on time has passed, each interval twice the one before up to T_MAX, and sent where one waited to be sent. -/
def Sys2Proof.Claim.almEntries : Prop :=
  ∀ (s : State),
    (∀ d : Fin 64, let x := s.blk.ds d.val
      let waits := ∃ t, x.due = some t ∧ s.blk.mono < t
      let ms := min (2 * x.ms) (leAt (bytesInForce s.blk (dsAddr d.val) 5) 18 2)
      let sends := fun (y : GooseSt) => ∃ b', exec (.gooseRetransmit d) s = .next (put s b') ∧
        b'.ds d.val = { y with due := some (s.blk.mono + gtMs y.ms), sent := true } ∧
        (s.blk.acts = true → counted (almCnt 3) s.blk b') ∧ (s.blk.acts = false → b'.ports = s.blk.ports)
      (x.on = false ∨ gooseCan s.blk = false ∨ (x.sent = true ∧ waits) → exec (.gooseRetransmit d) s = .next s) ∧
      (x.on = true → gooseCan s.blk = true → x.sent = false → sends x) ∧
      (x.on = true → gooseCan s.blk = true → x.sent = true → ¬waits →
        sends { x with sq := if x.sq = 0xFFFFFFFF then 1 else x.sq + 1, ms := ms })) ∧
    (∀ ag v, acceptsL s.blk ag 0x2A 0 →
      (∀ q : Fin 256,
        let a := srcAddr q.val
        let ws := entryWords s.blk a 6 srcMask v
        let l := bytesOfWords ws
        let code := srcCheck s.blk q.val l
        (code ≠ 0 → ∃ b', exec (.almSourceCommit ag q v) s = .next (put s b') ∧ onlyError 0x2A code s.blk b' ∧
          b'.alm = s.blk.alm ∧ b'.staged = s.blk.staged) ∧
        (code = 0 → ∃ b', exec (.almSourceCommit ag q v) s = .next (put s b') ∧ entryTaken a 8 ws b' ∧
          (s.blk.later = [] → (s.blk.rate (srcRate l)).on = true → entryWaits a 6 s.blk b' ∧ b'.alm = s.blk.alm) ∧
          (s.blk.later = [] → (s.blk.rate (srcRate l)).on = false → b'.later = [] ∧ mget 0 b'.alm.cnt q.val = 0 ∧
            (srcEn l = false → ⟨q.val, false, s.blk.now, false⟩ ∈ b'.alm.reqs)))) ∧
      (∀ i : Fin 16,
        let a := ballAddr i.val
        let ws := entryWords s.blk a 6 ballMask v
        (16 < fld v 4 0 → ∃ b', exec (.almBallCommit ag i v) s = .next (put s b') ∧ onlyError 0x2A 0x22 s.blk b' ∧
          b'.alm = s.blk.alm) ∧
        (fld v 4 0 ≤ 16 → ∃ b', exec (.almBallCommit ag i v) s = .next (put s b') ∧ entryTaken a 6 ws b' ∧
          (leadRate s.blk ≠ none → entryWaits a 6 s.blk b' ∧ b'.alm = s.blk.alm) ∧
          (leadRate s.blk = none → s.blk.later = [] → b'.later = [] ∧ (b'.ball i.val).l = ballLogic b' i.val))) ∧
      (∀ d : Fin 64,
        let a := dsAddr d.val
        let ws := entryWords s.blk a 62 dsMask v
        let code := dsCheck (bytesOfWords ws)
        (code ≠ 0 → ∃ b', exec (.gooseDatasetCommit ag d v) s = .next (put s b') ∧ onlyError 0x2A code s.blk b' ∧
          b'.alm = s.blk.alm) ∧
        (code = 0 → ∃ b', exec (.gooseDatasetCommit ag d v) s = .next (put s b') ∧ entryTaken a 62 ws b' ∧
          (leadRate s.blk ≠ none → entryWaits a 62 s.blk b' ∧ b'.alm = s.blk.alm) ∧
          (leadRate s.blk = none → s.blk.later = [] → b'.later = [] ∧ (b'.ds d.val).on = v.getLsbD 15 ∧ (b'.ds d.val).st = 1 ∧
            (b'.ds d.val).sq = 0 ∧ (v.getLsbD 15 = true → (b'.ds d.val).sent = gooseCan s.blk)))))
/-- R374, R376, R379, R388, R389: while the page runs, outputs are computed for each bale of OUT_RATE once the watch has taken it, and
published once for each bale time; a late one repeats the values sent and is recorded; a held one repeats them or ramps; a gap's hold of
always-on time ends in a ramp; an entry is checked and committed whole. -/
def Sys2Proof.Claim.controlOutputs : Prop :=
  ∀ (s : State),
    (let l := s.blk.gran.toCo.filter fun x => x.rate = outRate s.blk && !s.blk.gov.taken.contains (x.rate, x.idx)
     (govRuns s.blk = false → exec .coCompute s = .next s) ∧
     (govRuns s.blk = true → l = [] ∨ (∃ x rest, l = x :: rest ∧ coReady s.blk x = false) →
       exec .coCompute s = .next (put s { s.blk with gran := { s.blk.gran with toCo := l } })) ∧
     (∀ x rest, govRuns s.blk = true → l = x :: rest → coReady s.blk x = true → ∃ b', exec .coCompute s = .next (put s b') ∧
       b'.gran.toCo = rest ∧ b'.gov.govern = modeAt s.blk x.time ∧ (x.rate, x.idx) ∈ b'.gov.taken ∧
       (let done := ∃ t, s.blk.gov.pubT = some t ∧ x.time ≤ t
        (done → b'.gov.wait = s.blk.gov.wait) ∧ (¬done → b'.gov.wait = s.blk.gov.wait ++ [(x.time, x.idx, coLate s.blk x)])) ∧
       ∀ c : Fin 16, let l := coEntry s.blk c.val
         let u := (b'.co c.val).u
         (b'.co c.val).us.head? = some (x.time, u) ∧ (modeAt s.blk x.time = false → u = 0) ∧
         (s.blk.later = [] → (coEn l = false → u = 0) ∧
           (modeAt s.blk x.time = true → coEn l = true →
             u = (coLimit l (s.blk.rateHz x.rate) (s.blk.co c.val).u (coRaw s.blk c.val l x.time).1).1 ∧
             (b'.co c.val).degraded = (coRaw s.blk c.val l x.time).2)))) ∧
    (govRuns s.blk = false ∨ s.blk.time.valid = false ∨ pubNext s.blk = none → exec .coPublish s = .next s) ∧
    (∀ T, govRuns s.blk = true → s.blk.time.valid = true → pubNext s.blk = some T →
      let due := T + gtNs (s.blk.n (pg 0x2B 0x048) * 1000)
      let f := s.blk.rateHz (outRate s.blk)
      let held := s.blk.gov.hold = true ∧ s.blk.decides = false
      (s.blk.now < due → exec .coPublish s = .next s) ∧
      (due ≤ s.blk.now → ∃ b', exec .coPublish s = .next (put s b') ∧ b'.gov.pubT = some T ∧
        b'.gov.wait = s.blk.gov.wait.filter (fun e => T < e.1) ∧
        (publishes s.blk = false → b'.out = s.blk.out ∧ b'.n64 (govCnt 0) = s.blk.n64 (govCnt 0) ∧
          ∀ c : Fin 16, (b'.co c.val).sent = (s.blk.co c.val).sent) ∧
        (publishes s.blk = true → counted (govCnt 0) s.blk b' ∧
          (s.blk.t (pg 0x2B 0x040) 1 = true → ∃ lines, .spt lines due (s.blk.f (pg 0x2B 0x044) 9 0) ∈ b'.out) ∧
          let late := ∀ i, (s.blk.gov.wait.find? fun e => e.1 = T) ≠ some (T, i, false)
          (¬held → late → counted (govCnt 1) s.blk b' ∧ raisedEvent 0x530 (baleIndex f T) 0 b') ∧
          ∀ c : Fin 16, let old := (s.blk.co c.val).sent
            b'.r (pg 0x2B (0x080 + 4 * c.val)) = f32Of (b'.co c.val).sent ∧
            (modeAt s.blk T = false → (b'.co c.val).sent = 0) ∧
            (modeAt s.blk T = true →
              (held → s.blk.gov.ramp = false → (b'.co c.val).sent = old) ∧
              (held → s.blk.gov.ramp = true → (b'.co c.val).sent = rampStep old (fdiv (f32At (coEntry s.blk c.val) 36) (fInt f))) ∧
              (¬held → late → (b'.co c.val).sent = old) ∧
              (¬held → ¬late → ∀ u, ((s.blk.co c.val).us.find? fun e => e.1 = T) = some (T, u) → (b'.co c.val).sent = u))))) ∧
    (let ends := s.blk.gov.holdFrom + gtMs (s.blk.f (pg 0x2B 0x04C) 15 0)
     (s.blk.gov.hold = false ∨ s.blk.gov.ramp = true ∨ s.blk.mono < ends → exec .gapHoldExpire s = .next s) ∧
     (s.blk.gov.hold = true → s.blk.gov.ramp = false → ends ≤ s.blk.mono → ∃ b', exec .gapHoldExpire s = .next (put s b') ∧
       b'.gov = { s.blk.gov with ramp := true } ∧ recorded 0x532 0 0 s.blk b')) ∧
    (∀ ag (c : Fin 16) v, acceptsL s.blk ag 0x2B 0 →
      let a := coAddr c.val
      let ws := entryWords s.blk a 26 coMask v
      let code := coCheck s.blk (bytesOfWords ws)
      (code ≠ 0 → ∃ b', exec (.coEntryCommit ag c v) s = .next (put s b') ∧ onlyError 0x2B code s.blk b' ∧ b'.gov = s.blk.gov) ∧
      (code = 0 → ∃ b', exec (.coEntryCommit ag c v) s = .next (put s b') ∧ entryTaken a 64 ws b' ∧
        (s.blk.later = [] → (s.blk.rate (outRate s.blk)).on = true → entryWaits a 26 s.blk b' ∧ b'.gov = s.blk.gov) ∧
        (s.blk.later = [] → (s.blk.rate (outRate s.blk)).on = false → b'.later = [] ∧ (b'.co c.val).g = none ∧
          (b'.co c.val).bound = false)))

/-- R328–R365, R381–R383: the oscillation watch and the islanding detector. -/
def Obligations.WatchAndIslandingTakeBalesAndEntries : Prop := oscSlices ∧ oscCommits ∧ islSlices ∧ islCommits
/-- R365–R390: threshold sources, balls, GOOSE datasets and control outputs. -/
def Obligations.ComposerBallsDatasetsAndOutputs : Prop := thresholds ∧ ballDecisions ∧ almEntries ∧ controlOutputs

/-! Disturbance capture (R391–R416). -/

/-- Bit d of a command word is set, and no other bit of a definition of some kind. -/
def Sys2Proof.Claim.onlyBit (v : Word) (d : Fin 32) (p : Nat → Prop) : Prop :=
  v.getLsbD d.val = true ∧ ∀ k < 32, v.getLsbD k = true → k ≠ d.val → ¬p k
/-- R396, R404: a definition arms where its area has room for its extent, else it waits; with no uniform rate it does neither. -/
def Sys2Proof.Claim.armsNow (d : Nat) (b b' : Block) : Prop :=
  let c := capCfg b d
  let s := b.cdef d
  (capRate b c = none → (b'.cdef d).ph = .uneven ∧ (s.ph ≠ .uneven → raisedEvent 0x604 d 0 b')) ∧
  ∀ r, capRate b c = some r →
    (∀ e left, areaFind b c.area (capExtent c) = some (e, left) →
      let n := s.nx.getD (capNow b r (nth c.chans 0 0))
      b'.cdef d = { ph := .armed, nx := some n, rate := r, ext := e, r0 := rowFrom c n, lock := s.lock, met := s.met } ∧
      b'.carea c.area = { head := e + capExtent c, exts := left ++ [⟨e, capExtent c, some d, none⟩] } ∧
      b'.r (capAddr d + 192) = 0x80000000) ∧
    (areaFind b c.area (capExtent c) = none → (b'.cdef d).ph = .wait ∧ b'.r (capAddr d + 192) = 0x20000000 ∧
      b'.cap.areas = b.cap.areas)
/-- R391, R393, R396, R397, R400, R402: the next input sample of a definition, of which no slot judges samples. It waits for the sample; a
change of the rate disarms and arms; a sample whose index is kept is written as a row and the row before it goes to memory; the row L after a
held trigger's commits it; the last row completes the Stook; a row that finds staging full ends the Stook TRUNCATED, or starts the fill again.
Recording is stated where no doubling is pending or asked for. -/
def Sys2Proof.Claim.captureRows : Prop :=
  ∀ (s : State) (d : Fin 32) (drained : Nat),
    let c := capCfg s.blk d.val
    let st := s.blk.cdef d.val
    let fill := s.blk.cap.fill - drained
    let filled := put s { s.blk with cap := { s.blk.cap with fill := fill } }
    (capRuns s.blk = false ∨ c.en = false ∨ st.ph = .off ∨ st.ph = .stopped ∨ (capRate s.blk c = none ∧ st.ph = .uneven) →
      exec (.captureSample d drained) s = .next filled) ∧
    (capRuns s.blk = true → c.en = true → st.ph ≠ .off → st.ph ≠ .stopped → st.ph ≠ .uneven → capRate s.blk c = none → ∃ b',
      exec (.captureSample d drained) s = .next (put s b') ∧ (b'.cdef d.val).ph = .uneven ∧ raisedEvent 0x604 d.val 0 b') ∧
    (∀ r, capRuns s.blk = true → c.en = true → st.ph = .uneven → capRate s.blk c = some r → ∃ b',
      exec (.captureSample d drained) s = .next (put s b') ∧ ((b'.cdef d.val).ph = .armed ∨ (b'.cdef d.val).ph = .wait)) ∧
    (∀ (n : Nat) (r : Nat × Nat), capRuns s.blk = true → c.en = true → st.ph ≠ .off → st.ph ≠ .stopped → st.ph ≠ .uneven →
      capRate s.blk c = some r →
      (r ≠ st.rate → ∃ b', exec (.captureSample d drained) s = .next (put s b') ∧
        ((b'.cdef d.val).ph = .armed ∨ (b'.cdef d.val).ph = .wait) ∧ (b'.cdef d.val).rows = 0 ∧ (b'.cdef d.val).held = none) ∧
      (r = st.rate → st.nx = some n →
      let top := capNow s.blk r (nth c.chans 0 0)
      top ≤ n + 65536 → n ≤ top + 65536 →
      (capAvail s.blk c r n = false → exec (.captureSample d drained) s = .next filled) ∧
      (capAvail s.blk c r n = true → (∀ q ∈ c.slots, q.type = 0) → st.mulTo = none → c.autoDbl = false →
        let row := capRowAt s.blk c r n
        let step := c.dec * st.mul
        let kept := st.live = true ∧ st.r0 ≤ n ∧ n % step = 0
        let onward := { st with nx := some (n + 1), last := some row, rows := st.rows + 1 }
        let rowAt := fun (k : Nat) => 0x40000000 + capOfs s.blk d.val + 256 + 64 * c.nch + k * rowBytes c
        let place := if st.ph = .recording then capR c r + st.lin - 1 else (st.rows - 1) % capR c r
        let writes := fun (st' : CapDef) => ∃ b', exec (.captureSample d drained) s = .next (put s b') ∧ b'.cdef d.val = st' ∧
          b'.cap.fill = fill + rowBytes c ∧ (∀ k < 32, k ≠ d.val → b'.cdef k = s.blk.cdef k) ∧
          (st.last = none → b'.ddr = s.blk.ddr) ∧ ∀ old, st.last = some old → b'.ddr = writeBytes s.blk.ddr (rowAt place) old
        (¬kept → ∃ b', exec (.captureSample d drained) s = .next (put s b') ∧
          b'.cdef d.val = { st with nx := some (n + 1) } ∧ b'.cap.fill = fill ∧ b'.ddr = s.blk.ddr) ∧
        (kept → fill + rowBytes c ≤ 0x200000 →
          (st.ph = .armed → st.held = none → writes onward) ∧
          (∀ h, st.ph = .armed → st.held = some h →
            (st.rows < h.row + capL c r → writes onward) ∧
            (h.row + capL c r ≤ st.rows → capL c r + 1 < c.post → writes { onward with ph := .recording, lin := 1 })) ∧
          (st.ph = .recording → n + step ≤ capEnd s.blk d.val → writes { onward with lin := st.lin + 1 }) ∧
          (∀ h, st.ph = .recording → st.held = some h → capEnd s.blk d.val < n + step → ∃ b',
            exec (.captureSample d drained) s = .next (put s b') ∧ (b'.cdef d.val).ph = .hold ∧ (b'.cdef d.val).held = none ∧
            (b'.cdef d.val).holdEnd = s.blk.now + gtMs c.hold ∧ counted (capCnt 0) s.blk b' ∧ b'.t (pg 0x30 0x018) 1 = true ∧
            (c.export_ = true → b'.cap.queue.length = s.blk.cap.queue.length + 1))) ∧
        (kept → 0x200000 < fill + rowBytes c →
          (st.held = none → ∃ b', exec (.captureSample d drained) s = .next (put s b') ∧ raisedEvent 0x605 d.val 0 b' ∧
            (b'.cdef d.val).rows = 0 ∧ (b'.cdef d.val).last = none ∧ (b'.cdef d.val).r0 = rowFrom c (n + 1) ∧ b'.ddr = s.blk.ddr) ∧
          (∀ h, st.held = some h → ∃ b', exec (.captureSample d drained) s = .next (put s b') ∧ raisedEvent 0x605 d.val 0 b' ∧
            raisedEvent 0x600 d.val 3 b' ∧ counted (capCnt 0) s.blk b' ∧ counted (capCnt 1) s.blk b' ∧
            (b'.cdef d.val).ph = .hold)) ∧
        row.length = rowBytes c ∧ ∀ i < c.nch,
          (capSamp s.blk r (nth c.chans i 0) n = none → leAt row (4 + 4 * i) 4 = 0 ∧ (leAt row 0 4).testBit (16 + i) = true ∧
            (leAt row 0 4).testBit i = false) ∧
          ∀ w, capSamp s.blk r (nth c.chans i 0) n = some w → (leAt row 0 4).testBit i = w.flag ∧
            (leAt row 0 4).testBit (16 + i) = w.supp ∧ leAt row (4 + 4 * i) 4 = (if w.supp = true then 0 else pat 32 w.v))))
/-- R394, R395: a level slot that is not locked fires where the level is crossed in a direction of EDGE, and linear placement is
the least i from 1 to 256 with 256 (A − x0) ≤ i (x1 − x0). -/
def Sys2Proof.Claim.crossingPlacement : Prop :=
  ∀ (q : CapSlot) (x : Nat → Option Int) (m : Nat) (x0 x1 : Int), q.type = 1 → q.cubic = false → x (m - 1) = some x0 → x m = some x1 →
    (x0 < q.a → q.a ≤ x1 → q.edge ≠ 1 → ∃ i, slotFires q 0 x m = (some i, 1) ∧ 1 ≤ i ∧ i ≤ 256 ∧
      256 * (q.a - x0) ≤ i * (x1 - x0) ∧ ((i : Int) - 1) * (x1 - x0) < 256 * (q.a - x0)) ∧
    (q.a < x0 → x1 ≤ q.a → q.edge ≠ 0 → ∃ i, slotFires q 0 x m = (some i, 2) ∧ 1 ≤ i ∧ i ≤ 256 ∧
      256 * (x0 - q.a) ≤ i * (x0 - x1) ∧ ((i : Int) - 1) * (x0 - x1) < 256 * (x0 - q.a)) ∧
    (x0 < q.a → x1 < q.a → slotFires q 0 x m = (none, 0)) ∧
    (∀ lk, 0 < lk → q.a - q.hyst < x1 → x1 < q.a + q.hyst → slotFires q lk x m = (none, lk))
/-- A definition that is enabled and armed accepts a trigger: the pretrigger rows stand, and the rows that a later correction of the
trigger may need are still to come, or the trigger commits at once and rows of the linear part are still to come. -/
def Sys2Proof.Claim.awaits (b : Block) (d : Nat) (t : Gt) (k : Nat) : Prop :=
  let c := capCfg b d
  let st := b.cdef d
  let g := rowFrom c (capFirst b st.rate (nth c.chans 0 0) t)
  c.en = true ∧ st.ph = .armed ∧ st.held = none ∧ st.seq = none ∧ st.r0 ≤ g ∧ k = (g - st.r0) / c.dec ∧ c.pre ≤ k ∧
    (st.rows ≤ k + capL c st.rate ∨ st.rows = k + capL c st.rate + 1 ∧ capL c st.rate + 1 < c.post)
/-- No other definition is enabled. -/
def Sys2Proof.Claim.alone (b : Block) (d : Nat) : Prop := ∀ j < 32, j ≠ d → (capCfg b j).en = false
/-- R397, R399: what an accepted first trigger leaves: the held trigger, its number, TRIGGERED, the pulse of TRIG_OUT and the message to the
partner where they are asked for. -/
def Sys2Proof.Claim.holdsTrigger (b b' : Block) (d : Nat) (t : Gt) (slot type k : Nat) : Prop :=
  let c := capCfg b d
  ∃ h, (b'.cdef d).held = some h ∧ h.t = t ∧ h.slot = slot ∧ h.type = type ∧ h.row = k ∧ h.gov = modeAt b t ∧
    (b'.cdef d).mask = (if slot = 0xFE then 32 else 2 ^ slot) ∧ (b'.cdef d).seq = some b.cap.seq ∧
    b'.cap.seq = (b.cap.seq + 1) % 2 ^ 32 ∧ b'.t (pg 0x30 0x018) 0 = true ∧
    (c.trigOut = true → b'.cap.outEnd = some (b.mono + gtNs (b.f (pg 0x30 0x044) 15 0 * 1000), d)) ∧
    (c.partnerOut = true → b.member = true → (b'.cdef d).told = true)
/-- R394, R397, R400: a host trigger of one enabled definition is accepted where none is held, or counted in the counter that says why not;
in Keep, Off and the resets, and of definitions that are not enabled, stopped or without a common rate, nothing happens. -/
def Sys2Proof.Claim.hostTriggers : Prop :=
  ∀ (s : State) (ag : Agent) (v : Word), accepts s.blk ag 0x30 0x050 →
    (s.blk.up = false ∨ (∀ k < 32, v.getLsbD k = true → (capCfg s.blk k).en = false) → exec (.capHostTrigger ag v) s = .next s) ∧
    ∀ d : Fin 32, s.blk.up = true → (capCfg s.blk d.val).en = true → onlyBit v d (fun k => (capCfg s.blk k).en = true) →
    let c := capCfg s.blk d.val
    let st := s.blk.cdef d.val
    let only := fun (i : Nat) (st' : CapDef) => ∃ b', exec (.capHostTrigger ag v) s = .next (put s b') ∧
      counted (capCnt i) s.blk b' ∧ b'.cdef d.val = st' ∧ b'.cap.seq = s.blk.cap.seq ∧ b'.cap.areas = s.blk.cap.areas
    (st.ph = .off ∨ st.ph = .stopped ∨ st.ph = .uneven ∨ (st.ph = .hold ∧ ¬(c.holdMode = 1 ∧ 0 < st.holdN)) →
      exec (.capHostTrigger ag v) s = .next s) ∧
    (st.ph = .wait → only 5 st) ∧
    (st.ph = .hold → c.holdMode = 1 → 0 < st.holdN → only 4 { st with holdN := st.holdN - 1 }) ∧
    (st.ph = .recording → only 6 { st with
      retrig := min (st.retrig + 1) 65535, retrigAt := if st.retrig = 0 then s.blk.now else st.retrigAt }) ∧
    (st.ph = .armed →
      let g := rowFrom c (capFirst s.blk st.rate (nth c.chans 0 0) s.blk.now)
      let k := (g - st.r0) / c.dec
      (g < st.r0 ∨ k < c.pre → only 2 st) ∧
      (st.r0 ≤ g → c.pre ≤ k → k + capL c st.rate + 1 < st.rows → only 3 st) ∧
      (∀ h, st.r0 ≤ g → c.pre ≤ k → st.rows ≤ k + capL c st.rate + 1 → st.held = some h →
        (h.t < s.blk.now → only 6 st) ∧ (h.t = s.blk.now → h.rank ≤ 4 → only 6 { st with mask := st.mask ||| 32 }))) ∧
    (∀ k, awaits s.blk d.val s.blk.now k → ∃ b',
      exec (.capHostTrigger ag v) s = .next (put s b') ∧ holdsTrigger s.blk b' d.val s.blk.now 0xFE 0 k)
/-- R394, R397: a change of a source or ball, a closed bale or an edge of TRIG_IN meets the slots that select it, stated for one enabled
definition with one slot of that type and no trigger held; a pulse of TRIG_OUT ends after its width of always-on time. -/
def Sys2Proof.Claim.sourceTriggers : Prop :=
  ∀ (s : State),
    let only := fun (d i type : Nat) (p : CapSlot → Prop) => ∀ j < 4, ∃ q, (capCfg s.blk d).slots[j]? = some q ∧
      (j = i → q.type = type ∧ p q) ∧ (j ≠ i → q.type ≠ type)
    let sees := fun (q : CapSlot) (on : Bool) => q.edge = 2 ∨ (q.edge = 0 ∧ on = true) ∨ (q.edge = 1 ∧ on = false)
    (capRuns s.blk = false ∨ s.blk.cap.evs = [] ∧ s.blk.gran.toCap = [] → exec .captureTrigger s = .next s) ∧
    (capRuns s.blk = true → ∀ e rest, s.blk.cap.evs = e :: rest →
      ((∀ d < 32, (capCfg s.blk d).en = false) → exec .captureTrigger s =
        .next (put s { s.blk with cap := { s.blk.cap with evs := rest } })) ∧
      (∀ d < 32, ∀ i < 4, ∀ k, awaits s.blk d e.t k → alone s.blk d →
        only d i e.kind (fun q => q.num = e.num ∧ sees q e.on) → ∃ b', exec .captureTrigger s = .next (put s b') ∧
          b'.cap.evs = rest ∧ holdsTrigger s.blk b' d e.t i e.kind k)) ∧
    (capRuns s.blk = true → s.blk.cap.evs = [] → ∀ x rest, s.blk.gran.toCap = x :: rest →
      ((x.rate, x.idx) ∈ s.blk.cap.taken → exec .captureTrigger s =
        .next (put s { s.blk with gran := { s.blk.gran with toCap := rest } })) ∧
      ((x.rate, x.idx) ∉ s.blk.cap.taken → (∀ d < 32, (capCfg s.blk d).en = false) → ∃ b',
        exec .captureTrigger s = .next (put s b') ∧ b'.gran.toCap = rest ∧ (x.rate, x.idx) ∈ b'.cap.taken ∧
        b'.cap.defs = s.blk.cap.defs) ∧
      (∀ d < 32, ∀ i < 4, ∀ k was z q, (x.rate, x.idx) ∉ s.blk.cap.taken → awaits s.blk d x.time k →
        alone s.blk d → only d i 4 (fun p => p = q) → q.rate = x.rate →
        quantity s.blk x.time (viewBale x.bytes) (q.num % 8192) q.kind q.idx q.bit = some z →
        (s.blk.cdef d).met.length = 4 → nth (s.blk.cdef d).met i none = some was →
        let meets := if q.kind = 4 then (z != 0) != decide (q.edge = 1) else if q.edge = 1 then fle z q.aF else fle q.aF z
        ∃ b', exec .captureTrigger s = .next (put s b') ∧ b'.gran.toCap = rest ∧ nth (b'.cdef d).met i none = some meets ∧
          ((if q.edge = 2 then was ≠ meets else was = false ∧ meets = true) → holdsTrigger s.blk b' d x.time i 4 k) ∧
          ((if q.edge = 2 then was = meets else was = true ∨ meets = false) → (b'.cdef d).held = none))) ∧
    (∀ rise w,
      (capRuns s.blk = false ∨ w < 50 → exec (.trigInEdge rise w) s = .next s) ∧
      (capRuns s.blk = true → 50 ≤ w →
        ((∀ d < 32, (capCfg s.blk d).en = false) → ∃ b', exec (.trigInEdge rise w) s = .next (put s b') ∧
          counted (capCnt 11) s.blk b' ∧ regsKeptBut [capCnt 11, capCnt 11 + 4] s.blk b' ∧ b'.cap = s.blk.cap) ∧
        (∀ d < 32, ∀ i < 4, ∀ k, let t := s.blk.now / 65536 * 65536
          awaits s.blk d t k → alone s.blk d → only d i 7 (fun q => sees q rise) →
          ∃ b', exec (.trigInEdge rise w) s = .next (put s b') ∧ counted (capCnt 11) s.blk b' ∧
            holdsTrigger s.blk b' d t i 7 k))) ∧
    (∀ t d, s.blk.cap.outEnd = some (t, d) → (s.blk.mono < t → exec .trigOutEnd s = .next s) ∧
      (t ≤ s.blk.mono → ∃ b', exec .trigOutEnd s = .next (put s b') ∧ b'.cap = { s.blk.cap with outEnd := none } ∧
        b'.regs = s.blk.regs ∧ (s.blk.balls.inact = true → s.blk.dev.st ≠ .keep → s.blk.dev.st ≠ .off →
          b'.balls.trigOut = !s.blk.t (pg 0x30 0x040) 2))) ∧
    (s.blk.cap.outEnd = none → exec .trigOutEnd s = .next s)
/-- R396, R400, R404, R412, R413, R415: arming, stopping, the commit of a definition, TAIL. -/
def Sys2Proof.Claim.definitions : Prop :=
  ∀ (s : State),
    (∀ ag v, accepts s.blk ag 0x30 0x054 →
      let arms := fun (k : Nat) => (capCfg s.blk k).en = true ∧
        ((s.blk.cdef k).ph = .stopped ∨ (s.blk.cdef k).ph = .hold ∧ (capCfg s.blk k).holdMode = 2)
      (s.blk.up = false ∨ (∀ k < 32, v.getLsbD k = true → ¬arms k) → exec (.capArm ag v) s = .next s) ∧
      (∀ d : Fin 32, s.blk.up = true → arms d.val → onlyBit v d arms → ∃ b',
        exec (.capArm ag v) s = .next (put s b') ∧ armsNow d.val s.blk b')) ∧
    (∀ ag v, accepts s.blk ag 0x30 0x058 →
      let stops := fun (k : Nat) => (s.blk.cdef k).ph ≠ .off
      ((∀ k < 32, v.getLsbD k = true → ¬stops k) → exec (.capStop ag v) s = .next s) ∧
      (∀ d : Fin 32, onlyBit v d stops →
        let c := capCfg s.blk d.val
        let st := s.blk.cdef d.val
        (st.ph ≠ .off → ∃ b', exec (.capStop ag v) s = .next (put s b') ∧ b'.cdef d.val =
            { ph := .stopped, nx := st.nx, rate := st.rate, lock := st.lock, met := st.met } ∧
          (st.live = false → b'.cap.areas = s.blk.cap.areas) ∧
          (st.live = true → st.held = none → b'.ddr = s.blk.ddr ∧ b'.cap.queue = s.blk.cap.queue ∧
            (b'.carea c.area).exts = (s.blk.carea c.area).exts.map fun e =>
              if e.owner = some d.val then { e with owner := none, seq := none } else e) ∧
          (∀ h, st.live = true → st.held = some h → counted (capCnt 0) s.blk b' ∧ counted (capCnt 1) s.blk b' ∧
            raisedEvent 0x600 d.val 0 b' ∧ b'.t (pg 0x30 0x018) 1 = true ∧ b'.t (pg 0x30 0x018) 2 = true)))) ∧
    (capRuns s.blk = false → exec .captureRearm s = .next s ∧ exec .captureArm s = .next s) ∧
    (capRuns s.blk = true →
      let isOver := fun (d : Nat) => (s.blk.cdef d).ph = .hold ∧
        ((capCfg s.blk d).holdMode = 0 ∧ (s.blk.cdef d).holdEnd ≤ s.blk.now ∨
          (capCfg s.blk d).holdMode = 1 ∧ (s.blk.cdef d).holdN = 0)
      let room := fun (d : Nat) => (s.blk.cdef d).ph = .wait ∧
        (areaFind s.blk (capCfg s.blk d).area (capExtent (capCfg s.blk d))).isSome = true
      ((∀ d < 32, ¬ isOver d) → exec .captureRearm s = .next s) ∧
      (∀ d < 32, isOver d → (∀ k < d, ¬ isOver k) → ∃ b', exec .captureRearm s = .next (put s b') ∧ armsNow d s.blk b') ∧
      ((∀ d < 32, ¬ room d) → exec .captureArm s = .next s) ∧
      (∀ d < 32, room d → (∀ k < d, ¬ room k) → ∃ b', exec .captureArm s = .next (put s b') ∧ armsNow d s.blk b')) ∧
    (∀ ag (a : Fin 4) v, accepts s.blk ag 0x30 (0x088 + 16 * a.val) →
      let x := s.blk.carea a.val
      let good := areaStop s.blk a.val = true ∧ (v.toNat = x.head ∨ ∃ e ∈ x.exts, e.ofs = v.toNat)
      (¬ good → ∃ b', exec (.capAreaTailWrite ag a v) s = .next (put s b') ∧ onlyError 0x30 0x26 s.blk b' ∧ b'.cap = s.blk.cap) ∧
      (good → ∃ b', exec (.capAreaTailWrite ag a v) s = .next (put s b') ∧ b'.regs = s.blk.regs ∧
        (b'.carea a.val).head = x.head ∧ (b'.carea a.val).tail = v.toNat ∧
        (∃ gone, x.exts = gone ++ (b'.carea a.val).exts ∧ ∀ e ∈ gone, e.ofs ≠ v.toNat) ∧
        b'.cap.defs = s.blk.cap.defs ∧ b'.cap.queue = s.blk.cap.queue)) ∧
    (∀ ag (d : Fin 32) v, acceptsL s.blk ag 0x30 0 →
      let a := capAddr d.val
      let ws := entryWords s.blk a 48 capMask v
      let c := capOf ws
      let code := capCheck s.blk c
      (code ≠ 0 → ∃ b', exec (.capDefCommit ag d v) s = .next (put s b') ∧ onlyError 0x30 code s.blk b' ∧ b'.cap = s.blk.cap ∧
        b'.staged = s.blk.staged) ∧
      (code = 0 → ∃ b', exec (.capDefCommit ag d v) s = .next (put s b') ∧ entryTaken a 48 ws b' ∧ capCfg b' d.val = c ∧
        (b'.cdef d.val).rows = 0 ∧ (b'.cdef d.val).held = none ∧ (c.en = false ∨ s.blk.up = false → b'.cdef d.val = {}) ∧
        ((s.blk.cdef d.val).live = false →
          (c.en = false ∨ s.blk.up = false → b'.cap.areas = s.blk.cap.areas) ∧
          (c.en = true → s.blk.up = true → (b'.cdef d.val).ph =
            (if (areaFind s.blk c.area (capExtent c)).isSome = true then .armed else .wait))) ∧
        (∀ h, (s.blk.cdef d.val).live = true → (s.blk.cdef d.val).held = some h → raisedEvent 0x600 (d.val) 2 b' ∧
          counted (capCnt 1) s.blk b')))
/-- R408: a Stook leaves as chunks to the ports selected; it leaves the queue when every chunk has gone or three attempts have
failed. -/
def Sys2Proof.Claim.stooks : Prop :=
  ∀ (s : State),
    (capRuns s.blk = false ∨ s.blk.cap.queue = [] → exec .stookExport s = .next s) ∧
    (capRuns s.blk = true → ∀ x rest, s.blk.cap.queue = x :: rest →
      (x.left = none → 0 < x.fails → (∀ p ∈ stookPorts s.blk, (s.blk.port p).link = false) → exec .stookExport s = .next s) ∧
      (x.left = none → x.fails = 0 ∨ (∃ p ∈ stookPorts s.blk, (s.blk.port p).link = true) → ∃ b' ds,
        let n := ceilDiv x.len 262128
        exec .stookExport s = .next (put s b') ∧ b'.cap.queue = { x with left := some (n * (stookPorts s.blk).length) } :: rest ∧
        b'.regs = s.blk.regs ∧ ds.length = n ∧
        (∀ i < n, ∃ e, ds[i]? = some e ∧
          let part := readBytes s.blk.ddr (0x40000000 + x.ofs + i * 262128) (min 262128 (x.len - i * 262128))
          e.payload = beBytes 4 x.seq ++ beBytes 4 (i * 262128) ++ beBytes 4 x.len ++ beBytes 4 (crc32c part) ++ part) ∧
        ∀ p : Fin 4, ((b'.port p.val).d4.map fun d => { d with ord := 0 }) = ((s.blk.port p.val).d4.map fun d => { d with ord := 0 }) ++
          (if p.val ∈ stookPorts s.blk then ds else [])) ∧
      (∀ n, x.left = some n →
        let mine := s.blk.cap.done.filter fun e => e.1 = x.seq && e.2.1 = x.fails
        let failed := ∃ e ∈ mine, e.2.2 ≠ 0
        (failed → x.fails < 2 → ∃ b', exec .stookExport s = .next (put s b') ∧ b'.cap.done = [] ∧
          b'.cap.queue = { x with fails := x.fails + 1, left := none } :: rest) ∧
        (failed → 2 ≤ x.fails → ∃ b', exec .stookExport s = .next (put s b') ∧ b'.cap.queue = rest ∧
          counted (capCnt 10) s.blk b' ∧ raisedEvent 0x602 x.seq 0 b') ∧
        (¬ failed → n ≤ mine.length → ∃ b', exec .stookExport s = .next (put s b') ∧ b'.cap.queue = rest ∧
          counted (capCnt 9) s.blk b' ∧ b'.t (pg 0x30 0x018) 3 = true) ∧
        (¬ failed → mine.length < n → ∃ b', exec .stookExport s = .next (put s b') ∧ b'.cap.done = [] ∧
          b'.cap.queue = { x with left := some (n - mine.length) } :: rest ∧ b'.regs = s.blk.regs)))

/-- R391–R416: samples, rows and triggers of capture, its definitions and areas, and the export of Stooks. -/
def Obligations.CaptureRecordsTriggersAndExportsStooks : Prop :=
  captureRows ∧ crossingPlacement ∧ hostTriggers ∧ sourceTriggers ∧ definitions ∧ stooks

/-! The Thresher (R417–R441). -/

/-- R419, R420, R425: an event meets a task that names its source: its flags rise, what was set merges and is counted, and a
ready task posts one item that consumes the flags of MASK. -/
def Sys2Proof.Claim.flagged (t : Nat) (x : FlagInfo) (b b' : Block) : Prop :=
  let ws := taskWords b t
  let mask := nth ws 1 0
  let ordered := (nth ws 0 0).getLsbD 13
  let old := (b.task t).flags
  let f := flagsOf ws x.src
  let all := old ||| f
  let ready := if (nth ws 0 0).getLsbD 14 = true then all &&& mask ≠ 0 else all &&& mask = mask
  b'.n64 (thrCnt 5) = (b.n64 (thrCnt 5) + ((List.range 32).filter fun i => (old &&& f).getLsbD i).length) % 2 ^ 64 ∧
  (¬ ready → (b'.task t).flags = all ∧ b'.thr.pend = b.thr.pend ∧ b'.thr.pseq = b.thr.pseq) ∧
  (ready → (b'.task t).flags = all &&& ~~~mask ∧ counted (thrCnt 0) b b' ∧ ∃ it, b'.thr.pend = b.thr.pend ++ [it] ∧
    it.task = t ∧ it.words = ws ∧ it.cons = all &&& mask ∧ it.seq = (b.task t).seq + 1 ∧ it.pseq = b.thr.pseq + 1 ∧
    (ordered = false → it.t = b.now ∧ it.d = 0) ∧ (ordered = true → it.d = x.d) ∧
    (ordered = true → old = 0 → (b.task t).info = [] → f &&& mask ≠ 0 → it.t = x.t ∧ (1 ≤ x.src → x.src ≤ 4 →
      it.w4 = BitVec.ofNat 64 ((if x.ovr = true then 2 ^ 63 else 0) + (x.src - 1) * 2 ^ 32 + x.bale % 2 ^ 32))))
/-- R421: free tasks see an accepted event at once; where ordered tasks may name its source it waits for its release. -/
def Sys2Proof.Claim.eventTaken (e : ThrEvent) (b b' : Block) : Prop :=
  b'.thr.rel = b.thr.rel ++ (if (srcKinds e.src).2 = true then [e] else []) ∧
  (tasksFor b e.src false = [] → b'.thr.pend = b.thr.pend ∧ b'.regs = b.regs ∧ b'.thr.tasks = b.thr.tasks) ∧
  ∀ t, tasksFor b e.src false = [t] → flagged t (infoOf e) b b'
/-- R419, R429: a raised event is accepted, held at its source, or dropped outside Run; of a timer or a silo no second one is held; past 64
of a source the oldest is marked OVERRUN once; a held notice is accepted where there is room. -/
def Sys2Proof.Claim.events : Prop :=
  ∀ (s : State),
    (s.blk.thr.raised = [] → exec .thresherEvent s = .next s) ∧
    (∀ e rest, s.blk.thr.raised = e :: rest →
      let mine := s.blk.thr.held.filter fun x => x.src = e.src
      let timer := 0x20 ≤ e.src ∧ e.src ≤ 0x3F
      let silo := 0x10 ≤ e.src ∧ e.src ≤ 0x17
      let waits := s.blk.inReset 0x38 = true ∨ mine ≠ [] ∨ hasRoom s.blk e.src = false
      let answers := fun (P : Block → Prop) => ∃ b', exec .thresherEvent s = .next (put s b') ∧ b'.thr.raised = rest ∧ P b'
      (s.blk.running = false → exec .thresherEvent s = .next (put s { s.blk with thr := { s.blk.thr with raised := rest } })) ∧
      (s.blk.running = true → ¬ waits → answers fun b' => eventTaken e s.blk b' ∧ b'.thr.held = s.blk.thr.held) ∧
      (s.blk.running = true → waits →
        (mine ≠ [] → timer → answers fun b' => counted (thrCnt 8) s.blk b' ∧ b'.thr.held = s.blk.thr.held) ∧
        (mine ≠ [] → silo → answers fun b' => b'.regs = s.blk.regs ∧ b'.thr.held = s.blk.thr.held) ∧
        (mine = [] ∨ ¬ timer ∧ ¬ silo → mine.length < 64 → answers fun b' => b'.thr.held = s.blk.thr.held ++ [e] ∧
          counted (thrCnt 6) s.blk b' ∧ b'.thr.heldAt = some s.blk.mono ∧
          (quiet s.blk.thr.heldAt s.blk = true → raisedEvent 0x706 e.src 0 b' ∧ b'.t (pg 0x38 0x018) 1 = true) ∧
          (quiet s.blk.thr.heldAt s.blk = false → b'.evr = s.blk.evr)) ∧
        (∀ o l, mine = o :: l → 64 ≤ mine.length → ¬ timer → ¬ silo →
          let bale := 1 ≤ e.src ∧ e.src ≤ 4
          (o.ovr = true → answers fun b' => b'.regs = s.blk.regs ∧ b'.thr.held = s.blk.thr.held ∧ b'.evr = s.blk.evr) ∧
          (o.ovr = false → answers fun b' => b'.thr.held.length = s.blk.thr.held.length ∧ { o with ovr := true } ∈ b'.thr.held ∧
            (¬bale → counted (thrCnt 7) s.blk b' ∧ b'.t (pg 0x38 0x018) 0 = true) ∧
            (bale → counted (pg 0x19 (0x400 + 64 * (e.src - 1) + 56)) s.blk b' ∧ b'.t (pg 0x19 0x018) 2 = true ∧
              raisedEvent 0x311 (e.src - 1) (o.bale % 2 ^ 32) b'))))) ∧
    (s.blk.thr.held = [] → exec .noticeAccept s = .next s) ∧
    (∀ e rest, s.blk.thr.held = e :: rest → let can := s.blk.running = true ∧ s.blk.inReset 0x38 = false ∧ hasRoom s.blk e.src = true
      (¬ can → exec .noticeAccept s = .next s) ∧
      (can → ∃ b', exec .noticeAccept s = .next (put s b') ∧ b'.thr.held = rest ∧ b'.thr.raised = s.blk.thr.raised ∧
        eventTaken e s.blk b'))
/-- R421: events wait until the order watermark, which no frontier of a source that ordered tasks name falls behind; they are
released by time and source code. -/
def Sys2Proof.Claim.releases : Prop :=
  ∀ (s : State),
    (∀ src ∈ orderedSrcs s.blk, (∀ t, frontier s.blk src = some t → orderMark s.blk ≤ t ∧ releaseMark s.blk ≤ t) ∧
      ∀ e ∈ s.blk.thr.held, e.src = src → releaseMark s.blk ≤ e.t - 1) ∧
    (thrRuns s.blk = false ∨ (∀ e ∈ s.blk.thr.rel, releaseMark s.blk < e.t) → exec .orderRelease s = .next s) ∧
    (thrRuns s.blk = true → ∀ e before after, s.blk.thr.rel = before ++ e :: after → e.t ≤ releaseMark s.blk →
      (∀ x ∈ before, e.t < x.t ∨ e.t = x.t ∧ e.src < x.src) → (∀ x ∈ after, e.t < x.t ∨ e.t = x.t ∧ e.src ≤ x.src) →
      ∃ b', exec .orderRelease s = .next (put s b') ∧ b'.thr.rel = before ++ after ∧
        (tasksFor s.blk e.src true = [] → b'.thr.pend = s.blk.thr.pend ∧ b'.regs = s.blk.regs) ∧
        ∀ t, tasksFor s.blk e.src true = [t] → flagged t (infoOf e) s.blk b')
/-- R423–R425, R597: the item of the highest priority, the oldest among equals, that no running item of its ordered task holds back
goes to an engine of its AFFINITY and starts with the registers the item gives; items at or after the time of a new program set wait until
every item before it has committed, and the set is then loaded. -/
def Sys2Proof.Claim.dispatches : Prop :=
  ∀ (s : State),
    let left := fun (t : Gt) => (∃ it ∈ s.blk.thr.pend, it.t < t) ∨ (∃ it ∈ s.blk.thr.done, it.t < t) ∨
      (∃ p : Fin 26, ∃ r, (s.blk.eng p.val).run = some r ∧ r.item.t < t)
    (∀ t, s.blk.upd.reloadAt = some t → ¬left t → t ≤ orderMark s.blk → ∃ b', exec .itemDispatch s = .next (put s b') ∧
      b'.thr.prog = programWords s.blk ∧ b'.upd.reloadAt = none) ∧
    ((∀ t, s.blk.upd.reloadAt = some t → left t ∨ orderMark s.blk < t) →
      (thrRuns s.blk = false ∨ s.blk.thr.pend = [] → exec .itemDispatch s = .next s) ∧
      (thrRuns s.blk = true →
      let held := fun (it : Item) => (it.ordered = true ∧ taskActive s.blk it.task = true) ∨ ∃ t, s.blk.upd.reloadAt = some t ∧ t ≤ it.t
      let fits := fun (it : Item) => (engFor s.blk it).2.isSome = true
      ((∀ it ∈ s.blk.thr.pend, held it ∨ ¬ fits it) → exec .itemDispatch s = .next s) ∧
      ∀ it ∈ s.blk.thr.pend, ¬ held it → ∀ na e p, engFor s.blk it = (na, some (e, p)) →
        (∀ x ∈ s.blk.thr.pend, x ≠ it → held x ∨ ¬ fits x ∨ x.priority < it.priority ∨
          x.priority = it.priority ∧ it.pseq < x.pseq) →
        e < 24 ∧ s.blk.serves e = some p ∧ (s.blk.eng p).run = none ∧
        (it.avoid = none → na = false → it.affinity.testBit e = true ∧
          ∀ e' < e, it.affinity.testBit e' = true → ∀ q, s.blk.serves e' = some q → engFree s.blk e' q = false) ∧
        ∃ b' r, exec .itemDispatch s = .next (put s b') ∧ (b'.eng p).run = some r ∧ r.item = it ∧ r.addr = e ∧ r.count = 0 ∧
          r.started = s.blk.mono ∧ it ∉ b'.thr.pend ∧ (na = true → counted (thrCnt 9) s.blk b') ∧ (na = false → b'.regs = s.blk.regs) ∧
          r.pc = BitVec.ofNat 64 (nth it.words 3 0).toNat ∧
          (r.w[0]).toNat = (it.cons.toNat * 2 ^ 32 + it.seq % 2 ^ 16 * 2 ^ 16 + it.d % 4 * 2 ^ 14 + it.task) % 2 ^ 64 ∧
          (r.w[1]).toNat = (nth it.words 6 0).toNat ∧ r.w[2] = BitVec.ofNat 64 (secOf it.t) ∧
          r.w[3] = BitVec.ofNat 64 (nsOf it.t % 2 ^ 30) ∧ r.w[4] = it.w4 ∧ (∀ k : Fin 32, 5 ≤ k.val → r.w[k] = 0) ∧
          ∀ k : Fin 16, r.c[k] = Vector.replicate 4 0))
/-- R422, R426, R430: an ordered item commits when it has the smallest key of those posted and the order watermark has reached
its T; its log is applied. What a log's entry does is stated for a log of at most one entry on a part that compares no digest with a partner. -/
def Sys2Proof.Claim.commits : Prop :=
  ∀ (s : State),
    (thrRuns s.blk = false ∨ s.blk.thr.done = [] → exec .orderedCommit s = .next s) ∧
    (∀ it ∈ s.blk.thr.done, nextCommit s.blk = some it → it.t ≤ orderMark s.blk ∧ ∀ x ∈ outstanding s.blk,
      ¬ (x.t < it.t ∨ x.t = it.t ∧ (x.d < it.d ∨ x.d = it.d ∧ x.task < it.task))) ∧
    (∀ it, thrRuns s.blk = true → s.blk.thr.done = [it] → it.ordered = true → orderMark s.blk < it.t → exec .orderedCommit s = .next s) ∧
    (thrRuns s.blk = true → nextCommit s.blk = none → exec .orderedCommit s = .next s) ∧
    (∀ it, thrRuns s.blk = true → nextCommit s.blk = some it → ∃ b', exec .orderedCommit s = .next (put s b') ∧
      b'.thr.done = s.blk.thr.done.filter (fun x => x.pseq != it.pseq) ∧ counted (thrCnt (if it.ordered = true then 1 else 2)) s.blk b') ∧
    (∀ it, thrRuns s.blk = true → nextCommit s.blk = some it → it.ordered = true → s.blk.mirrors = false →
      s.blk.pair.role ≠ .standby → s.blk.pair.role ≠ .converging →
      let done := fun (P : Block → Prop) => ∃ b', exec .orderedCommit s = .next (put s b') ∧
        b'.thr.done = s.blk.thr.done.filter (fun x => x.pseq != it.pseq) ∧ counted (thrCnt 1) s.blk b' ∧ P b'
      (it.log = [] → done fun b' => regsKeptBut [thrCnt 1, thrCnt 1 + 4] s.blk b' ∧ b'.ddr = s.blk.ddr ∧ b'.evr = s.blk.evr ∧
        b'.alm = s.blk.alm ∧ b'.thr.pend = s.blk.thr.pend) ∧
      (∀ x, it.log = [x] →
        (x.kind = 4 → done fun b' => recorded x.target (leAt x.data 0 4) (leAt x.data 4 4) s.blk b' ∧ b'.ddr = s.blk.ddr) ∧
        (x.kind = 5 → done fun b' => b'.evr = s.blk.evr ∧
          b'.ddr = writeBytes s.blk.ddr (0x340000000 + leAt x.data 0 8) (x.data.drop 8)) ∧
        (x.kind = 2 → 16 ≤ x.target → done fun b' => b'.thr.raised = s.blk.thr.raised ++ [{ src := 0x50 + (x.target - 16), t := s.blk.now }]) ∧
        (x.kind = 2 → x.target < 16 → ∀ t, tasksFor s.blk (0x40 + x.target) true = [t] → done fun b' =>
          flagged t { src := 0x40 + x.target, t := it.t, d := it.d + 1 } s.blk b')))
/-- R430: an item that runs past 2 × BUDGET / S + 10 µs fails as by a hardware fault: it goes to another engine up to RETRY
times, and then fails. -/
def Sys2Proof.Claim.overtime : Prop :=
  ∀ (s : State) (p : Fin 26),
    ((s.blk.eng p.val).run = none → exec (.itemOvertime p) s = .next s) ∧
    ∀ r, (s.blk.eng p.val).run = some r →
      let S := s.blk.supply.speed
      let past := 2 * r.item.budget * 1024 * 65536 + 10000 * 65536 * S < (s.blk.mono - r.started) * S
      let retry := s.blk.f (pg 0x38 0x040) 17 16
      (¬ past → exec (.itemOvertime p) s = .next s) ∧
      (past → r.item.tries < retry → ∃ b', exec (.itemOvertime p) s = .next (put s b') ∧ (b'.eng p.val).run = none ∧
        b'.thr.pend = s.blk.thr.pend ++ [{ r.item with tries := r.item.tries + 1, avoid := some p.val }] ∧
        counted (thrCnt 4) s.blk b' ∧ raisedEvent 0x704 r.item.task p.val b' ∧ b'.thr.done = s.blk.thr.done) ∧
      (past → retry ≤ r.item.tries → ∃ b', exec (.itemOvertime p) s = .next (put s b') ∧ (b'.eng p.val).run = none ∧
        counted (thrCnt 3) s.blk b' ∧ b'.t (pg 0x38 0x018) 3 = true ∧
        raisedEvent 0x703 (r.item.d * 2 ^ 14 + r.item.task) (0x83 * 2 ^ 24 + 2 ^ 23 + r.pc.toNat % 2 ^ 19) b' ∧
        b'.thr.pend = s.blk.thr.pend ∧ (r.item.ordered = false → b'.thr.done = s.blk.thr.done) ∧
        (r.item.ordered = true → b'.thr.done = s.blk.thr.done ++ [{ r.item with log := [], failed := true, eng := r.addr }]))
/-- R437, R417, R439, R431, R440: a timer raises its event at each multiple of PERIOD; task entries are committed whole; ENG_CTL.OUT
takes an engine out of service and back. -/
def Sys2Proof.Claim.timersTasksEngines : Prop :=
  ∀ (s : State),
    (∀ i : Fin 32, let a := pg 0x38 (0x100 + 4 * i.val)
      let per := s.blk.f a 25 0 * 1000 * 65536
      let t := s.blk.now / per * per
      (s.blk.running = false ∨ s.blk.t a 31 = false ∨ per = 0 ∨ t ≤ mget 0 s.blk.thr.timers i.val → exec (.thrTimer i) s = .next s) ∧
      (s.blk.running = true → s.blk.t a 31 = true → per ≠ 0 → mget 0 s.blk.thr.timers i.val < t → ∃ b',
        exec (.thrTimer i) s = .next (put s b') ∧ b'.thr.raised = s.blk.thr.raised ++ [{ src := 0x20 + i.val, t := t }] ∧
        mget 0 b'.thr.timers i.val = t ∧ b'.regs = s.blk.regs ∧ per ∣ t ∧ t ≤ s.blk.now ∧ s.blk.now < t + per)) ∧
    (∀ ag (t : Fin 1024) v, acceptsL s.blk ag 0x38 0 →
      let a := taskAt t.val
      let ws := entryWords s.blk a 16 taskMask v
      let code := taskCheck s.blk t.val ws
      (code ≠ 0 → ∃ b', exec (.taskCommit ag t v) s = .next (put s b') ∧ onlyError 0x38 code s.blk b' ∧ b'.thr = s.blk.thr ∧
        b'.staged = s.blk.staged) ∧
      (code = 0 → ∃ b', exec (.taskCommit ag t v) s = .next (put s b') ∧ entryTaken a 16 ws b' ∧ b'.thr.pend = s.blk.thr.pend ∧
        (v.getLsbD 15 = false → (b'.task t.val).flags = 0) ∧
        (v.getLsbD 15 = true → s.blk.t a 15 = true → b'.thr = s.blk.thr) ∧
        (v.getLsbD 15 = true → s.blk.t a 15 = false → (b'.task t.val).flags = 0 ∧ (b'.task t.val).seq = 0) ∧
        ∀ k < 1024, k ≠ t.val → b'.task k = s.blk.task k) ∧
      (v.getLsbD 15 = true → (∃ i < 32, flagSrc ws i ≠ 0 ∧
        (if v.getLsbD 13 = true then (srcKinds (flagSrc ws i)).2 else (srcKinds (flagSrc ws i)).1) = false) → code = 0x20) ∧
      (code = 0 → v.getLsbD 15 = true → (nth ws 3 0).toNat ≤ 0x1FFFC ∧ 4 ∣ (nth ws 3 0).toNat ∧ nth ws 4 0 ≠ 0 ∧ nth ws 2 0 ≠ 0 ∧
        (heapUnits ws).1 + (heapUnits ws).2 ≤ 32768)) ∧
    (∀ ag (e : Fin 26) v,
      (24 ≤ e.val → exec (.engOutWrite ag e v) s = .next s) ∧
      (e.val < 24 → acceptsL s.blk ag (0x40 + e.val) 0x040 →
        let old := s.blk.eng e.val
        let r := pg (0x40 + e.val) 0x040
        (v.getLsbD 0 = true → old.gone = false → ∃ b', exec (.engOutWrite ag e v) s = .next (put s b') ∧ (b'.eng e.val).out = true ∧
          b'.r r = 1 ∧ raisedEvent 0x700 e.val (s.blk.n (pg (0x40 + e.val) 0x04C)) b' ∧ b'.t (pg 0x38 0x018) 2 = true ∧
          (s.blk.bist.rot = none → s.blk.spareFree 24 = true → (b'.eng 24).covers = some e.val ∧ b'.serves e.val = some 24 ∧
            raisedEvent 0x701 (24 * 256 + e.val) 0 b') ∧
          (s.blk.bist.rot = none → s.blk.spareFree 24 = false → s.blk.spareFree 25 = true → (b'.eng 25).covers = some e.val ∧
            raisedEvent 0x701 (25 * 256 + e.val) 0 b') ∧
          (∀ p, s.blk.bist.rot = none → s.blk.spareFree 24 = false → s.blk.spareFree 25 = false → s.blk.upd.spare = some p →
            p = 24 ∨ p = 25 → (b'.eng p).covers = some e.val ∧ b'.upd.spare = none ∧ raisedEvent 0x701 (p * 256 + e.val) 0 b') ∧
          (∀ x, s.blk.bist.rot = some x → x.engine = e.val → x.spare = 24 ∨ x.spare = 25 →
            b'.bist.rot = some { x with degraded := true } ∧ (b'.eng x.spare).covers = some e.val ∧
            raisedEvent 0x701 (x.spare * 256 + e.val) 0 b') ∧
          (∀ x, s.blk.bist.rot = some x → x.engine ≠ e.val → b'.bist.rot = none ∧ counted (bistCnt 4) s.blk b' ∧
            raisedEvent 0xB05 x.engine 0 b') ∧
          (s.blk.bist.rot = none → s.blk.spareFree 24 = false → s.blk.spareFree 25 = false → s.blk.upd.spare = none →
            (∀ p, p = 24 ∨ p = 25 → (s.blk.eng p).covers ≠ some e.val) → b'.serves e.val = none ∧
            b'.t (pg 0x38 0x00C) 2 = true)) ∧
        (v.getLsbD 0 = false → old.out = true → old.degraded = false → old.retired = false → ∃ b',
          exec (.engOutWrite ag e v) s = .next (put s b') ∧ (b'.eng e.val).out = false ∧ b'.r r = 0 ∧ raisedEvent 0x702 e.val 0 b' ∧
          ((b'.eng 24).covers ≠ some e.val ∧ (b'.eng 25).covers ≠ some e.val)) ∧
        ((v.getLsbD 0 = true → old.gone = true) → (v.getLsbD 0 = false → old.out = true → old.degraded = true ∨ old.retired = true) →
          ∃ b', exec (.engOutWrite ag e v) s = .next (put s b') ∧ (b'.eng e.val).out = v.getLsbD 0 ∧ b'.r r = (if v.getLsbD 0 = true then 1 else 0) ∧
          regsKeptBut [r] s.blk b' ∧ b'.evr = s.blk.evr)))

/-- R417–R441: events, release, dispatch, commit, failures, timers, task entries and engines. -/
def Obligations.ThresherReleasesDispatchesAndCommits : Prop :=
  events ∧ releases ∧ dispatches ∧ commits ∧ overtime ∧ timersTasksEngines

/-! Paired operation (R471–R502). -/

/-- A frame of the pair link arrives on a trained link with a good CRC (R482, R483). -/
def Sys2Proof.Claim.linked (b : Block) (hd : PlHead) : Prop := linkTrained b = true ∧ hd.good = true
/-- The same for a sequenced frame that comes in its order. -/
def Sys2Proof.Claim.inOrder (b : Block) (hd : PlHead) : Prop :=
  linked b hd ∧ b.pair.rxSeq < 2 ^ 32 ∧ hd.seq = (b.pair.rxSeq + 1) % 2 ^ 32
/-- A sequenced frame may leave, and the retransmit buffer has room for it. -/
def Sys2Proof.Claim.maySend (b : Block) (m : PlMsg) : Prop :=
  b.member = true ∧ b.up = true ∧ b.inReset 0x09 = false ∧ b.pair.formed = true ∧ rtxFill b + plLen m ≤ 4194304
/-- R482, R483: a sequenced frame leaves with the next SEQ and stands in the retransmit buffer. -/
def Sys2Proof.Claim.sent (m : PlMsg) (b b' : Block) : Prop :=
  let seq := (b.pair.txSeq + 1) % 2 ^ 32
  .pairLink seq b.pair.rxSeq false m ∈ b'.out ∧ b'.pair.txSeq = seq ∧ b'.pair.rtx = b.pair.rtx ++ [(seq, b.mono, m)]
/-- An unsequenced frame leaves. -/
def Sys2Proof.Claim.sentUnsequenced (m : PlMsg) (b b' : Block) : Prop :=
  b'.out = b.out ++ [.pairLink 0 b.pair.rxSeq false m] ∧ counted (pg 0x09 0x200) b b' ∧
    b'.n64 (pg 0x09 0x210) = (b.n64 (pg 0x09 0x210) + plLen m) % 2 ^ 64

/-- R471, R482, R484, R485: what a member sends of its own: HELLO every 10 ms until both have been sent and received, HEARTBEAT every
250 µs with the stamp of its start, and ACK; with no lane up it sends none, and a HELLO that finds the retransmit buffer full ends mirroring. -/
def Sys2Proof.Claim.linkSends : Prop :=
  ∀ (s : State),
    let b := s.blk
    (linkTrained b = false → exec .helloTx s = .next s ∧ (∀ lane, exec (.heartbeatTx lane) s = .next s) ∧ exec .ackTx s = .next s) ∧
    (linkTrained b = true → ∃ b', exec .ackTx s = .next (put s b') ∧ sentUnsequenced .ack b b' ∧ b'.pair = b.pair) ∧
    (∀ lane : Fin 2,
      let on := if b.pair.lanes.getLsbD lane.val = true then lane.val else 1 - lane.val
      (∀ t, b.pair.beatAt = some t → b.mono < t + 250000 * 65536 → exec (.heartbeatTx lane) s = .next s) ∧
      (linkTrained b = true → (∀ t, b.pair.beatAt = some t → t + 250000 * 65536 ≤ b.mono) → ∃ b' h,
        exec (.heartbeatTx lane) s = .next (put s b') ∧ sentUnsequenced (.heartbeat h) b b' ∧ b'.pair.beatAt = some b.mono ∧
        h.holding = b.pair.holding ∧ (h.inStep = true ↔ b.pair.role = .standby) ∧ (h.converging = true ↔ b.pair.role = .converging) ∧
        h.ready = claimReady b ∧ h.stamp = shortNat (stampNow b (pg 0x02 (0x100 + 4 * on))) ∧ h.govern = b.mode.govern ∧
        h.health = b.bist.level)) ∧
    (let done := b.pair.formed = true ∧ b.pair.helloSent = true
     let early := ∃ t, b.pair.helloAt = some t ∧ b.mono < t + 10 * 1000000 * 65536
     (done ∨ early → exec .helloTx s = .next s) ∧
     (linkTrained b = true → ¬done → ¬early → ∃ b', exec .helloTx s = .next (put s b') ∧
       b'.pair.helloSent = true ∧ b'.pair.helloAt = some b.mono ∧
       (b.pair.role = .detached → b'.pair.rejoinAt = some (rejoinTime b)) ∧
       (rtxFill b + 112 ≤ 4194304 → ∃ h, sent (.hello h) b b' ∧
         h.identity = Config.deviceId ∧ h.straps = ownStraps b ∧ h.govern = b.mode.govern ∧ h.leaseMs = b.f (pg 0x60 0x040) 22 16 ∧
         h.digest = sharedDigest b ∧ (h.rejoin = true ↔ b.pair.role = .detached ∨ b.pair.rejoin = true)) ∧
       (4194304 < rtxFill b + 112 → counted (pg 0x09 0x240) b b' ∧ b'.pair.rtx = [] ∧ b'.pair.mirroring = false)))
/-- R482, R483, R485: the receipt of any frame: CRC, acknowledgement, liveness; what comes out of its order is not delivered, and a gap
returns one NAK; a NAK makes what is not acknowledged leave again (stated while the link is up); the time-outs and lanes. -/
def Sys2Proof.Claim.linkKeeps : Prop :=
  ∀ (s : State) (hd : PlHead),
    let b := s.blk
    let next := (b.pair.rxSeq + 1) % 2 ^ 32
    (linkTrained b = false → exec (.plAckRx hd) s = .next s) ∧
    (linkTrained b = true → hd.good = false → ∃ b', exec (.plAckRx hd) s = .next (put s b') ∧ counted (pg 0x09 0x220) b b' ∧
      b'.pair = b.pair) ∧
    (linkTrained b = true → hd.good = true → ∃ b', exec (.plAckRx hd) s = .next (put s b') ∧ counted (pg 0x09 0x208) b b' ∧
      b'.pair = { b.pair with lastRx := b.mono, lanesRx := b.pair.lanes, linkUp := true, rtx := b'.pair.rtx } ∧
      (∀ l e r, b.pair.rtx = l ++ e :: r → e.1 = hd.ack → (∀ x ∈ l, x.1 ≠ hd.ack) → b'.pair.rtx = r) ∧
      ((∀ x ∈ b.pair.rtx, x.1 ≠ hd.ack) → b'.pair.rtx = b.pair.rtx) ∧
      (b.pair.linkUp = false → b'.t (pg 0x60 0x018) 2 = true ∧ b'.t (pg 0x09 0x018) 0 = true)) ∧
    (∀ bytes, linked b hd → hd.seq ≠ next →
      let gap := (hd.seq + 2 ^ 32 - next) % 2 ^ 32 < 2 ^ 31 ∧ b.pair.nakSent ≠ some next
      ∃ b', exec (.plHostmsgRx hd bytes) s = .next (put s b') ∧ b'.pair.rxSeq = b.pair.rxSeq ∧ b'.silos = b.silos ∧
        (gap → .pairLink 0 b.pair.rxSeq false (.nak next) ∈ b'.out ∧ counted (pg 0x09 0x228) b b' ∧ b'.pair.nakSent = some next) ∧
        (¬gap → b'.n64 (pg 0x09 0x228) = b.n64 (pg 0x09 0x228) ∧ b'.pair.nakSent = b.pair.nakSent)) ∧
    (linkTrained b = false → ∀ m, exec (.plNakRx hd m) s = .next s) ∧
    (∀ m : BitVec 32, linked b hd → b.pair.linkUp = true → ∀ l r, rtxDrop hd.ack b.pair.rtx = l ++ r → (∀ x ∈ l, x.1 ≠ m.toNat) →
      (∀ x, r.head? = some x → x.1 = m.toNat) → ∃ b', exec (.plNakRx hd m) s = .next (put s b') ∧
      b'.out = b.out ++ r.map (fun e => .pairLink e.1 b.pair.rxSeq true e.2.2) ∧
      b'.n64 (pg 0x09 0x218) = (b.n64 (pg 0x09 0x218) + r.length) % 2 ^ 64 ∧ b'.pair.rtx = l ++ r) ∧
    (b.pair.rtx = [] → exec .plRetxTimeout s = .next s) ∧
    (∀ e l, b.pair.rtx = e :: l → (b.member = false ∨ b.mono < e.2.1 + 1000000 * 65536 → exec .plRetxTimeout s = .next s) ∧
      (b.member = true → e.2.1 + 1000000 * 65536 ≤ b.mono → ∃ b', exec .plRetxTimeout s = .next (put s b') ∧ b'.pair.rtx = [] ∧
        b'.pair.mirroring = false ∧ (b.pair.role = .standby ∨ b.pair.role = .converging → b'.pair.role = .detached ∧
          raisedEvent 0x80B 1 0 b') ∧ (b.pair.role ≠ .standby → b.pair.role ≠ .converging → b'.pair.role = b.pair.role ∧ b'.evr = b.evr))) ∧
    (let due := b.pair.lastRx + b.f (pg 0x09 0x048) 16 0 * 1000 * 65536
     (b.pair.linkUp = false ∨ b.mono < due → exec .pairLinkTimeout s = .next s) ∧
     (b.pair.linkUp = true → due ≤ b.mono → ∃ b', exec .pairLinkTimeout s = .next (put s b') ∧ b'.pair.linkUp = false ∧
       b'.pair.beat = none ∧ counted (pg 0x09 0x238) b b' ∧ raisedEvent 0x801 b.pair.lanesRx.toNat 0 b' ∧
       b'.pair.holding = b.pair.holding ∧ (b.pair.role = .standby ∨ b.pair.role = .converging → b'.pair.role = .detached ∧
         raisedEvent 0x80B 1 0 b') ∧ (b.pair.role ≠ .standby → b.pair.role ≠ .converging → b'.pair.role = b.pair.role))) ∧
    (∀ (lane : Fin 2) lock, let en := b.t (pg 0x09 0x040) lane.val
      let now := lock = true ∧ en = true ∧ b.member = true ∧ b.linesOn = true ∧ b.inReset 0x09 = false
      (now ↔ b.pair.lanes.getLsbD lane.val = true) ∧ exec (.pairLinkLaneChange lane lock) s = .next s ∨
      ¬ (now ↔ b.pair.lanes.getLsbD lane.val = true) ∧ ∃ b', exec (.pairLinkLaneChange lane lock) s = .next (put s b') ∧
        (b'.pair.lanes.getLsbD lane.val = true ↔ now) ∧ b'.t (pg 0x09 0x018) 1 = true ∧ (¬ now → counted (pg 0x09 0x230) b b') ∧
        ∀ k < 2, k ≠ lane.val → b'.pair.lanes.getLsbD k = b.pair.lanes.getLsbD k)
/-- R471, R472, R473, R30, R481, R485, R491: HELLO forms the pair and shows conflicts; the holder answers with its mode, or the change of it
that pends, where they differ, and fixes a rejoin; HEARTBEAT shows the partner's state and the link's delay, and a lease that has run out while it
shows HOLDING is a lease-wire fault. -/
def Sys2Proof.Claim.helloAndHeartbeat : Prop :=
  ∀ (s : State) (hd : PlHead),
    let b := s.blk
    (∀ h, inOrder b hd →
      let conflict := h.straps.getLsbD 1 = (ownStraps b).getLsbD 1 ∨ h.straps.getLsbD 2 ≠ (ownStraps b).getLsbD 2
      let own := b.f (pg 0x60 0x040) 22 16
      ∃ b', exec (.plHelloRx hd h) s = .next (put s b') ∧ b'.pair.partner = some h ∧ b'.n64 (pg 0x60 0x050) = h.identity.toNat ∧
        (b'.t (pg 0x60 0x00C) 2 = true ↔ conflict ∨ h.leaseMs ≠ own ∨ b.pair.lease.wireFault = true) ∧
        (b.pair.formed = false → raisedEvent 0x800 h.identity.toNat 0 b' ∧
          (conflict → raisedEvent 0x806 (ownStraps b).toNat h.straps.toNat b') ∧
          (h.leaseMs ≠ own → raisedEvent 0x807 own h.leaseMs b')) ∧
        (b.pair.holding = true → h.rejoin = true → b'.pair.mirrorFrom = rejoinTime b) ∧
        (b.pair.formed = true → b.pair.holding = true → b.pair.helloSent = true → h.digest = sharedDigest b →
          (b.mode.pend = none → h.govern = b.mode.govern → b'.evr = b.evr ∧ b'.pair.txSeq = b.pair.txSeq ∧
            (h.rejoin = true → b'.pair.mirroring = true)) ∧
          (b.mode.pend = none → h.govern ≠ b.mode.govern → maySend b (.mode b.mode.govern (modeTime b)) →
            ∃ q, .pairLink q hd.seq false (.mode b.mode.govern (modeTime b)) ∈ b'.out) ∧
          (∀ m te, b.mode.pend = some (m, te) → maySend b (.mode m te) → ∃ q, .pairLink q hd.seq false (.mode m te) ∈ b'.out))) ∧
    (∀ h lane ago, linked b hd → ∃ b', exec (.plHeartbeatRx hd h lane ago) s = .next (put s b') ∧ b'.pair.beat = some h ∧
      b'.n (pg 0x09 0x058) = min ((stampAgo b (pg 0x02 (0x0F8 + 4 * lane.val)) ago - widen b.now h.stamp) / 65536) 0xFFFFFFFF ∧
      (b.pair.holding = false → leaseOut b = true → h.holding = true → b.pair.lease.released = false →
        b.pair.lease.wireFault = false → b'.pair.lease.wireFault = true ∧ raisedEvent 0x805 0 0 b' ∧
        b'.t (pg 0x60 0x018) 1 = true ∧ b'.t (pg 0x60 0x00C) 2 = true) ∧
      (h.holding = true → b.pair.holding = false → b.pair.acting = false → b.pair.role = .forming ∨ b.pair.role = .noRole →
        b'.pair.role = .detached))
/-- R484, R394, R167, R487, R495, R497: the frames that carry a message, and the host's mailbox. -/
def Sys2Proof.Claim.messages : Prop :=
  ∀ (s : State) (hd : PlHead),
    let b := s.blk
    let put2 := fun (q kind : Nat) (l : List (List Byte)) (b' : Block) => ∃ head : List Byte,
      (b'.silo q).q = (b.silo q).q ++ (false, head) :: l.map (fun e => (false, e)) ∧ head.length = 64 ∧
      head.take 4 = [0x08, BitVec.ofNat 8 l.length, BitVec.ofNat 8 kind, 0] ∧ (head.drop 4).take 10 = shortForm b.now
    (∀ l : List Byte, inOrder b hd → l.length = 64 → b.siloFits 59 2 = true → ∃ b',
      exec (.plHostmsgRx hd l) s = .next (put s b') ∧ put2 59 4 [l] b') ∧
    (∀ l : List Byte, inOrder b hd → l.length = 128 → b.siloFits 58 3 = true → ∃ b',
      exec (.plHealthRx hd l) s = .next (put s b') ∧ put2 58 3 [l.take 64, l.drop 64] b') ∧
    (∀ (q : Fin 64) l, inOrder b hd → b.siloFits q.val (ceilDiv l.length 64) = true → ∃ b',
      exec (.plClsMirrorRx hd q l) s = .next (put s b') ∧ (b'.silo q.val).q.length = (b.silo q.val).q.length + ceilDiv l.length 64 ∧
      (b'.silo q.val).q.take (b.silo q.val).q.length = (b.silo q.val).q) ∧
    (∀ defn t, inOrder b hd →
      (capRuns b = false ∨ (∀ d < 32, (capCfg b d).en = false) → ∃ b', exec (.plTriggerRx hd defn t) s = .next (put s b') ∧
        b'.cap = b.cap ∧ b'.pair.rxSeq = hd.seq) ∧
      (∀ d < 32, ∀ i < 4, ∀ k, capRuns b = true → awaits b d t k → alone b d →
        (∀ j < 4, ∃ q, (capCfg b d).slots[j]? = some q ∧ (q.type = 8 ↔ j = i)) → ∃ b',
        exec (.plTriggerRx hd defn t) s = .next (put s b') ∧ holdsTrigger b b' d t i 8 k)) ∧
    (∀ t lastSeq, inOrder b hd → ∃ b', exec (.plReleaseRx hd t lastSeq) s = .next (put s b') ∧ b'.pair.lease.released = true ∧
      b'.pair.lease.relAt = b.mono - (b.now - t) ∧ (∀ h, b'.pair.beat = some h → h.holding = false)) ∧
    (∀ state data, inOrder b hd →
      let grant := (leAt data 0 1).testBit 1
      let asks := state = 5 ∧ grant = false
      let gives := asks ∧ (if b.upd.phase = 5 then b.senior = false else b.upd.phase ≠ 6 ∧ b.upd.phase ≠ 7)
      ∃ b' st, exec (.plUpdStateRx hd state data) s = .next (put s b') ∧
        b'.upd.partner = some (st, grant, (leAt data 0 1).testBit 0, leAt data 1 4, slice data 5 32) ∧
        (gives → st = 6) ∧ (¬gives → st = state.toNat) ∧
        (b.upd.phase = 5 → grant = true → b'.upd.phase = 6) ∧
        (b.upd.phase = 5 → grant = false → ¬(asks ∧ ¬gives) → b'.upd.phase = 4) ∧
        (b.upd.phase ≠ 5 ∨ (asks ∧ ¬gives) → b'.upd.phase = b.upd.phase)) ∧
    (∀ ag v, accepts b ag 0x60 0x400 →
      let m : PlMsg := .hostmsg (bytesOfWords (v :: (List.range 15).map fun i => mget 0 b.pair.mbox (i + 1)))
      (b.pair.linkUp = false → ∃ b', exec (.pairMboxSend ag v) s = .next (put s b') ∧ onlyError 0x60 0x23 b b' ∧ b'.pair = b.pair) ∧
      (b.pair.linkUp = true → ∃ b', exec (.pairMboxSend ag v) s = .next (put s b') ∧ b'.pair.mbox = [] ∧ (maySend b m → sent m b b')))

/-- R471–R473, R482–R485, R495, R497: the pair link's frames, its reliable delivery, HELLO, HEARTBEAT and messages. -/
def Obligations.PairLinkCarriesFramesInOrder : Prop := linkSends ∧ linkKeeps ∧ helloAndHeartbeat ∧ messages

/-- R475, R478, R263, R30, R473, R481: a linked standby takes the mirror in the Gleaner's order: behind a mirrored record that waits every
message waits, and with nothing before it watermark, commits, modes and replays act at once; a lag above LAG_MAX_MS detaches it. A member that is
no linked standby takes no record, unless its T_r has come; one that does not hold the role takes commits, modes and settings. -/
def Sys2Proof.Claim.mirror : Prop :=
  ∀ (s : State) (hd : PlHead), inOrder s.blk hd →
    let b := s.blk
    let lin := b.pair.role = .standby ∨ b.pair.role = .converging
    let first := b.pair.inq = []
    let behind := ∃ q l rest, b.pair.inq = (q, .mirror l) :: rest
    (∀ l, lin → first ∨ behind →
      let n := ceilDiv l.length 64 * 64
      ∃ b', exec (.plMirrorRx hd (.mirror l)) s = .next (put s b') ∧ b'.pair.inq = b.pair.inq ++ [(hd.seq, .mirror l)] ∧
        b'.glean.head = (b.glean.head + n) % jrnSize ∧
        (b.glean.head + n ≤ jrnSize → readBytes b'.ddr b.glean.head l.length = l) ∧ b'.glean.stby = b.glean.stby) ∧
    (∀ l, ¬ lin →
      let comes := ∃ r, b.pair.rejoinAt = some r ∧ b.pair.role = .detached ∧ b.running = true ∧ r ≤ widen b.now (leAt l 0 10)
      (¬comes → ∃ b', exec (.plMirrorRx hd (.mirror l)) s = .next (put s b') ∧
        b'.pair.inq = b.pair.inq ∧ b'.glean = b.glean ∧ b'.ddr = b.ddr) ∧
      (comes → ∃ b', exec (.plMirrorRx hd (.mirror l)) s = .next (put s b') ∧ b'.pair.role = .converging ∧
        b'.pair.inq = [(hd.seq, .mirror l)] ∧ b'.pair.rejoinAt = none ∧ raisedEvent 0x80C 0 0 b')) ∧
    (∀ sig g v ok, let m := PlMsg.wpath sig g v ok
      (lin → first → ∃ b', exec (.plMirrorRx hd m) s = .next (put s b') ∧
        b'.pair.wq = b.pair.wq ++ [(sig, g, v, ok)] ∧ b'.pair.inq = []) ∧
      (lin → behind → ∃ b', exec (.plMirrorRx hd m) s = .next (put s b') ∧ b'.pair.wq = b.pair.wq ∧
        b'.pair.inq = b.pair.inq ++ [(hd.seq, m)]) ∧
      (¬lin → ∃ b', exec (.plMirrorRx hd m) s = .next (put s b') ∧ b'.pair.wq = b.pair.wq ∧ b'.pair.inq = b.pair.inq)) ∧
    (∀ t, lin → first → ∃ b', exec (.plWmarkRx hd t) s = .next (put s b') ∧ b'.glean.stby = some t ∧
      b'.pair.markRx = t ∧ b'.pair.role = b.pair.role ∧ b'.mark = t) ∧
    (∀ t, lin → behind →
      let lag := t - b.mark
      let behindBy := b.f (pg 0x60 0x044) 26 16 * 1000000 * 65536 < lag
      (behindBy → ∃ b', exec (.plWmarkRx hd t) s = .next (put s b') ∧ b'.pair.role = .detached ∧ raisedEvent 0x80B 2 0 b') ∧
      (¬behindBy → ∃ b', exec (.plWmarkRx hd t) s = .next (put s b') ∧ b'.pair.role = b.pair.role ∧ b'.pair.markRx = t ∧
        b'.pair.inq = b.pair.inq ++ [(hd.seq, .wmark t)] ∧
        (lag ≤ leaseP b → b'.evr = b.evr) ∧
        (leaseP b < lag → quiet b.pair.lagOverAt b = true → raisedEvent 0x80F (lag / (1000000 * 65536)) 0 b'))) ∧
    (∀ (a : BitVec 32) t ws, 0x100000 ≤ a.toNat ∨ (0x19000 ≤ a.toNat ∧ a.toNat < 0x1A000 ∧ a.toNat + 4 * ws.length ≤ 0x1A000) →
      let stored := fun (b' : Block) => ∀ i < ws.length, b'.r (a.toNat + 4 * i) = ws.getD i 0
      let granary := a.toNat < 0x200000 ∨ 0x2000000 ≤ a.toNat
      let waits := 0x400000 ≤ a.toNat ∧ a.toNat < 0x2000000
      let taken := ∃ b', exec (.plCommitRx hd a t ws) s = .next (put s b') ∧ stored b' ∧ (granary → b'.glean.commitAt = some t) ∧
        (waits → b'.later = b.later ++ [(t, a.toNat, wordsNow b a.toNat ws.length)])
      let left := fun (P : Block → Prop) => ∃ b', exec (.plCommitRx hd a t ws) s = .next (put s b') ∧ P b' ∧
        ∀ i < ws.length, b'.r (a.toNat + 4 * i) = b.r (a.toNat + 4 * i)
      (lin → first → taken) ∧ (lin → behind → left fun b' => b'.pair.inq = b.pair.inq ++ [(hd.seq, .commit a.toNat t ws)]) ∧
      (¬lin → b.pair.holding = false → b.running = true → taken) ∧
      (¬lin → b.pair.holding = true ∨ b.running = false → left fun b' => b'.later = b.later ∧ b'.glean = b.glean)) ∧
    (∀ g t, (lin → behind → ∃ b', exec (.plModeRx hd g t) s = .next (put s b') ∧ b'.mode = b.mode ∧
        b'.pair.inq = b.pair.inq ++ [(hd.seq, .mode g t)]) ∧
      ((lin ∧ first) ∨ (¬lin ∧ b.pair.holding = false) → ∃ b', exec (.plModeRx hd g t) s = .next (put s b') ∧
        b'.mode.pend = some (g, t) ∧ b'.mode.govern = b.mode.govern) ∧
      (b.pair.holding = true → ¬ lin → ∃ b', exec (.plModeRx hd g t) s = .next (put s b') ∧ b'.mode = b.mode ∧ b'.evr = b.evr) ∧
      (b.pair.holding = false → (∃ h, b.pair.partner = some h ∧ h.govern = g) → b.mode.govern ≠ g → ∃ b',
        exec (.plModeRx hd g t) s = .next (put s b') ∧ raisedEvent 0x80D (b01 g) 0 b')) ∧
    (∀ (r : Fin 4) (cause : Byte) (idx : BitVec 32), let no := replayRefusal b r.val idx.toNat (cause = 0)
      let open_ := cause ≠ 0 ∧ ∃ x, (b.rate r.val).bale idx.toNat = some x ∧ x.closed = false
      (¬ lin → ∃ b', exec (.plReplayRx hd r cause idx) s = .next (put s b') ∧ b'.gran = b.gran ∧ b'.pair.rxSeq = hd.seq) ∧
      (lin → behind → ∃ b', exec (.plReplayRx hd r cause idx) s = .next (put s b') ∧ b'.gran = b.gran ∧
        b'.pair.inq = b.pair.inq ++ [(hd.seq, .replay r.val cause.toNat idx.toNat)]) ∧
      (lin → first → open_ → ∃ b', exec (.plReplayRx hd r cause idx) s = .next (put s b') ∧
        b'.gran.replay = b.gran.replay ∧ (r.val, idx.toNat, cause.toNat) ∈ b'.gran.auto) ∧
      (lin → first → ¬open_ → no = 0 → ∃ b' q, exec (.plReplayRx hd r cause idx) s = .next (put s b') ∧
        b'.gran.replay = some q ∧ q.rate = r.val ∧ q.cause = cause.toNat ∧ q.bale.idx = idx.toNat ∧ q.bale.arrived = []) ∧
      (lin → first → ¬open_ → no ≠ 0 → ∃ b', exec (.plReplayRx hd r cause idx) s = .next (put s b') ∧ b'.gran = b.gran ∧
        counted (pg 0x19 0x518) b b' ∧ raisedEvent 0x314 (r.val * 256 + no) idx.toNat b')) ∧
    (∀ (ofs : BitVec 32) (l : List Byte),
      (b.pair.holding = true → ∃ b', exec (.plSettingsRx hd ofs l) s = .next (put s b') ∧
        b'.pair.settingsRx = b.pair.settingsRx ∧ b'.pair.rxSeq = hd.seq) ∧
      (b.pair.holding = false → l.length = 8192 → ∃ b', exec (.plSettingsRx hd ofs l) s = .next (put s b') ∧
        b'.pair.settingsRx = (if ofs = 0 then [] else b.pair.settingsRx) ++ [(ofs.toNat, l)]) ∧
      (b.pair.holding = false → l.length ≠ 8192 → ∃ b', exec (.plSettingsRx hd ofs l) s = .next (put s b') ∧
        b'.pair.settingsRx = [] ∧ raisedEvent 0x80E 0 0 b'))
/-- R481, R228: at T_r a detached standby opens a new journal epoch and takes the mirror from then on. -/
def Sys2Proof.Claim.rejoins : Prop :=
  ∀ (s : State), let b := s.blk
    (b.pair.rejoinAt = none ∨ b.pair.role ≠ .detached ∨ b.pair.linkUp = false ∨ b.running = false → exec .rejoinEpoch s = .next s) ∧
    (∀ t, b.pair.rejoinAt = some t → b.pair.role = .detached → b.pair.linkUp = true → b.running = true →
      (b.now < t → exec .rejoinEpoch s = .next s) ∧
      (t ≤ b.now → ∃ b', exec .rejoinEpoch s = .next (put s b') ∧ b'.pair.role = .converging ∧
        b'.glean.epoch = (b.glean.epoch + 1) % 256 ∧ b'.pair.compareFrom = t ∧ b'.pair.rejoinAt = none ∧ b'.pair.inq = [] ∧
        raisedEvent 0x80C 0 0 b'))
/-- R479–R481: the active member's digests are compared with the standby's own, once both exist; a mismatch of bales starts arbitration, one of
commits makes the standby converge; matching commits bring it in step; 4,096 digests that wait detach it. An arbitration's verdict is stated where
it is the only one. -/
def Sys2Proof.Claim.digests : Prop :=
  ∀ (s : State) (hd : PlHead), inOrder s.blk hd →
    let b := s.blk
    let lin := b.pair.role = .standby ∨ b.pair.role = .converging
    (∀ (r : Fin 4) fl (idx : BitVec 32) (d : DWord),
      let c := Instr.plBaleDigRx hd r fl idx d
      (comparesBales b (idxTime b r.val idx.toNat) = false → ∃ b', exec c s = .next (put s b') ∧
        b'.n64 (pg 0x60 0x200) = b.n64 (pg 0x60 0x200) ∧ b'.pair.theirBale = b.pair.theirBale) ∧
      (comparesBales b (idxTime b r.val idx.toNat) = true →
        ((∀ e ∈ b.pair.ownBale, ¬ (e.1 = r.val ∧ e.2.1 = idx.toNat)) →
          (b.digestsFull = false → ∃ b', exec c s = .next (put s b') ∧
            b'.pair.theirBale = b.pair.theirBale ++ [(r.val, idx.toNat, d.toNat)] ∧ b'.pair.role = b.pair.role) ∧
          (b.digestsFull = true → ∃ b', exec c s = .next (put s b') ∧ b'.pair.role = .detached ∧ raisedEvent 0x80B 2 0 b')) ∧
        (∀ own l rest, b.pair.ownBale = l ++ (r.val, idx.toNat, own) :: rest → (∀ e ∈ l, ¬(e.1 = r.val ∧ e.2.1 = idx.toNat)) →
          (own = d.toNat → ∃ b', exec c s = .next (put s b') ∧ counted (pg 0x60 0x200) b b' ∧
            (b'.pair.ownBale = b.pair.ownBale.filter fun e => e != (r.val, idx.toNat, own)) ∧
            b'.n64 (pg 0x60 0x208) = b.n64 (pg 0x60 0x208) ∧ (orderedOn b = [] → b'.pair.role = .standby) ∧
            (orderedOn b ≠ [] → b'.pair.role = b.pair.role)) ∧
          (own ≠ d.toNat → ∃ b', exec c s = .next (put s b') ∧ counted (pg 0x60 0x200) b b' ∧ counted (pg 0x60 0x208) b b' ∧
            raisedEvent 0x808 r.val idx.toNat b' ∧ b'.t (pg 0x60 0x018) 3 = true)))) ∧
    (∀ task dp fl (seq : BitVec 32) t (d : DWord),
      let c := Instr.plCommitDigRx hd task dp fl seq t d
      (¬ lin → ∃ b', exec c s = .next (put s b') ∧ b'.pair.theirCommit = b.pair.theirCommit ∧
        b'.n64 (pg 0x60 0x210) = b.n64 (pg 0x60 0x210)) ∧
      (∀ u, b.upd.noCompare = some u → u ≤ t → ∃ b', exec c s = .next (put s b') ∧ b'.pair.theirCommit = b.pair.theirCommit ∧
        b'.n64 (pg 0x60 0x210) = b.n64 (pg 0x60 0x210)) ∧
      (lin → (∀ u, b.upd.noCompare = some u → t < u) →
        let mine := fun (e : Nat × Nat × Nat × Nat) => e.1 = task ∧ e.2.1 = seq.toNat ∧ e.2.2.1 = t
        ((∀ e ∈ b.pair.ownCommit, ¬mine e) → b.digestsFull = false → ∃ b', exec c s = .next (put s b') ∧
          b'.pair.theirCommit = b.pair.theirCommit ++ [(task, seq.toNat, t, d.toNat)]) ∧
        ((∀ e ∈ b.pair.ownCommit, ¬mine e) → b.digestsFull = true → ∃ b', exec c s = .next (put s b') ∧ b'.pair.role = .detached ∧
          raisedEvent 0x80B 2 0 b') ∧
        (∀ own l rest, b.pair.ownCommit = l ++ (task, seq.toNat, t, own) :: rest → (∀ e ∈ l, ¬mine e) →
          (own ≠ d.toNat → ∃ b', exec c s = .next (put s b') ∧ counted (pg 0x60 0x210) b b' ∧ counted (pg 0x60 0x218) b b' ∧
            b'.pair.role = .converging ∧ b'.pair.matches_ = 0 ∧ b'.t (pg 0x60 0x018) 3 = true ∧
            (b.pair.role = .standby → raisedEvent 0x80A task seq.toNat b') ∧ (b.pair.role = .converging → b'.evr = b.evr)) ∧
          (own = d.toNat → ∃ b', exec c s = .next (put s b') ∧ counted (pg 0x60 0x210) b b' ∧
            (b'.pair.ownCommit = b.pair.ownCommit.filter fun e => e != (task, seq.toNat, t, own)) ∧
            (b.pair.role = .standby → b'.pair.role = .standby ∧ b'.evr = b.evr) ∧
            (b.pair.role = .converging → b.pair.matches_ + 1 < b.f (pg 0x60 0x044) 7 0 → b'.pair.role = .converging ∧
              b'.pair.matches_ = b.pair.matches_ + 1) ∧
            (b.pair.role = .converging → b.f (pg 0x60 0x044) 7 0 ≤ b.pair.matches_ + 1 → b'.pair.role = .standby ∧
              raisedEvent 0x80C 1 0 b'))))) ∧
    (∀ (r : Fin 4) (v : Byte) (idx : BitVec 32) (d : DWord),
      let c := Instr.plArbRx hd r v idx d
      let i := idx.toNat
      let open_ := ∃ x, (b.rate r.val).bale i = some x ∧ x.closed = false
      (b.pair.holding = true → v = 0 → ¬open_ → replayRefusal b r.val i false = 0 → ∃ b' q, exec c s = .next (put s b') ∧
        b'.gran.replay = some q ∧ q.rate = r.val ∧ q.cause = 3 ∧ q.bale.idx = i) ∧
      (b.pair.holding = true → v = 0 → open_ → ∃ b', exec c s = .next (put s b') ∧ b'.gran.replay = b.gran.replay ∧
        (r.val, i, 3) ∈ b'.gran.auto) ∧
      (b.pair.holding = true → v = 0 → replayRefusal b r.val i false ≠ 0 → maySend b (.arb r.val 4 i 0) → ∃ b' q,
        exec c s = .next (put s b') ∧ .pairLink q hd.seq false (.arb r.val 4 i 0) ∈ b'.out) ∧
      (b.pair.holding = true → v ≠ 0 → ∃ b', exec c s = .next (put s b') ∧ raisedEvent 0x809 (r.val * 256 + v.toNat) i b' ∧
        (v = 1 ∨ v = 3 → counted (pg 0x60 0x220) b b') ∧ (v = 2 ∨ v = 3 → counted (pg 0x60 0x228) b b') ∧
        (v = 4 → counted (pg 0x60 0x230) b b')) ∧
      (∀ x rs, b.pair.holding = false → lin → b.pair.arbs = [x] → x.rate = r.val → x.idx = i → x.refused = false → x.rs = some rs →
        (v ≠ 4 → let verdict := if d.toNat ≠ rs then 4 else if rs = x.a ∧ rs ≠ x.s then 1 else if rs = x.s ∧ rs ≠ x.a then 2 else 3
          ∃ b', exec c s = .next (put s b') ∧ raisedEvent 0x809 (r.val * 256 + verdict) i b' ∧ b'.pair.arbs = [] ∧
            (verdict = 4 → b'.pair.role = .detached)) ∧
        (v = 4 → ∃ b', exec c s = .next (put s b') ∧ raisedEvent 0x809 (r.val * 256 + 4) i b' ∧ b'.pair.role = .detached)) ∧
      (b.pair.holding = false → ¬ lin → ∃ b', exec c s = .next (put s b') ∧ b'.pair.rxSeq = hd.seq ∧ b'.gran = b.gran ∧
        b'.evr = b.evr))

/-- R475, R478–R481: a standby follows the mirror, compares digests and converges. -/
def Obligations.StandbyFollowsTheMirrorAndComparesDigests : Prop := mirror ∧ rejoins ∧ digests

/-- R487: what a release leaves: no role, the record, the outputs held. -/
def Sys2Proof.Claim.released (cause : Nat) (b b' : Block) : Prop :=
  b'.pair.holding = false ∧ b'.pair.role = .noRole ∧ b'.pair.acting = true ∧ b'.pair.lease.pulseAt = none ∧ b'.gov.hold = true ∧
    counted (pg 0x60 0x240) b b' ∧ raisedEvent 0x803 cause 0 b'
/-- R493: what a takeover leaves: the role, a HOLD pulse, T_take, the record. -/
def Sys2Proof.Claim.tookRole (cause : Nat) (b b' : Block) : Prop :=
  b'.pair.holding = true ∧ b'.pair.role = .active ∧ b'.pair.acting = false ∧ b'.pair.lease.claimAt = none ∧
    b'.pair.lease.pulseAt = some b.mono ∧ .lease 1 ∈ b'.out ∧ counted (pg 0x60 0x238) b b' ∧
    raisedEvent 0x802 cause b.pair.rxMirror b' ∧ b'.gov.hold = false ∧ b'.n (pg 0x60 0x060) = secOf b.now % 2 ^ 32 ∧
    b'.n (pg 0x60 0x064) = secOf b.now / 2 ^ 32 % 2 ^ 32 ∧ b'.n (pg 0x60 0x068) = nsOf b.now % 2 ^ 32
/-- The member may claim but for the time (R488, R491, R492). -/
def Sys2Proof.Claim.claims (b : Block) : Prop :=
  b.member = true ∧ b.pair.holding = false ∧ claimReady b = true ∧ partnerHolds b = false ∧ b.witness = false
/-- R486, R487, R490, R63: pulses on the lease line, by their width: a HOLD pulse of the partner makes one of two holders release, a member
without a role its standby, and one that has just released yield, where the part is up; CLAIM is answered or contended; renewal; the partner's
lease runs out, and with none holding the side-band is told. -/
def Sys2Proof.Claim.leaseLine : Prop :=
  ∀ (s : State),
    let b := s.blk
    let l := b.pair.lease
    let P := leaseMs b * 1000000 * 65536
    let G := 2 * 1000000 * 65536
    let out := l.released = true ∨ l.holdAt.getD l.startAt + P + G ≤ b.mono
    (∀ w, b.member = false ∨ b.aon = false ∨ w < 200 → exec (.leasePulseRx w) s = .next s) ∧
    (∀ w, b.member = true → b.aon = true → 200 ≤ w →
      (400 ≤ w → w ≤ 2000 → ∃ b', exec (.leasePulseRx w) s = .next (put s b') ∧ b'.pair.lease.holdAt = some b.mono ∧
        b'.pair.lease.lastClass = 1 ∧ b'.pair.lease.seen = true ∧ b'.pair.lease.released = false ∧ b'.pair.lease.expired = false ∧
        b'.pair.lease.claimAt = none ∧ b'.pair.lease.backoff = none ∧
        (b.pair.holding = true → l.holdFrom = none → 0 < P → b'.pair.holding = true) ∧
        (∀ t, b.pair.holding = true → l.holdFrom = some t → t + P ≤ b.mono → (∃ h, l.holdAt = some h ∧ b.mono ≤ h + P) →
          (bothYield b = true → released 5 b b') ∧ (bothYield b = false → b'.pair.holding = true)) ∧
        (b.pair.holding = false → b.up = false → b'.pair.role = b.pair.role ∧ b'.pair.acting = b.pair.acting) ∧
        (b.pair.holding = false → b.up = true → b.pair.acting = false →
          (b.pair.role = .forming ∨ b.pair.role = .noRole → b'.pair.role = .detached) ∧
          (b.pair.role ≠ .forming → b.pair.role ≠ .noRole → b'.pair.role = b.pair.role)) ∧
        (b.pair.holding = false → b.up = true → b.pair.acting = true → b'.pair.acting = false ∧ b'.gov.hold = false ∧
          (b.pair.linkUp = true → b.pair.formed = true → b'.pair.role = .standby) ∧
          (b.pair.linkUp = false ∨ b.pair.formed = false → b'.pair.role = .detached))) ∧
      (3500 ≤ w → w ≤ 7000 →
        (b.pair.holding = true → ∃ b', exec (.leasePulseRx w) s = .next (put s b') ∧ b'.out = b.out ++ [.lease 1] ∧
          b'.pair = { b.pair with lease := { l with lastClass := 2 } }) ∧
        (b.pair.holding = false → l.claimAt = none → exec (.leasePulseRx w) s =
          .next (put s { b with pair := { b.pair with lease := { l with lastClass := 2 } } })) ∧
        (∀ t, b.pair.holding = false → l.claimAt = some t → ∃ b', exec (.leasePulseRx w) s = .next (put s b') ∧
          b'.pair.lease.claimAt = none ∧ b'.pair.lease.contend = l.contend + 1 ∧ counted (pg 0x60 0x248) b b' ∧
          raisedEvent 0x804 l.contend 0 b' ∧ b'.pair.lease.backoff = some (b.mono +
            (1 + Config.deviceId.toNat / 2 ^ (4 * (l.contend % 16)) % 16) * P / 4 + (if b.senior = true then 0 else 2 * (P + G))))) ∧
      (w < 400 ∨ 2000 < w ∧ w < 3500 ∨ 7000 < w → ∃ b', exec (.leasePulseRx w) s = .next (put s b') ∧
        counted (pg 0x60 0x250) b b' ∧ b'.pair = { b.pair with lease := { l with lastClass := 3 } })) ∧
    (∀ high, (b.pair.holding = false ∨ l.pulseAt = none → exec (.leaseRenewal high) s = .next s) ∧
      ∀ t, b.pair.holding = true → l.pulseAt = some t →
        (b.mono < t + P / 4 → exec (.leaseRenewal high) s = .next s) ∧
        (t + P / 4 ≤ b.mono → claimReady b = true → high = true → b.mono ≤ t + P / 4 + 1000 * 65536 →
          exec (.leaseRenewal high) s = .next (put s { b with
            out := b.out ++ [.lease 1], pair := { b.pair with lease := { l with pulseAt := some b.mono } } })) ∧
        (t + P / 4 ≤ b.mono → claimReady b = false ∨ high = false ∨ t + P / 4 + 1000 * 65536 < b.mono → ∃ b',
          exec (.leaseRenewal high) s = .next (put s b') ∧ released 0 b b')) ∧
    (b.member = false ∨ b.aon = false → exec .leaseExpire s = .next s) ∧
    (b.member = true → b.aon = true →
      (out → l.expired = false → ∃ b', exec .leaseExpire s = .next (put s b') ∧ b'.pair.lease.expired = true ∧
        (b.pair.holding = false → partnerHolds b = true → l.released = false → l.wireFault = false →
          b'.pair.lease.wireFault = true ∧ raisedEvent 0x805 0 0 b' ∧ b'.t (pg 0x60 0x018) 1 = true) ∧
        (partnerHolds b = false → b'.evr = b.evr ∧ b'.pair.lease.wireFault = l.wireFault)) ∧
      (let none_ := b.pair.holding = false ∧ max (l.holdAt.getD l.startAt) (l.ownAt.getD 0) + P + G ≤ b.mono
       (l.lost = false → none_ → ∃ b', exec .leaseExpire s = .next (put s b') ∧ b'.pair.lease.lost = true ∧ b'.t (pg 0x81 0x040) 4 = true) ∧
       (l.lost = true ∨ ¬none_ → l.expired = true ∨ ¬out → exec .leaseExpire s = .next s)))
/-- R488, R489, R492, R493: a claim, its guard, its back-off and the junior's delay; an edge of the witness, the guard after it, and the
witness found faulty. What a takeover leaves beside the role is stated where no mirrored record and no arbitration waits. -/
def Sys2Proof.Claim.claiming : Prop :=
  ∀ (s : State),
    let b := s.blk
    let l := b.pair.lease
    let P := leaseMs b * 1000000 * 65536
    let G := 2 * 1000000 * 65536
    let delay := if b.senior = true ∨ l.seen = true ∨ l.delayDone = true then 0 else P
    let from_ := (if l.released = true then l.relAt else l.holdAt.getD l.startAt + P + G) + delay
    let out := l.released = true ∨ l.holdAt.getD l.startAt + P + G ≤ b.mono
    (claimFrom b = from_ ∧ (leaseOut b = true ↔ out)) ∧
    (claims b → l.claimAt = none → l.backoff = none → from_ ≤ b.mono + G → exec .leaseClaim s = .next (put s { b with
      out := b.out ++ [.lease 2], pair := { b.pair with lease := { l with contend := 0, claimAt := some b.mono, backoff := none } } })) ∧
    (¬ claims b ∨ l.claimAt ≠ none ∨ l.backoff ≠ none ∨ b.mono + G < from_ → exec .leaseClaim s = .next s) ∧
    (∀ t, l.claimAt = some t →
      (b.mono < t + G → exec .claimGuardEnd s = .next s) ∧
      (t + G ≤ b.mono → claims b → out → from_ ≤ b.mono → b.pair.inq = [] → b.pair.arbs = [] → ∃ b',
        exec .claimGuardEnd s = .next (put s b') ∧ tookRole (if l.released = true then 1 else 0) b b') ∧
      (t + G ≤ b.mono → claims b → out → from_ ≤ b.mono → ∃ b', exec .claimGuardEnd s = .next (put s b') ∧
        b'.pair.holding = true ∧ b'.pair.role = .active) ∧
      (t + G ≤ b.mono → ¬ claims b ∨ ¬ out ∨ b.mono < from_ → exec .claimGuardEnd s =
        .next (put s { b with pair := { b.pair with lease := { l with claimAt := none } } }))) ∧
    (l.claimAt = none → exec .claimGuardEnd s = .next s) ∧
    (∀ t, l.backoff = some t →
      (b.mono < t → exec .claimBackoffExpire s = .next s) ∧
      (t ≤ b.mono → claims b → exec .claimBackoffExpire s = .next (put s { b with
        out := b.out ++ [.lease 2], pair := { b.pair with lease := { l with claimAt := some b.mono, backoff := none } } })) ∧
      (t ≤ b.mono → ¬ claims b → exec .claimBackoffExpire s =
        .next (put s { b with pair := { b.pair with lease := { l with backoff := none } } }))) ∧
    (l.backoff = none → exec .claimBackoffExpire s = .next s) ∧
    (b.member = true → b.pair.holding = false → b.senior = false → l.seen = false → from_ ≤ b.mono →
      exec .claimDelayExpire s = .next (put s { b with pair := { b.pair with lease := { l with delayDone := true } } })) ∧
    (b.member = false ∨ b.pair.holding = true ∨ b.senior = true ∨ l.seen = true ∨ b.mono < from_ → exec .claimDelayExpire s = .next s) ∧
    (∀ high, let pins := { b.balls with witN := high }
      (b.member = false ∨ b.aon = false → exec (.witnessEdge high) s = .next (put s { b with balls := pins })) ∧
      (b.member = true → b.aon = true →
        let strapped := (ownStraps b).getLsbD 2 = true ∧ ∀ h, b.pair.partner = some h → h.straps.getLsbD 2 = true
        (high = true → strapped → b.pair.holding = true → ∃ b', exec (.witnessEdge high) s = .next (put s b') ∧ b'.balls.witN = true ∧
          released 4 b b') ∧
        (high = true → ¬strapped ∨ b.pair.holding = false → exec (.witnessEdge high) s = .next (put s { b with
          balls := pins, pair := { b.pair with lease := { l with witFault := false, witAt := none, witHeld := false } } })) ∧
        (high = false → b.witness = true → claimReady b = true → b.pair.holding = false →
          exec (.witnessEdge high) s = .next (put s { b with
            balls := pins, pair := { b.pair with lease := { l with witAt := some b.mono, witHeld := false } } })) ∧
        (high = false → b.witness = false ∨ claimReady b = false ∨ b.pair.holding = true →
          exec (.witnessEdge high) s = .next (put s { b with balls := pins })))) ∧
    (∀ t, l.witAt = some t →
      let may := b.witness = true ∧ b.balls.witN = false ∧ claimReady b = true ∧ b.pair.holding = false
      (b.mono < t + G → exec .witnessGrantGuardEnd s = .next s) ∧
      (t + G ≤ b.mono → may → b.pair.inq = [] → b.pair.arbs = [] → ∃ b',
        exec .witnessGrantGuardEnd s = .next (put s b') ∧ tookRole 2 b b') ∧
      (t + G ≤ b.mono → may → ∃ b', exec .witnessGrantGuardEnd s = .next (put s b') ∧ b'.pair.holding = true ∧ b'.pair.role = .active) ∧
      (t + G ≤ b.mono → ¬may → exec .witnessGrantGuardEnd s =
        .next (put s { b with pair := { b.pair with lease := { l with witAt := none } } }))) ∧
    (l.witAt = none → exec .witnessGrantGuardEnd s = .next s) ∧
    (b.member = true → b.aon = true → b.witness = true → b.balls.witN = false → exec .witnessFaultTimeout s =
      .next (put s { b with pair := { b.pair with lease := { l with witFault := true, witAt := none } } })) ∧
    (b.member = false ∨ b.aon = false ∨ b.witness = false ∨ b.balls.witN = true → exec .witnessFaultTimeout s = .next s)
/-- R487, R481, R499: the requests of PAIR_REQ, RELEASE and REJOIN, alone and together. -/
def Sys2Proof.Claim.requests : Prop :=
  ∀ (s : State) (ag : Agent) (v : Word), accepts s.blk ag 0x60 0x080 →
    let b := s.blk
    let ready := ∃ h, b.pair.beat = some h ∧ h.inStep = true ∧ h.ready = true
    (v.getLsbD 1 = false →
      (b.pair.holding = false → ∃ b', exec (.pairReqRelease ag v) s = .next (put s b') ∧ onlyError 0x60 0x20 b b' ∧ b'.pair = b.pair) ∧
      (b.pair.holding = true → v.getLsbD 2 = false → ¬ ready → ∃ b', exec (.pairReqRelease ag v) s = .next (put s b') ∧
        onlyError 0x60 0x21 b b' ∧ b'.pair = b.pair) ∧
      (b.pair.holding = true → v.getLsbD 2 = true ∨ ready → ∃ b', exec (.pairReqRelease ag v) s = .next (put s b') ∧
        released 1 b b')) ∧
    (v.getLsbD 1 = true →
      (b.pair.holding = true → v.getLsbD 2 = true ∨ ready → ∃ b', exec (.pairReqRelease ag v) s = .next (put s b') ∧ released 1 b b') ∧
      (b.pair.holding = false ∨ (v.getLsbD 2 = false ∧ ¬ ready) → b.pair.role ≠ .detached ∨ b.pair.linkUp = false → ∃ b',
        exec (.pairReqRelease ag v) s = .next (put s b') ∧ b'.pair = b.pair ∧ regsKeptBut [pg 0x60 0x01C, pg 0x60 0x018] b b')) ∧
    (v.getLsbD 0 = true → exec (.pairReqRejoin ag v) s = exec (.pairReqRelease ag (putBit v 1 true)) s) ∧
    (v.getLsbD 0 = false →
      (b.pair.role ≠ .detached ∨ b.pair.linkUp = false → ∃ b', exec (.pairReqRejoin ag v) s = .next (put s b') ∧
        onlyError 0x60 0x22 b b' ∧ b'.pair = b.pair) ∧
      (b.pair.role = .detached → b.pair.linkUp = true → b.pair.formed = false → exec (.pairReqRejoin ag v) s = .next s) ∧
      (b.pair.role = .detached → b.pair.linkUp = true → b.pair.formed = true → ∃ b', exec (.pairReqRejoin ag v) s = .next (put s b') ∧
        b'.pair.helloSent = true ∧ b'.pair.rejoinAt = some (rejoinTime b) ∧
        (b.member = true → b.up = true → b.inReset 0x09 = false → rtxFill b + 112 ≤ 4194304 → ∃ h,
          sent (.hello h) b b' ∧ h.rejoin = true)))

/-- R486–R493, R497, R499: the lease line, claims, the witness, takeover and release. -/
def Obligations.LeaseLineDecidesTheRole : Prop := leaseLine ∧ claiming ∧ requests

/-- R501: a write to PL_CTL that would disable both lanes while PAIR_CTL.EN is 1 records code 0x20 and has no effect; any other
admitted write is stored. -/
def Obligations.PairLinkKeepsALaneWhileThePairIsEnabled : Prop :=
  ∀ (s : State) (ag : Agent) (v : DWord), acceptsL s.blk ag 0x09 0x040 →
    let both := v.getLsbD 0 = false ∧ v.getLsbD 1 = false
    let en := s.blk.t (pg 0x60 0x040) 0
    (both → en = true → ∃ b', exec (.regWrite ag (BitVec.ofNat 24 (pg 0x09 0x040)) .word v) s = .next (put s b') ∧
      onlyError 0x09 0x20 s.blk b' ∧ { b' with regs := s.blk.regs, out := s.blk.out, msixPend := s.blk.msixPend } = s.blk) ∧
    (¬ both ∨ en = false → ∃ b', exec (.regWrite ag (BitVec.ofNat 24 (pg 0x09 0x040)) .word v) s = .next (put s b') ∧
      b'.r (pg 0x09 0x040) = v.setWidth 32 &&& 3 ∧ b'.r (pg 0x09 0x01C) = s.blk.r (pg 0x09 0x01C))
end

