-- ==== Sys2Proof/Laws/Bits.lean ====
section
/-! SUPPORT. Laws of bit fields: what a replaced field reads as, and that the others stay. -/

namespace Sys2Proof.Machine
open Sys2Proof

/-- A number as its parts above, within and below a field. -/
theorem nat_parts (n hi lo : Nat) (h : lo ≤ hi) :
    n = n / 2 ^ (hi + 1) * 2 ^ (hi + 1) + bits n hi lo * 2 ^ lo + n % 2 ^ lo := by
  have e : 2 ^ (hi + 1) = 2 ^ (hi + 1 - lo) * 2 ^ lo := by rw [← Nat.pow_add]; congr 1; omega
  have h1 := Nat.div_add_mod n (2 ^ lo)
  have h2 := Nat.div_add_mod (n / 2 ^ lo) (2 ^ (hi + 1 - lo))
  have h3 : n / 2 ^ (hi + 1) = n / 2 ^ lo / 2 ^ (hi + 1 - lo) := by rw [Nat.div_div_eq_div_mul, e, Nat.mul_comm]
  have h4 : n / 2 ^ (hi + 1) * 2 ^ (hi + 1) = (2 ^ (hi + 1 - lo) * (n / 2 ^ lo / 2 ^ (hi + 1 - lo))) * 2 ^ lo := by
    rw [h3, e]
    rw [Nat.mul_comm (2 ^ (hi + 1 - lo)) (n / 2 ^ lo / _), Nat.mul_assoc]
  rw [h4, bits, ← Nat.add_mul, h2, Nat.mul_comm]
  exact h1.symm

/-- A replaced field as its parts. -/
theorem putBits_parts (n hi lo v : Nat) (h : lo ≤ hi) :
    putBits n hi lo v = n / 2 ^ (hi + 1) * 2 ^ (hi + 1) + v % 2 ^ (hi + 1 - lo) * 2 ^ lo + n % 2 ^ lo := by
  have := nat_parts n hi lo h
  unfold putBits
  generalize bits n hi lo * 2 ^ lo = y at *
  generalize n / 2 ^ (hi + 1) * 2 ^ (hi + 1) = x at *
  generalize n % 2 ^ lo = z at *
  omega

/-- The field itself reads as the value put. -/
theorem bits_putBits (n hi lo v : Nat) (h : lo ≤ hi) : bits (putBits n hi lo v) hi lo = v % 2 ^ (hi + 1 - lo) := by
  rw [putBits_parts n hi lo v h, bits]
  have e : 2 ^ (hi + 1) = 2 ^ (hi + 1 - lo) * 2 ^ lo := by rw [← Nat.pow_add]; congr 1; omega
  have hp : 0 < 2 ^ lo := Nat.two_pow_pos lo
  have hz : n % 2 ^ lo < 2 ^ lo := Nat.mod_lt _ hp
  rw [e, ← Nat.mul_assoc, ← Nat.add_mul, Nat.mul_comm _ (2 ^ lo), Nat.mul_add_div hp, Nat.div_eq_of_lt hz, Nat.add_zero,
    Nat.mul_comm (n / _), Nat.mul_add_mod, Nat.mod_mod]

/-- A field below stays. -/
theorem bits_putBits_below (n hi lo v hi' lo' : Nat) (h : lo ≤ hi) (h2 : lo' ≤ hi') (hb : hi' < lo) :
    bits (putBits n hi lo v) hi' lo' = bits n hi' lo' := by
  rw [putBits_parts n hi lo v h]
  have e : lo = (hi' + 1 - lo') + lo' + (lo - hi' - 1) := by omega
  have key : ∀ x y : Nat, bits (x * 2 ^ lo + y) hi' lo' = bits y hi' lo' := by
    intro x y
    have : x * 2 ^ lo = 2 ^ lo' * (2 ^ (hi' + 1 - lo') * (x * 2 ^ (lo - hi' - 1))) := by
      conv => lhs; rw [e, Nat.pow_add, Nat.pow_add]
      ac_rfl
    rw [bits, this, Nat.mul_add_div (Nat.two_pow_pos lo'), Nat.mul_add_mod, bits]
  have e2 : 2 ^ (hi + 1) = 2 ^ (hi + 1 - lo) * 2 ^ lo := by rw [← Nat.pow_add]; congr 1; omega
  rw [e2, ← Nat.mul_assoc, ← Nat.add_mul, key]
  have : n = n / 2 ^ lo * 2 ^ lo + n % 2 ^ lo := by rw [Nat.mul_comm]; exact (Nat.div_add_mod n _).symm
  conv => rhs; rw [this, key]

/-- A field above stays. -/
theorem bits_putBits_above (n hi lo v hi' lo' : Nat) (h : lo ≤ hi) (ha : hi < lo') :
    bits (putBits n hi lo v) hi' lo' = bits n hi' lo' := by
  rw [putBits_parts n hi lo v h]
  have e : 2 ^ lo' = 2 ^ (hi + 1) * 2 ^ (lo' - (hi + 1)) := by rw [← Nat.pow_add]; congr 1; omega
  have hz : n % 2 ^ lo < 2 ^ lo := Nat.mod_lt _ (Nat.two_pow_pos lo)
  have hv : v % 2 ^ (hi + 1 - lo) < 2 ^ (hi + 1 - lo) := Nat.mod_lt _ (Nat.two_pow_pos _)
  have e2 : 2 ^ (hi + 1) = 2 ^ (hi + 1 - lo) * 2 ^ lo := by rw [← Nat.pow_add]; congr 1; omega
  have hlow : v % 2 ^ (hi + 1 - lo) * 2 ^ lo + n % 2 ^ lo < 2 ^ (hi + 1) := by
    rw [e2]
    calc _ < v % 2 ^ (hi + 1 - lo) * 2 ^ lo + 2 ^ lo := by omega
      _ = (v % 2 ^ (hi + 1 - lo) + 1) * 2 ^ lo := by rw [Nat.add_mul, Nat.one_mul]
      _ ≤ _ := Nat.mul_le_mul_right _ hv
  have key : ∀ x y : Nat, y < 2 ^ (hi + 1) → (x * 2 ^ (hi + 1) + y) / 2 ^ lo' = x / 2 ^ (lo' - (hi + 1)) := by
    intro x y hy
    rw [e, ← Nat.div_div_eq_div_mul, Nat.mul_comm x, Nat.mul_add_div (Nat.two_pow_pos _), Nat.div_eq_of_lt hy, Nat.add_zero]
  have hn : n = n / 2 ^ (hi + 1) * 2 ^ (hi + 1) + n % 2 ^ (hi + 1) := by
    rw [Nat.mul_comm]; exact (Nat.div_add_mod n _).symm
  unfold bits
  rw [Nat.add_assoc, key _ _ hlow]
  conv => rhs; rw [hn, key _ _ (Nat.mod_lt _ (Nat.two_pow_pos _))]

/-- A replaced field of a number below 2^w stays below it. -/
theorem putBits_lt {n hi lo v w : Nat} (h : lo ≤ hi) (hw : hi < w) (hn : n < 2 ^ w) : putBits n hi lo v < 2 ^ w := by
  rw [putBits_parts n hi lo v h]
  have e : 2 ^ w = 2 ^ (hi + 1) * 2 ^ (w - (hi + 1)) := by rw [← Nat.pow_add]; congr 1; omega
  have e2 : 2 ^ (hi + 1) = 2 ^ (hi + 1 - lo) * 2 ^ lo := by rw [← Nat.pow_add]; congr 1; omega
  have hv : v % 2 ^ (hi + 1 - lo) + 1 ≤ 2 ^ (hi + 1 - lo) := Nat.mod_lt _ (Nat.two_pow_pos _)
  have hz : n % 2 ^ lo < 2 ^ lo := Nat.mod_lt _ (Nat.two_pow_pos lo)
  have hd : n / 2 ^ (hi + 1) + 1 ≤ 2 ^ (w - (hi + 1)) := by
    apply Nat.div_lt_of_lt_mul; rw [← e]; exact hn
  have h1 := Nat.mul_le_mul_right (2 ^ lo) hv
  have h2 := Nat.mul_le_mul_right (2 ^ (hi + 1)) hd
  rw [Nat.add_mul, Nat.one_mul] at h1 h2
  rw [e, Nat.mul_comm (2 ^ (hi + 1))]
  rw [← e2] at h1
  omega

/-- A field of a word reads as the value put into it. -/
theorem fld_putFld (w : Word) (hi lo v : Nat) (h : lo ≤ hi) (hw : hi < 32) :
    fld (putFld w hi lo v) hi lo = v % 2 ^ (hi + 1 - lo) := by
  rw [fld, putFld, BitVec.toNat_ofNat, Nat.mod_eq_of_lt (putBits_lt h hw w.isLt), bits_putBits _ _ _ _ h]
/-- Another field of a word stays. -/
theorem fld_putFld_ne (w : Word) (hi lo v hi' lo' : Nat) (h : lo ≤ hi) (hw : hi < 32) (h2 : lo' ≤ hi')
    (hd : hi' < lo ∨ hi < lo') : fld (putFld w hi lo v) hi' lo' = fld w hi' lo' := by
  rw [fld, putFld, BitVec.toNat_ofNat, Nat.mod_eq_of_lt (putBits_lt h hw w.isLt)]
  rcases hd with hd | hd
  · exact bits_putBits_below _ _ _ _ _ _ h h2 hd
  · exact bits_putBits_above _ _ _ _ _ _ h hd
/-- One bit as a field of width 1. -/
theorem bitAt_eq_fld (w : Word) (i : Nat) : bitAt w i = decide (fld w i i = 1) := by
  rw [bitAt, Nat.testBit_eq_decide_div_mod_eq, fld, bits]
  simp
/-- A bit of a word reads as it was put. -/
@[simp] theorem bitAt_putFld_same (w : Word) (i : Nat) (p : Bool) (h : i < 32) : bitAt (putFld w i i (b01 p)) i = p := by
  rw [bitAt_eq_fld, fld_putFld _ _ _ _ (Nat.le_refl i) h]
  cases p <;> simp [b01]
/-- Another bit of a word stays. -/
theorem bitAt_putFld_ne (w : Word) (hi lo v i : Nat) (h : lo ≤ hi) (hw : hi < 32) (hd : i < lo ∨ hi < i) :
    bitAt (putFld w hi lo v) i = bitAt w i := by
  rw [bitAt_eq_fld, bitAt_eq_fld, fld_putFld_ne _ _ _ _ _ _ h hw (Nat.le_refl i) hd]

end Sys2Proof.Machine
end

