-- ==== Sys2Proof/Laws/Maps.lean ====
section
/-! SUPPORT. Laws of the sparse maps: what a read gives after a write, and that every operation keeps the canonical form. -/

namespace Sys2Proof.Machine
open Sys2Proof

variable {α : Type}

@[simp] theorem mget_nil (d : α) (a : Nat) : mget d [] a = d := rfl

/-- A dropped key reads as the default. -/
theorem mget_mdel_same (d : α) (m : List (Nat × α)) (a : Nat) : mget d (mdel m a) a = d := by
  induction m with
  | nil => rfl
  | cons e m ih =>
    obtain ⟨k, v⟩ := e
    by_cases h : a = k
    · simpa [mdel, h] using h ▸ ih
    · simp [mdel, h, mget, ih]

/-- Dropping a key leaves every other. -/
theorem mget_mdel_ne (d : α) (m : List (Nat × α)) {a c : Nat} (h : c ≠ a) : mget d (mdel m a) c = mget d m c := by
  induction m with
  | nil => rfl
  | cons e m ih =>
    obtain ⟨k, v⟩ := e
    by_cases hk : a = k
    · subst hk; simp [mdel, mget, h, ih]
    · by_cases hc : c = k
      · simp [mdel, hk, mget, hc]
      · simp [mdel, hk, mget, hc, ih]

/-- A listed value reads back. -/
@[simp] theorem mget_mins_same (d : α) (m : List (Nat × α)) (a : Nat) (x : α) : mget d (mins m a x) a = x := by
  induction m with
  | nil => simp [mins, mget]
  | cons e m ih =>
    obtain ⟨k, v⟩ := e
    by_cases h1 : a < k
    · simp [mins, h1, mget]
    · by_cases h2 : a = k
      · simp [mins, h2, mget]
      · simp [mins, h1, h2, mget, ih]

/-- Listing a key leaves every other. -/
theorem mget_mins_ne (d : α) (m : List (Nat × α)) {a c : Nat} (x : α) (h : c ≠ a) :
    mget d (mins m a x) c = mget d m c := by
  induction m with
  | nil => simp [mins, mget, h]
  | cons e m ih =>
    obtain ⟨k, v⟩ := e
    by_cases h1 : a < k
    · simp [mins, h1, mget, h]
    · by_cases h2 : a = k
      · subst h2; simp [mins, mget, h]
      · by_cases hc : c = k
        · simp [mins, h1, h2, mget, hc]
        · simp [mins, h1, h2, mget, hc, ih]

variable [DecidableEq α]

/-- A written value reads back. -/
@[simp] theorem mget_mput_same (d : α) (m : List (Nat × α)) (a : Nat) (x : α) : mget d (mput d m a x) a = x := by
  unfold mput
  split
  · next h => rw [mget_mdel_same, h]
  · exact mget_mins_same ..

/-- A write leaves every other key, whatever its default. -/
theorem mget_mput_ne (d d' : α) (m : List (Nat × α)) {a c : Nat} (x : α) (h : c ≠ a) :
    mget d' (mput d m a x) c = mget d' m c := by
  unfold mput
  split
  · exact mget_mdel_ne _ _ h
  · exact mget_mins_ne _ _ _ h

/-! The canonical form. -/

/-- Every key of m lies above a. -/
def Above (a : Nat) (m : List (Nat × α)) : Prop := ∀ e ∈ m, a < e.1

omit [DecidableEq α] in
theorem above_mdel {a c : Nat} {m : List (Nat × α)} (h : Above a m) : Above a (mdel m c) := by
  induction m with
  | nil => exact h
  | cons e m ih =>
    obtain ⟨k, v⟩ := e
    have hm : Above a m := fun e he => h e (List.mem_cons_of_mem _ he)
    by_cases hc : c = k
    · simpa [mdel, hc] using (hc ▸ ih hm)
    · simp only [mdel, hc, if_false]
      intro e he
      rcases List.mem_cons.mp he with rfl | he
      · exact h _ List.mem_cons_self
      · exact ih hm e he

omit [DecidableEq α] in
theorem above_mins {a c : Nat} {x : α} {m : List (Nat × α)} (h : Above a m) (hc : a < c) : Above a (mins m c x) := by
  induction m with
  | nil => intro e he; rcases List.mem_singleton.mp he with rfl; exact hc
  | cons e m ih =>
    obtain ⟨k, v⟩ := e
    have hk : a < k := h (k, v) List.mem_cons_self
    have hm : Above a m := fun e he => h e (List.mem_cons_of_mem _ he)
    unfold mins
    split
    · intro e he
      rcases List.mem_cons.mp he with rfl | he
      · exact hc
      · exact h e he
    · split
      · intro e he
        rcases List.mem_cons.mp he with rfl | he
        · exact hc
        · exact hm e he
      · intro e he
        rcases List.mem_cons.mp he with rfl | he
        · exact hk
        · exact ih hm e he

/-- The canonical form, one entry at a time. -/
theorem mwf_cons (d : Nat → α) (k : Nat) (v : α) (m : List (Nat × α)) :
    mwf d ((k, v) :: m) = true ↔ Above k m ∧ v ≠ d k ∧ mwf d m = true := by
  simp only [mwf, List.map_cons, List.pairwise_cons, List.all_cons, Bool.and_eq_true, decide_eq_true_eq, bne_iff_ne, Above]
  constructor
  · rintro ⟨⟨h1, h2⟩, h3, h4⟩
    exact ⟨fun e he => h1 _ (List.mem_map_of_mem (f := Prod.fst) he), h3, h2, h4⟩
  · rintro ⟨h1, h3, h2, h4⟩
    refine ⟨⟨?_, h2⟩, h3, h4⟩
    intro b hb
    obtain ⟨e, he, rfl⟩ := List.mem_map.mp hb
    exact h1 e he

/-- Dropping a key keeps the canonical form. -/
theorem mwf_mdel {d : Nat → α} {m : List (Nat × α)} (a : Nat) (h : mwf d m = true) : mwf d (mdel m a) = true := by
  induction m with
  | nil => exact h
  | cons e m ih =>
    obtain ⟨k, v⟩ := e
    obtain ⟨h1, h2, h3⟩ := (mwf_cons d k v m).mp h
    by_cases hk : a = k
    · simpa [mdel, hk] using (hk ▸ ih h3)
    · simp only [mdel, hk, if_false]
      exact (mwf_cons ..).mpr ⟨above_mdel h1, h2, ih h3⟩

/-- Listing a value that is not the key's default keeps the canonical form. -/
theorem mwf_mins {d : Nat → α} {m : List (Nat × α)} {a : Nat} {x : α} (hx : x ≠ d a) (h : mwf d m = true) :
    mwf d (mins m a x) = true := by
  induction m with
  | nil => exact (mwf_cons ..).mpr ⟨by simp [Above], hx, h⟩
  | cons e m ih =>
    obtain ⟨k, v⟩ := e
    obtain ⟨h1, h2, h3⟩ := (mwf_cons d k v m).mp h
    by_cases c1 : a < k
    · simp only [mins, c1, if_true]
      refine (mwf_cons ..).mpr ⟨?_, hx, h⟩
      intro e he
      rcases List.mem_cons.mp he with rfl | he
      · exact c1
      · exact Nat.lt_trans c1 (h1 e he)
    · by_cases c2 : a = k
      · subst c2
        simp only [mins, c1, if_true, if_false]
        exact (mwf_cons ..).mpr ⟨h1, hx, h3⟩
      · simp only [mins, c1, c2, if_false]
        exact (mwf_cons ..).mpr ⟨above_mins h1 (by omega), h2, ih h3⟩

/-- A write keeps the canonical form. -/
theorem mwf_mput {d : Nat → α} {m : List (Nat × α)} (a : Nat) (x : α) (h : mwf d m = true) :
    mwf d (mput (d a) m a x) = true := by
  unfold mput
  split
  · exact mwf_mdel a h
  · next hx => exact mwf_mins hx h

/-! Byte memories. -/

/-- A memory in which nothing is listed. -/
theorem Memory.wf_nil : Memory.wf [] = true := rfl
/-- A write of one byte keeps the canonical form. -/
theorem Memory.wf_mput {m : ByteMap} (a : Nat) (x : Byte) (h : Memory.wf m = true) : Memory.wf (mput 0 m a x) = true :=
  mwf_mput (d := fun _ => 0) a x h
/-- A write of bytes keeps the canonical form. -/
theorem Memory.wf_writeBytes {m : ByteMap} (a : Nat) (l : List Byte) (h : Memory.wf m = true) :
    Memory.wf (writeBytes m a l) = true := by
  induction l generalizing m a with
  | nil => exact h
  | cons x l ih => exact ih (a + 1) (Memory.wf_mput a x h)
/-- Bytes outside those written read as before. -/
theorem byteAt_writeBytes_ne (m : ByteMap) (a : Nat) (l : List Byte) {c : Nat} (h : c < a ∨ a + l.length ≤ c) :
    byteAt (writeBytes m a l) c = byteAt m c := by
  induction l generalizing m a with
  | nil => rfl
  | cons x l ih =>
    have hl : (x :: l).length = l.length + 1 := rfl
    rw [writeBytes, ih _ (a + 1) (by omega)]
    exact mget_mput_ne 0 0 m x (by omega)
/-- A written byte reads back. -/
theorem byteAt_writeBytes (m : ByteMap) (a : Nat) (l : List Byte) {i : Nat} (h : i < l.length) :
    byteAt (writeBytes m a l) (a + i) = l[i] := by
  induction l generalizing m a i with
  | nil => simp at h
  | cons x l ih =>
    rw [writeBytes]
    cases i with
    | zero =>
      rw [byteAt_writeBytes_ne _ _ _ (by omega)]
      exact mget_mput_same ..
    | succ i =>
      have := ih (mput 0 m a x) (a + 1) (i := i) (by simpa using h)
      rw [show a + (i + 1) = a + 1 + i by omega, this]; rfl

end Sys2Proof.Machine
end

