-- ==== Sys2Proof/Laws/State.lean ====
section
/-! SUPPORT. What each basic update of the part changes: one lemma for each field. -/

namespace Sys2Proof.Machine
open Sys2Proof

/-! wr changes regs alone. -/

@[simp] theorem wr_regs (a : Nat) (v : Word) (b : Block) : (wr a v b).regs = mput (regDefault a) b.regs a v := rfl
@[simp] theorem wr_staged (a : Nat) (v : Word) (b : Block) : (wr a v b).staged = b.staged := rfl
@[simp] theorem wr_held (a : Nat) (v : Word) (b : Block) : (wr a v b).held = b.held := rfl
@[simp] theorem wr_frozen (a : Nat) (v : Word) (b : Block) : (wr a v b).frozen = b.frozen := rfl
@[simp] theorem wr_host (a : Nat) (v : Word) (b : Block) : (wr a v b).host = b.host := rfl
@[simp] theorem wr_side (a : Nat) (v : Word) (b : Block) : (wr a v b).side = b.side := rfl
@[simp] theorem wr_msixMask (a : Nat) (v : Word) (b : Block) : (wr a v b).msixMask = b.msixMask := rfl
@[simp] theorem wr_msixPend (a : Nat) (v : Word) (b : Block) : (wr a v b).msixPend = b.msixPend := rfl
@[simp] theorem wr_sb (a : Nat) (v : Word) (b : Block) : (wr a v b).sb = b.sb := rfl
@[simp] theorem wr_wdogKickAt (a : Nat) (v : Word) (b : Block) : (wr a v b).wdogKickAt = b.wdogKickAt := rfl
@[simp] theorem wr_wdogRuns (a : Nat) (v : Word) (b : Block) : (wr a v b).wdogRuns = b.wdogRuns := rfl
@[simp] theorem wr_dev (a : Nat) (v : Word) (b : Block) : (wr a v b).dev = b.dev := rfl
@[simp] theorem wr_settings (a : Nat) (v : Word) (b : Block) : (wr a v b).settings = b.settings := rfl
@[simp] theorem wr_supply (a : Nat) (v : Word) (b : Block) : (wr a v b).supply = b.supply := rfl
@[simp] theorem wr_balls (a : Nat) (v : Word) (b : Block) : (wr a v b).balls = b.balls := rfl
@[simp] theorem wr_time (a : Nat) (v : Word) (b : Block) : (wr a v b).time = b.time := rfl
@[simp] theorem wr_ports (a : Nat) (v : Word) (b : Block) : (wr a v b).ports = b.ports := rfl
@[simp] theorem wr_prp (a : Nat) (v : Word) (b : Block) : (wr a v b).prp = b.prp := rfl
@[simp] theorem wr_evr (a : Nat) (v : Word) (b : Block) : (wr a v b).evr = b.evr := rfl
@[simp] theorem wr_mram (a : Nat) (v : Word) (b : Block) : (wr a v b).mram = b.mram := rfl
@[simp] theorem wr_bist (a : Nat) (v : Word) (b : Block) : (wr a v b).bist = b.bist := rfl
@[simp] theorem wr_keys (a : Nat) (v : Word) (b : Block) : (wr a v b).keys = b.keys := rfl
@[simp] theorem wr_glean (a : Nat) (v : Word) (b : Block) : (wr a v b).glean = b.glean := rfl
@[simp] theorem wr_gran (a : Nat) (v : Word) (b : Block) : (wr a v b).gran = b.gran := rfl
@[simp] theorem wr_granMem (a : Nat) (v : Word) (b : Block) : (wr a v b).granMem = b.granMem := rfl
@[simp] theorem wr_ddr (a : Nat) (v : Word) (b : Block) : (wr a v b).ddr = b.ddr := rfl
@[simp] theorem wr_pair (a : Nat) (v : Word) (b : Block) : (wr a v b).pair = b.pair := rfl
@[simp] theorem wr_mode (a : Nat) (v : Word) (b : Block) : (wr a v b).mode = b.mode := rfl
@[simp] theorem wr_thr (a : Nat) (v : Word) (b : Block) : (wr a v b).thr = b.thr := rfl
@[simp] theorem wr_svIn (a : Nat) (v : Word) (b : Block) : (wr a v b).svIn = b.svIn := rfl
@[simp] theorem wr_chain (a : Nat) (v : Word) (b : Block) : (wr a v b).chain = b.chain := rfl
@[simp] theorem wr_hk (a : Nat) (v : Word) (b : Block) : (wr a v b).hk = b.hk := rfl
@[simp] theorem wr_osc (a : Nat) (v : Word) (b : Block) : (wr a v b).osc = b.osc := rfl
@[simp] theorem wr_isl (a : Nat) (v : Word) (b : Block) : (wr a v b).isl = b.isl := rfl
@[simp] theorem wr_alm (a : Nat) (v : Word) (b : Block) : (wr a v b).alm = b.alm := rfl
@[simp] theorem wr_gov (a : Nat) (v : Word) (b : Block) : (wr a v b).gov = b.gov := rfl
@[simp] theorem wr_cap (a : Nat) (v : Word) (b : Block) : (wr a v b).cap = b.cap := rfl
@[simp] theorem wr_upd (a : Nat) (v : Word) (b : Block) : (wr a v b).upd = b.upd := rfl
@[simp] theorem wr_later (a : Nat) (v : Word) (b : Block) : (wr a v b).later = b.later := rfl
@[simp] theorem wr_silos (a : Nat) (v : Word) (b : Block) : (wr a v b).silos = b.silos := rfl
@[simp] theorem wr_out (a : Nat) (v : Word) (b : Block) : (wr a v b).out = b.out := rfl
@[simp] theorem wr_freeCtr (a : Nat) (v : Word) (b : Block) : (wr a v b).freeCtr = b.freeCtr := rfl

/-! emit changes out alone. -/

@[simp] theorem emit_regs (o : Output) (b : Block) : (emit o b).regs = b.regs := rfl
@[simp] theorem emit_staged (o : Output) (b : Block) : (emit o b).staged = b.staged := rfl
@[simp] theorem emit_held (o : Output) (b : Block) : (emit o b).held = b.held := rfl
@[simp] theorem emit_frozen (o : Output) (b : Block) : (emit o b).frozen = b.frozen := rfl
@[simp] theorem emit_host (o : Output) (b : Block) : (emit o b).host = b.host := rfl
@[simp] theorem emit_side (o : Output) (b : Block) : (emit o b).side = b.side := rfl
@[simp] theorem emit_msixMask (o : Output) (b : Block) : (emit o b).msixMask = b.msixMask := rfl
@[simp] theorem emit_msixPend (o : Output) (b : Block) : (emit o b).msixPend = b.msixPend := rfl
@[simp] theorem emit_sb (o : Output) (b : Block) : (emit o b).sb = b.sb := rfl
@[simp] theorem emit_wdogKickAt (o : Output) (b : Block) : (emit o b).wdogKickAt = b.wdogKickAt := rfl
@[simp] theorem emit_wdogRuns (o : Output) (b : Block) : (emit o b).wdogRuns = b.wdogRuns := rfl
@[simp] theorem emit_dev (o : Output) (b : Block) : (emit o b).dev = b.dev := rfl
@[simp] theorem emit_settings (o : Output) (b : Block) : (emit o b).settings = b.settings := rfl
@[simp] theorem emit_supply (o : Output) (b : Block) : (emit o b).supply = b.supply := rfl
@[simp] theorem emit_balls (o : Output) (b : Block) : (emit o b).balls = b.balls := rfl
@[simp] theorem emit_time (o : Output) (b : Block) : (emit o b).time = b.time := rfl
@[simp] theorem emit_ports (o : Output) (b : Block) : (emit o b).ports = b.ports := rfl
@[simp] theorem emit_prp (o : Output) (b : Block) : (emit o b).prp = b.prp := rfl
@[simp] theorem emit_evr (o : Output) (b : Block) : (emit o b).evr = b.evr := rfl
@[simp] theorem emit_mram (o : Output) (b : Block) : (emit o b).mram = b.mram := rfl
@[simp] theorem emit_bist (o : Output) (b : Block) : (emit o b).bist = b.bist := rfl
@[simp] theorem emit_keys (o : Output) (b : Block) : (emit o b).keys = b.keys := rfl
@[simp] theorem emit_glean (o : Output) (b : Block) : (emit o b).glean = b.glean := rfl
@[simp] theorem emit_gran (o : Output) (b : Block) : (emit o b).gran = b.gran := rfl
@[simp] theorem emit_granMem (o : Output) (b : Block) : (emit o b).granMem = b.granMem := rfl
@[simp] theorem emit_ddr (o : Output) (b : Block) : (emit o b).ddr = b.ddr := rfl
@[simp] theorem emit_pair (o : Output) (b : Block) : (emit o b).pair = b.pair := rfl
@[simp] theorem emit_mode (o : Output) (b : Block) : (emit o b).mode = b.mode := rfl
@[simp] theorem emit_thr (o : Output) (b : Block) : (emit o b).thr = b.thr := rfl
@[simp] theorem emit_svIn (o : Output) (b : Block) : (emit o b).svIn = b.svIn := rfl
@[simp] theorem emit_chain (o : Output) (b : Block) : (emit o b).chain = b.chain := rfl
@[simp] theorem emit_hk (o : Output) (b : Block) : (emit o b).hk = b.hk := rfl
@[simp] theorem emit_osc (o : Output) (b : Block) : (emit o b).osc = b.osc := rfl
@[simp] theorem emit_isl (o : Output) (b : Block) : (emit o b).isl = b.isl := rfl
@[simp] theorem emit_alm (o : Output) (b : Block) : (emit o b).alm = b.alm := rfl
@[simp] theorem emit_gov (o : Output) (b : Block) : (emit o b).gov = b.gov := rfl
@[simp] theorem emit_cap (o : Output) (b : Block) : (emit o b).cap = b.cap := rfl
@[simp] theorem emit_upd (o : Output) (b : Block) : (emit o b).upd = b.upd := rfl
@[simp] theorem emit_later (o : Output) (b : Block) : (emit o b).later = b.later := rfl
@[simp] theorem emit_silos (o : Output) (b : Block) : (emit o b).silos = b.silos := rfl
@[simp] theorem emit_out (o : Output) (b : Block) : (emit o b).out = b.out ++ [o] := rfl
@[simp] theorem emit_freeCtr (o : Output) (b : Block) : (emit o b).freeCtr = b.freeCtr := rfl

/-! usedFree changes freeCtr alone. -/

@[simp] theorem usedFree_regs (b : Block) : (usedFree b).regs = b.regs := rfl
@[simp] theorem usedFree_staged (b : Block) : (usedFree b).staged = b.staged := rfl
@[simp] theorem usedFree_held (b : Block) : (usedFree b).held = b.held := rfl
@[simp] theorem usedFree_frozen (b : Block) : (usedFree b).frozen = b.frozen := rfl
@[simp] theorem usedFree_host (b : Block) : (usedFree b).host = b.host := rfl
@[simp] theorem usedFree_side (b : Block) : (usedFree b).side = b.side := rfl
@[simp] theorem usedFree_msixMask (b : Block) : (usedFree b).msixMask = b.msixMask := rfl
@[simp] theorem usedFree_msixPend (b : Block) : (usedFree b).msixPend = b.msixPend := rfl
@[simp] theorem usedFree_sb (b : Block) : (usedFree b).sb = b.sb := rfl
@[simp] theorem usedFree_wdogKickAt (b : Block) : (usedFree b).wdogKickAt = b.wdogKickAt := rfl
@[simp] theorem usedFree_wdogRuns (b : Block) : (usedFree b).wdogRuns = b.wdogRuns := rfl
@[simp] theorem usedFree_dev (b : Block) : (usedFree b).dev = b.dev := rfl
@[simp] theorem usedFree_settings (b : Block) : (usedFree b).settings = b.settings := rfl
@[simp] theorem usedFree_supply (b : Block) : (usedFree b).supply = b.supply := rfl
@[simp] theorem usedFree_balls (b : Block) : (usedFree b).balls = b.balls := rfl
@[simp] theorem usedFree_time (b : Block) : (usedFree b).time = b.time := rfl
@[simp] theorem usedFree_ports (b : Block) : (usedFree b).ports = b.ports := rfl
@[simp] theorem usedFree_prp (b : Block) : (usedFree b).prp = b.prp := rfl
@[simp] theorem usedFree_evr (b : Block) : (usedFree b).evr = b.evr := rfl
@[simp] theorem usedFree_mram (b : Block) : (usedFree b).mram = b.mram := rfl
@[simp] theorem usedFree_bist (b : Block) : (usedFree b).bist = b.bist := rfl
@[simp] theorem usedFree_keys (b : Block) : (usedFree b).keys = b.keys := rfl
@[simp] theorem usedFree_glean (b : Block) : (usedFree b).glean = b.glean := rfl
@[simp] theorem usedFree_gran (b : Block) : (usedFree b).gran = b.gran := rfl
@[simp] theorem usedFree_granMem (b : Block) : (usedFree b).granMem = b.granMem := rfl
@[simp] theorem usedFree_ddr (b : Block) : (usedFree b).ddr = b.ddr := rfl
@[simp] theorem usedFree_pair (b : Block) : (usedFree b).pair = b.pair := rfl
@[simp] theorem usedFree_mode (b : Block) : (usedFree b).mode = b.mode := rfl
@[simp] theorem usedFree_thr (b : Block) : (usedFree b).thr = b.thr := rfl
@[simp] theorem usedFree_svIn (b : Block) : (usedFree b).svIn = b.svIn := rfl
@[simp] theorem usedFree_chain (b : Block) : (usedFree b).chain = b.chain := rfl
@[simp] theorem usedFree_hk (b : Block) : (usedFree b).hk = b.hk := rfl
@[simp] theorem usedFree_osc (b : Block) : (usedFree b).osc = b.osc := rfl
@[simp] theorem usedFree_isl (b : Block) : (usedFree b).isl = b.isl := rfl
@[simp] theorem usedFree_alm (b : Block) : (usedFree b).alm = b.alm := rfl
@[simp] theorem usedFree_gov (b : Block) : (usedFree b).gov = b.gov := rfl
@[simp] theorem usedFree_cap (b : Block) : (usedFree b).cap = b.cap := rfl
@[simp] theorem usedFree_upd (b : Block) : (usedFree b).upd = b.upd := rfl
@[simp] theorem usedFree_later (b : Block) : (usedFree b).later = b.later := rfl
@[simp] theorem usedFree_silos (b : Block) : (usedFree b).silos = b.silos := rfl
@[simp] theorem usedFree_out (b : Block) : (usedFree b).out = b.out := rfl
@[simp] theorem usedFree_freeCtr (b : Block) : (usedFree b).freeCtr = b.freeCtr + 1 := rfl

/-! usedFreeN changes freeCtr alone. -/

@[simp] theorem usedFreeN_regs (n : Nat) (b : Block) : (usedFreeN n b).regs = b.regs := rfl
@[simp] theorem usedFreeN_staged (n : Nat) (b : Block) : (usedFreeN n b).staged = b.staged := rfl
@[simp] theorem usedFreeN_held (n : Nat) (b : Block) : (usedFreeN n b).held = b.held := rfl
@[simp] theorem usedFreeN_frozen (n : Nat) (b : Block) : (usedFreeN n b).frozen = b.frozen := rfl
@[simp] theorem usedFreeN_host (n : Nat) (b : Block) : (usedFreeN n b).host = b.host := rfl
@[simp] theorem usedFreeN_side (n : Nat) (b : Block) : (usedFreeN n b).side = b.side := rfl
@[simp] theorem usedFreeN_msixMask (n : Nat) (b : Block) : (usedFreeN n b).msixMask = b.msixMask := rfl
@[simp] theorem usedFreeN_msixPend (n : Nat) (b : Block) : (usedFreeN n b).msixPend = b.msixPend := rfl
@[simp] theorem usedFreeN_sb (n : Nat) (b : Block) : (usedFreeN n b).sb = b.sb := rfl
@[simp] theorem usedFreeN_wdogKickAt (n : Nat) (b : Block) : (usedFreeN n b).wdogKickAt = b.wdogKickAt := rfl
@[simp] theorem usedFreeN_wdogRuns (n : Nat) (b : Block) : (usedFreeN n b).wdogRuns = b.wdogRuns := rfl
@[simp] theorem usedFreeN_dev (n : Nat) (b : Block) : (usedFreeN n b).dev = b.dev := rfl
@[simp] theorem usedFreeN_settings (n : Nat) (b : Block) : (usedFreeN n b).settings = b.settings := rfl
@[simp] theorem usedFreeN_supply (n : Nat) (b : Block) : (usedFreeN n b).supply = b.supply := rfl
@[simp] theorem usedFreeN_balls (n : Nat) (b : Block) : (usedFreeN n b).balls = b.balls := rfl
@[simp] theorem usedFreeN_time (n : Nat) (b : Block) : (usedFreeN n b).time = b.time := rfl
@[simp] theorem usedFreeN_ports (n : Nat) (b : Block) : (usedFreeN n b).ports = b.ports := rfl
@[simp] theorem usedFreeN_prp (n : Nat) (b : Block) : (usedFreeN n b).prp = b.prp := rfl
@[simp] theorem usedFreeN_evr (n : Nat) (b : Block) : (usedFreeN n b).evr = b.evr := rfl
@[simp] theorem usedFreeN_mram (n : Nat) (b : Block) : (usedFreeN n b).mram = b.mram := rfl
@[simp] theorem usedFreeN_bist (n : Nat) (b : Block) : (usedFreeN n b).bist = b.bist := rfl
@[simp] theorem usedFreeN_keys (n : Nat) (b : Block) : (usedFreeN n b).keys = b.keys := rfl
@[simp] theorem usedFreeN_glean (n : Nat) (b : Block) : (usedFreeN n b).glean = b.glean := rfl
@[simp] theorem usedFreeN_gran (n : Nat) (b : Block) : (usedFreeN n b).gran = b.gran := rfl
@[simp] theorem usedFreeN_granMem (n : Nat) (b : Block) : (usedFreeN n b).granMem = b.granMem := rfl
@[simp] theorem usedFreeN_ddr (n : Nat) (b : Block) : (usedFreeN n b).ddr = b.ddr := rfl
@[simp] theorem usedFreeN_pair (n : Nat) (b : Block) : (usedFreeN n b).pair = b.pair := rfl
@[simp] theorem usedFreeN_mode (n : Nat) (b : Block) : (usedFreeN n b).mode = b.mode := rfl
@[simp] theorem usedFreeN_thr (n : Nat) (b : Block) : (usedFreeN n b).thr = b.thr := rfl
@[simp] theorem usedFreeN_svIn (n : Nat) (b : Block) : (usedFreeN n b).svIn = b.svIn := rfl
@[simp] theorem usedFreeN_chain (n : Nat) (b : Block) : (usedFreeN n b).chain = b.chain := rfl
@[simp] theorem usedFreeN_hk (n : Nat) (b : Block) : (usedFreeN n b).hk = b.hk := rfl
@[simp] theorem usedFreeN_osc (n : Nat) (b : Block) : (usedFreeN n b).osc = b.osc := rfl
@[simp] theorem usedFreeN_isl (n : Nat) (b : Block) : (usedFreeN n b).isl = b.isl := rfl
@[simp] theorem usedFreeN_alm (n : Nat) (b : Block) : (usedFreeN n b).alm = b.alm := rfl
@[simp] theorem usedFreeN_gov (n : Nat) (b : Block) : (usedFreeN n b).gov = b.gov := rfl
@[simp] theorem usedFreeN_cap (n : Nat) (b : Block) : (usedFreeN n b).cap = b.cap := rfl
@[simp] theorem usedFreeN_upd (n : Nat) (b : Block) : (usedFreeN n b).upd = b.upd := rfl
@[simp] theorem usedFreeN_later (n : Nat) (b : Block) : (usedFreeN n b).later = b.later := rfl
@[simp] theorem usedFreeN_silos (n : Nat) (b : Block) : (usedFreeN n b).silos = b.silos := rfl
@[simp] theorem usedFreeN_out (n : Nat) (b : Block) : (usedFreeN n b).out = b.out := rfl
@[simp] theorem usedFreeN_freeCtr (n : Nat) (b : Block) : (usedFreeN n b).freeCtr = b.freeCtr + n := rfl

/-! modSb changes sb alone. -/

@[simp] theorem modSb_regs (f : SideBand → SideBand) (b : Block) : (modSb f b).regs = b.regs := rfl
@[simp] theorem modSb_staged (f : SideBand → SideBand) (b : Block) : (modSb f b).staged = b.staged := rfl
@[simp] theorem modSb_held (f : SideBand → SideBand) (b : Block) : (modSb f b).held = b.held := rfl
@[simp] theorem modSb_frozen (f : SideBand → SideBand) (b : Block) : (modSb f b).frozen = b.frozen := rfl
@[simp] theorem modSb_host (f : SideBand → SideBand) (b : Block) : (modSb f b).host = b.host := rfl
@[simp] theorem modSb_side (f : SideBand → SideBand) (b : Block) : (modSb f b).side = b.side := rfl
@[simp] theorem modSb_msixMask (f : SideBand → SideBand) (b : Block) : (modSb f b).msixMask = b.msixMask := rfl
@[simp] theorem modSb_msixPend (f : SideBand → SideBand) (b : Block) : (modSb f b).msixPend = b.msixPend := rfl
@[simp] theorem modSb_sb (f : SideBand → SideBand) (b : Block) : (modSb f b).sb = f b.sb := rfl
@[simp] theorem modSb_wdogKickAt (f : SideBand → SideBand) (b : Block) : (modSb f b).wdogKickAt = b.wdogKickAt := rfl
@[simp] theorem modSb_wdogRuns (f : SideBand → SideBand) (b : Block) : (modSb f b).wdogRuns = b.wdogRuns := rfl
@[simp] theorem modSb_dev (f : SideBand → SideBand) (b : Block) : (modSb f b).dev = b.dev := rfl
@[simp] theorem modSb_settings (f : SideBand → SideBand) (b : Block) : (modSb f b).settings = b.settings := rfl
@[simp] theorem modSb_supply (f : SideBand → SideBand) (b : Block) : (modSb f b).supply = b.supply := rfl
@[simp] theorem modSb_balls (f : SideBand → SideBand) (b : Block) : (modSb f b).balls = b.balls := rfl
@[simp] theorem modSb_time (f : SideBand → SideBand) (b : Block) : (modSb f b).time = b.time := rfl
@[simp] theorem modSb_ports (f : SideBand → SideBand) (b : Block) : (modSb f b).ports = b.ports := rfl
@[simp] theorem modSb_prp (f : SideBand → SideBand) (b : Block) : (modSb f b).prp = b.prp := rfl
@[simp] theorem modSb_evr (f : SideBand → SideBand) (b : Block) : (modSb f b).evr = b.evr := rfl
@[simp] theorem modSb_mram (f : SideBand → SideBand) (b : Block) : (modSb f b).mram = b.mram := rfl
@[simp] theorem modSb_bist (f : SideBand → SideBand) (b : Block) : (modSb f b).bist = b.bist := rfl
@[simp] theorem modSb_keys (f : SideBand → SideBand) (b : Block) : (modSb f b).keys = b.keys := rfl
@[simp] theorem modSb_glean (f : SideBand → SideBand) (b : Block) : (modSb f b).glean = b.glean := rfl
@[simp] theorem modSb_gran (f : SideBand → SideBand) (b : Block) : (modSb f b).gran = b.gran := rfl
@[simp] theorem modSb_granMem (f : SideBand → SideBand) (b : Block) : (modSb f b).granMem = b.granMem := rfl
@[simp] theorem modSb_ddr (f : SideBand → SideBand) (b : Block) : (modSb f b).ddr = b.ddr := rfl
@[simp] theorem modSb_pair (f : SideBand → SideBand) (b : Block) : (modSb f b).pair = b.pair := rfl
@[simp] theorem modSb_mode (f : SideBand → SideBand) (b : Block) : (modSb f b).mode = b.mode := rfl
@[simp] theorem modSb_thr (f : SideBand → SideBand) (b : Block) : (modSb f b).thr = b.thr := rfl
@[simp] theorem modSb_svIn (f : SideBand → SideBand) (b : Block) : (modSb f b).svIn = b.svIn := rfl
@[simp] theorem modSb_chain (f : SideBand → SideBand) (b : Block) : (modSb f b).chain = b.chain := rfl
@[simp] theorem modSb_hk (f : SideBand → SideBand) (b : Block) : (modSb f b).hk = b.hk := rfl
@[simp] theorem modSb_osc (f : SideBand → SideBand) (b : Block) : (modSb f b).osc = b.osc := rfl
@[simp] theorem modSb_isl (f : SideBand → SideBand) (b : Block) : (modSb f b).isl = b.isl := rfl
@[simp] theorem modSb_alm (f : SideBand → SideBand) (b : Block) : (modSb f b).alm = b.alm := rfl
@[simp] theorem modSb_gov (f : SideBand → SideBand) (b : Block) : (modSb f b).gov = b.gov := rfl
@[simp] theorem modSb_cap (f : SideBand → SideBand) (b : Block) : (modSb f b).cap = b.cap := rfl
@[simp] theorem modSb_upd (f : SideBand → SideBand) (b : Block) : (modSb f b).upd = b.upd := rfl
@[simp] theorem modSb_later (f : SideBand → SideBand) (b : Block) : (modSb f b).later = b.later := rfl
@[simp] theorem modSb_silos (f : SideBand → SideBand) (b : Block) : (modSb f b).silos = b.silos := rfl
@[simp] theorem modSb_out (f : SideBand → SideBand) (b : Block) : (modSb f b).out = b.out := rfl
@[simp] theorem modSb_freeCtr (f : SideBand → SideBand) (b : Block) : (modSb f b).freeCtr = b.freeCtr := rfl

/-! modAlm changes alm alone. -/

@[simp] theorem modAlm_regs (f : AlmSt → AlmSt) (b : Block) : (modAlm f b).regs = b.regs := rfl
@[simp] theorem modAlm_staged (f : AlmSt → AlmSt) (b : Block) : (modAlm f b).staged = b.staged := rfl
@[simp] theorem modAlm_held (f : AlmSt → AlmSt) (b : Block) : (modAlm f b).held = b.held := rfl
@[simp] theorem modAlm_frozen (f : AlmSt → AlmSt) (b : Block) : (modAlm f b).frozen = b.frozen := rfl
@[simp] theorem modAlm_host (f : AlmSt → AlmSt) (b : Block) : (modAlm f b).host = b.host := rfl
@[simp] theorem modAlm_side (f : AlmSt → AlmSt) (b : Block) : (modAlm f b).side = b.side := rfl
@[simp] theorem modAlm_msixMask (f : AlmSt → AlmSt) (b : Block) : (modAlm f b).msixMask = b.msixMask := rfl
@[simp] theorem modAlm_msixPend (f : AlmSt → AlmSt) (b : Block) : (modAlm f b).msixPend = b.msixPend := rfl
@[simp] theorem modAlm_sb (f : AlmSt → AlmSt) (b : Block) : (modAlm f b).sb = b.sb := rfl
@[simp] theorem modAlm_wdogKickAt (f : AlmSt → AlmSt) (b : Block) : (modAlm f b).wdogKickAt = b.wdogKickAt := rfl
@[simp] theorem modAlm_wdogRuns (f : AlmSt → AlmSt) (b : Block) : (modAlm f b).wdogRuns = b.wdogRuns := rfl
@[simp] theorem modAlm_dev (f : AlmSt → AlmSt) (b : Block) : (modAlm f b).dev = b.dev := rfl
@[simp] theorem modAlm_settings (f : AlmSt → AlmSt) (b : Block) : (modAlm f b).settings = b.settings := rfl
@[simp] theorem modAlm_supply (f : AlmSt → AlmSt) (b : Block) : (modAlm f b).supply = b.supply := rfl
@[simp] theorem modAlm_balls (f : AlmSt → AlmSt) (b : Block) : (modAlm f b).balls = b.balls := rfl
@[simp] theorem modAlm_time (f : AlmSt → AlmSt) (b : Block) : (modAlm f b).time = b.time := rfl
@[simp] theorem modAlm_ports (f : AlmSt → AlmSt) (b : Block) : (modAlm f b).ports = b.ports := rfl
@[simp] theorem modAlm_prp (f : AlmSt → AlmSt) (b : Block) : (modAlm f b).prp = b.prp := rfl
@[simp] theorem modAlm_evr (f : AlmSt → AlmSt) (b : Block) : (modAlm f b).evr = b.evr := rfl
@[simp] theorem modAlm_mram (f : AlmSt → AlmSt) (b : Block) : (modAlm f b).mram = b.mram := rfl
@[simp] theorem modAlm_bist (f : AlmSt → AlmSt) (b : Block) : (modAlm f b).bist = b.bist := rfl
@[simp] theorem modAlm_keys (f : AlmSt → AlmSt) (b : Block) : (modAlm f b).keys = b.keys := rfl
@[simp] theorem modAlm_glean (f : AlmSt → AlmSt) (b : Block) : (modAlm f b).glean = b.glean := rfl
@[simp] theorem modAlm_gran (f : AlmSt → AlmSt) (b : Block) : (modAlm f b).gran = b.gran := rfl
@[simp] theorem modAlm_granMem (f : AlmSt → AlmSt) (b : Block) : (modAlm f b).granMem = b.granMem := rfl
@[simp] theorem modAlm_ddr (f : AlmSt → AlmSt) (b : Block) : (modAlm f b).ddr = b.ddr := rfl
@[simp] theorem modAlm_pair (f : AlmSt → AlmSt) (b : Block) : (modAlm f b).pair = b.pair := rfl
@[simp] theorem modAlm_mode (f : AlmSt → AlmSt) (b : Block) : (modAlm f b).mode = b.mode := rfl
@[simp] theorem modAlm_thr (f : AlmSt → AlmSt) (b : Block) : (modAlm f b).thr = b.thr := rfl
@[simp] theorem modAlm_svIn (f : AlmSt → AlmSt) (b : Block) : (modAlm f b).svIn = b.svIn := rfl
@[simp] theorem modAlm_chain (f : AlmSt → AlmSt) (b : Block) : (modAlm f b).chain = b.chain := rfl
@[simp] theorem modAlm_hk (f : AlmSt → AlmSt) (b : Block) : (modAlm f b).hk = b.hk := rfl
@[simp] theorem modAlm_osc (f : AlmSt → AlmSt) (b : Block) : (modAlm f b).osc = b.osc := rfl
@[simp] theorem modAlm_isl (f : AlmSt → AlmSt) (b : Block) : (modAlm f b).isl = b.isl := rfl
@[simp] theorem modAlm_alm (f : AlmSt → AlmSt) (b : Block) : (modAlm f b).alm = f b.alm := rfl
@[simp] theorem modAlm_gov (f : AlmSt → AlmSt) (b : Block) : (modAlm f b).gov = b.gov := rfl
@[simp] theorem modAlm_cap (f : AlmSt → AlmSt) (b : Block) : (modAlm f b).cap = b.cap := rfl
@[simp] theorem modAlm_upd (f : AlmSt → AlmSt) (b : Block) : (modAlm f b).upd = b.upd := rfl
@[simp] theorem modAlm_later (f : AlmSt → AlmSt) (b : Block) : (modAlm f b).later = b.later := rfl
@[simp] theorem modAlm_silos (f : AlmSt → AlmSt) (b : Block) : (modAlm f b).silos = b.silos := rfl
@[simp] theorem modAlm_out (f : AlmSt → AlmSt) (b : Block) : (modAlm f b).out = b.out := rfl
@[simp] theorem modAlm_freeCtr (f : AlmSt → AlmSt) (b : Block) : (modAlm f b).freeCtr = b.freeCtr := rfl

/-! modCap changes cap alone. -/

@[simp] theorem modCap_regs (f : CapSt → CapSt) (b : Block) : (modCap f b).regs = b.regs := rfl
@[simp] theorem modCap_staged (f : CapSt → CapSt) (b : Block) : (modCap f b).staged = b.staged := rfl
@[simp] theorem modCap_held (f : CapSt → CapSt) (b : Block) : (modCap f b).held = b.held := rfl
@[simp] theorem modCap_frozen (f : CapSt → CapSt) (b : Block) : (modCap f b).frozen = b.frozen := rfl
@[simp] theorem modCap_host (f : CapSt → CapSt) (b : Block) : (modCap f b).host = b.host := rfl
@[simp] theorem modCap_side (f : CapSt → CapSt) (b : Block) : (modCap f b).side = b.side := rfl
@[simp] theorem modCap_msixMask (f : CapSt → CapSt) (b : Block) : (modCap f b).msixMask = b.msixMask := rfl
@[simp] theorem modCap_msixPend (f : CapSt → CapSt) (b : Block) : (modCap f b).msixPend = b.msixPend := rfl
@[simp] theorem modCap_sb (f : CapSt → CapSt) (b : Block) : (modCap f b).sb = b.sb := rfl
@[simp] theorem modCap_wdogKickAt (f : CapSt → CapSt) (b : Block) : (modCap f b).wdogKickAt = b.wdogKickAt := rfl
@[simp] theorem modCap_wdogRuns (f : CapSt → CapSt) (b : Block) : (modCap f b).wdogRuns = b.wdogRuns := rfl
@[simp] theorem modCap_dev (f : CapSt → CapSt) (b : Block) : (modCap f b).dev = b.dev := rfl
@[simp] theorem modCap_settings (f : CapSt → CapSt) (b : Block) : (modCap f b).settings = b.settings := rfl
@[simp] theorem modCap_supply (f : CapSt → CapSt) (b : Block) : (modCap f b).supply = b.supply := rfl
@[simp] theorem modCap_balls (f : CapSt → CapSt) (b : Block) : (modCap f b).balls = b.balls := rfl
@[simp] theorem modCap_time (f : CapSt → CapSt) (b : Block) : (modCap f b).time = b.time := rfl
@[simp] theorem modCap_ports (f : CapSt → CapSt) (b : Block) : (modCap f b).ports = b.ports := rfl
@[simp] theorem modCap_prp (f : CapSt → CapSt) (b : Block) : (modCap f b).prp = b.prp := rfl
@[simp] theorem modCap_evr (f : CapSt → CapSt) (b : Block) : (modCap f b).evr = b.evr := rfl
@[simp] theorem modCap_mram (f : CapSt → CapSt) (b : Block) : (modCap f b).mram = b.mram := rfl
@[simp] theorem modCap_bist (f : CapSt → CapSt) (b : Block) : (modCap f b).bist = b.bist := rfl
@[simp] theorem modCap_keys (f : CapSt → CapSt) (b : Block) : (modCap f b).keys = b.keys := rfl
@[simp] theorem modCap_glean (f : CapSt → CapSt) (b : Block) : (modCap f b).glean = b.glean := rfl
@[simp] theorem modCap_gran (f : CapSt → CapSt) (b : Block) : (modCap f b).gran = b.gran := rfl
@[simp] theorem modCap_granMem (f : CapSt → CapSt) (b : Block) : (modCap f b).granMem = b.granMem := rfl
@[simp] theorem modCap_ddr (f : CapSt → CapSt) (b : Block) : (modCap f b).ddr = b.ddr := rfl
@[simp] theorem modCap_pair (f : CapSt → CapSt) (b : Block) : (modCap f b).pair = b.pair := rfl
@[simp] theorem modCap_mode (f : CapSt → CapSt) (b : Block) : (modCap f b).mode = b.mode := rfl
@[simp] theorem modCap_thr (f : CapSt → CapSt) (b : Block) : (modCap f b).thr = b.thr := rfl
@[simp] theorem modCap_svIn (f : CapSt → CapSt) (b : Block) : (modCap f b).svIn = b.svIn := rfl
@[simp] theorem modCap_chain (f : CapSt → CapSt) (b : Block) : (modCap f b).chain = b.chain := rfl
@[simp] theorem modCap_hk (f : CapSt → CapSt) (b : Block) : (modCap f b).hk = b.hk := rfl
@[simp] theorem modCap_osc (f : CapSt → CapSt) (b : Block) : (modCap f b).osc = b.osc := rfl
@[simp] theorem modCap_isl (f : CapSt → CapSt) (b : Block) : (modCap f b).isl = b.isl := rfl
@[simp] theorem modCap_alm (f : CapSt → CapSt) (b : Block) : (modCap f b).alm = b.alm := rfl
@[simp] theorem modCap_gov (f : CapSt → CapSt) (b : Block) : (modCap f b).gov = b.gov := rfl
@[simp] theorem modCap_cap (f : CapSt → CapSt) (b : Block) : (modCap f b).cap = f b.cap := rfl
@[simp] theorem modCap_upd (f : CapSt → CapSt) (b : Block) : (modCap f b).upd = b.upd := rfl
@[simp] theorem modCap_later (f : CapSt → CapSt) (b : Block) : (modCap f b).later = b.later := rfl
@[simp] theorem modCap_silos (f : CapSt → CapSt) (b : Block) : (modCap f b).silos = b.silos := rfl
@[simp] theorem modCap_out (f : CapSt → CapSt) (b : Block) : (modCap f b).out = b.out := rfl
@[simp] theorem modCap_freeCtr (f : CapSt → CapSt) (b : Block) : (modCap f b).freeCtr = b.freeCtr := rfl

/-! modChain changes chain alone. -/

@[simp] theorem modChain_regs (f : ChainSt → ChainSt) (b : Block) : (modChain f b).regs = b.regs := rfl
@[simp] theorem modChain_staged (f : ChainSt → ChainSt) (b : Block) : (modChain f b).staged = b.staged := rfl
@[simp] theorem modChain_held (f : ChainSt → ChainSt) (b : Block) : (modChain f b).held = b.held := rfl
@[simp] theorem modChain_frozen (f : ChainSt → ChainSt) (b : Block) : (modChain f b).frozen = b.frozen := rfl
@[simp] theorem modChain_host (f : ChainSt → ChainSt) (b : Block) : (modChain f b).host = b.host := rfl
@[simp] theorem modChain_side (f : ChainSt → ChainSt) (b : Block) : (modChain f b).side = b.side := rfl
@[simp] theorem modChain_msixMask (f : ChainSt → ChainSt) (b : Block) : (modChain f b).msixMask = b.msixMask := rfl
@[simp] theorem modChain_msixPend (f : ChainSt → ChainSt) (b : Block) : (modChain f b).msixPend = b.msixPend := rfl
@[simp] theorem modChain_sb (f : ChainSt → ChainSt) (b : Block) : (modChain f b).sb = b.sb := rfl
@[simp] theorem modChain_wdogKickAt (f : ChainSt → ChainSt) (b : Block) : (modChain f b).wdogKickAt = b.wdogKickAt := rfl
@[simp] theorem modChain_wdogRuns (f : ChainSt → ChainSt) (b : Block) : (modChain f b).wdogRuns = b.wdogRuns := rfl
@[simp] theorem modChain_dev (f : ChainSt → ChainSt) (b : Block) : (modChain f b).dev = b.dev := rfl
@[simp] theorem modChain_settings (f : ChainSt → ChainSt) (b : Block) : (modChain f b).settings = b.settings := rfl
@[simp] theorem modChain_supply (f : ChainSt → ChainSt) (b : Block) : (modChain f b).supply = b.supply := rfl
@[simp] theorem modChain_balls (f : ChainSt → ChainSt) (b : Block) : (modChain f b).balls = b.balls := rfl
@[simp] theorem modChain_time (f : ChainSt → ChainSt) (b : Block) : (modChain f b).time = b.time := rfl
@[simp] theorem modChain_ports (f : ChainSt → ChainSt) (b : Block) : (modChain f b).ports = b.ports := rfl
@[simp] theorem modChain_prp (f : ChainSt → ChainSt) (b : Block) : (modChain f b).prp = b.prp := rfl
@[simp] theorem modChain_evr (f : ChainSt → ChainSt) (b : Block) : (modChain f b).evr = b.evr := rfl
@[simp] theorem modChain_mram (f : ChainSt → ChainSt) (b : Block) : (modChain f b).mram = b.mram := rfl
@[simp] theorem modChain_bist (f : ChainSt → ChainSt) (b : Block) : (modChain f b).bist = b.bist := rfl
@[simp] theorem modChain_keys (f : ChainSt → ChainSt) (b : Block) : (modChain f b).keys = b.keys := rfl
@[simp] theorem modChain_glean (f : ChainSt → ChainSt) (b : Block) : (modChain f b).glean = b.glean := rfl
@[simp] theorem modChain_gran (f : ChainSt → ChainSt) (b : Block) : (modChain f b).gran = b.gran := rfl
@[simp] theorem modChain_granMem (f : ChainSt → ChainSt) (b : Block) : (modChain f b).granMem = b.granMem := rfl
@[simp] theorem modChain_ddr (f : ChainSt → ChainSt) (b : Block) : (modChain f b).ddr = b.ddr := rfl
@[simp] theorem modChain_pair (f : ChainSt → ChainSt) (b : Block) : (modChain f b).pair = b.pair := rfl
@[simp] theorem modChain_mode (f : ChainSt → ChainSt) (b : Block) : (modChain f b).mode = b.mode := rfl
@[simp] theorem modChain_thr (f : ChainSt → ChainSt) (b : Block) : (modChain f b).thr = b.thr := rfl
@[simp] theorem modChain_svIn (f : ChainSt → ChainSt) (b : Block) : (modChain f b).svIn = b.svIn := rfl
@[simp] theorem modChain_chain (f : ChainSt → ChainSt) (b : Block) : (modChain f b).chain = f b.chain := rfl
@[simp] theorem modChain_hk (f : ChainSt → ChainSt) (b : Block) : (modChain f b).hk = b.hk := rfl
@[simp] theorem modChain_osc (f : ChainSt → ChainSt) (b : Block) : (modChain f b).osc = b.osc := rfl
@[simp] theorem modChain_isl (f : ChainSt → ChainSt) (b : Block) : (modChain f b).isl = b.isl := rfl
@[simp] theorem modChain_alm (f : ChainSt → ChainSt) (b : Block) : (modChain f b).alm = b.alm := rfl
@[simp] theorem modChain_gov (f : ChainSt → ChainSt) (b : Block) : (modChain f b).gov = b.gov := rfl
@[simp] theorem modChain_cap (f : ChainSt → ChainSt) (b : Block) : (modChain f b).cap = b.cap := rfl
@[simp] theorem modChain_upd (f : ChainSt → ChainSt) (b : Block) : (modChain f b).upd = b.upd := rfl
@[simp] theorem modChain_later (f : ChainSt → ChainSt) (b : Block) : (modChain f b).later = b.later := rfl
@[simp] theorem modChain_silos (f : ChainSt → ChainSt) (b : Block) : (modChain f b).silos = b.silos := rfl
@[simp] theorem modChain_out (f : ChainSt → ChainSt) (b : Block) : (modChain f b).out = b.out := rfl
@[simp] theorem modChain_freeCtr (f : ChainSt → ChainSt) (b : Block) : (modChain f b).freeCtr = b.freeCtr := rfl

/-! modGov changes gov alone. -/

@[simp] theorem modGov_regs (f : GovSt → GovSt) (b : Block) : (modGov f b).regs = b.regs := rfl
@[simp] theorem modGov_staged (f : GovSt → GovSt) (b : Block) : (modGov f b).staged = b.staged := rfl
@[simp] theorem modGov_held (f : GovSt → GovSt) (b : Block) : (modGov f b).held = b.held := rfl
@[simp] theorem modGov_frozen (f : GovSt → GovSt) (b : Block) : (modGov f b).frozen = b.frozen := rfl
@[simp] theorem modGov_host (f : GovSt → GovSt) (b : Block) : (modGov f b).host = b.host := rfl
@[simp] theorem modGov_side (f : GovSt → GovSt) (b : Block) : (modGov f b).side = b.side := rfl
@[simp] theorem modGov_msixMask (f : GovSt → GovSt) (b : Block) : (modGov f b).msixMask = b.msixMask := rfl
@[simp] theorem modGov_msixPend (f : GovSt → GovSt) (b : Block) : (modGov f b).msixPend = b.msixPend := rfl
@[simp] theorem modGov_sb (f : GovSt → GovSt) (b : Block) : (modGov f b).sb = b.sb := rfl
@[simp] theorem modGov_wdogKickAt (f : GovSt → GovSt) (b : Block) : (modGov f b).wdogKickAt = b.wdogKickAt := rfl
@[simp] theorem modGov_wdogRuns (f : GovSt → GovSt) (b : Block) : (modGov f b).wdogRuns = b.wdogRuns := rfl
@[simp] theorem modGov_dev (f : GovSt → GovSt) (b : Block) : (modGov f b).dev = b.dev := rfl
@[simp] theorem modGov_settings (f : GovSt → GovSt) (b : Block) : (modGov f b).settings = b.settings := rfl
@[simp] theorem modGov_supply (f : GovSt → GovSt) (b : Block) : (modGov f b).supply = b.supply := rfl
@[simp] theorem modGov_balls (f : GovSt → GovSt) (b : Block) : (modGov f b).balls = b.balls := rfl
@[simp] theorem modGov_time (f : GovSt → GovSt) (b : Block) : (modGov f b).time = b.time := rfl
@[simp] theorem modGov_ports (f : GovSt → GovSt) (b : Block) : (modGov f b).ports = b.ports := rfl
@[simp] theorem modGov_prp (f : GovSt → GovSt) (b : Block) : (modGov f b).prp = b.prp := rfl
@[simp] theorem modGov_evr (f : GovSt → GovSt) (b : Block) : (modGov f b).evr = b.evr := rfl
@[simp] theorem modGov_mram (f : GovSt → GovSt) (b : Block) : (modGov f b).mram = b.mram := rfl
@[simp] theorem modGov_bist (f : GovSt → GovSt) (b : Block) : (modGov f b).bist = b.bist := rfl
@[simp] theorem modGov_keys (f : GovSt → GovSt) (b : Block) : (modGov f b).keys = b.keys := rfl
@[simp] theorem modGov_glean (f : GovSt → GovSt) (b : Block) : (modGov f b).glean = b.glean := rfl
@[simp] theorem modGov_gran (f : GovSt → GovSt) (b : Block) : (modGov f b).gran = b.gran := rfl
@[simp] theorem modGov_granMem (f : GovSt → GovSt) (b : Block) : (modGov f b).granMem = b.granMem := rfl
@[simp] theorem modGov_ddr (f : GovSt → GovSt) (b : Block) : (modGov f b).ddr = b.ddr := rfl
@[simp] theorem modGov_pair (f : GovSt → GovSt) (b : Block) : (modGov f b).pair = b.pair := rfl
@[simp] theorem modGov_mode (f : GovSt → GovSt) (b : Block) : (modGov f b).mode = b.mode := rfl
@[simp] theorem modGov_thr (f : GovSt → GovSt) (b : Block) : (modGov f b).thr = b.thr := rfl
@[simp] theorem modGov_svIn (f : GovSt → GovSt) (b : Block) : (modGov f b).svIn = b.svIn := rfl
@[simp] theorem modGov_chain (f : GovSt → GovSt) (b : Block) : (modGov f b).chain = b.chain := rfl
@[simp] theorem modGov_hk (f : GovSt → GovSt) (b : Block) : (modGov f b).hk = b.hk := rfl
@[simp] theorem modGov_osc (f : GovSt → GovSt) (b : Block) : (modGov f b).osc = b.osc := rfl
@[simp] theorem modGov_isl (f : GovSt → GovSt) (b : Block) : (modGov f b).isl = b.isl := rfl
@[simp] theorem modGov_alm (f : GovSt → GovSt) (b : Block) : (modGov f b).alm = b.alm := rfl
@[simp] theorem modGov_gov (f : GovSt → GovSt) (b : Block) : (modGov f b).gov = f b.gov := rfl
@[simp] theorem modGov_cap (f : GovSt → GovSt) (b : Block) : (modGov f b).cap = b.cap := rfl
@[simp] theorem modGov_upd (f : GovSt → GovSt) (b : Block) : (modGov f b).upd = b.upd := rfl
@[simp] theorem modGov_later (f : GovSt → GovSt) (b : Block) : (modGov f b).later = b.later := rfl
@[simp] theorem modGov_silos (f : GovSt → GovSt) (b : Block) : (modGov f b).silos = b.silos := rfl
@[simp] theorem modGov_out (f : GovSt → GovSt) (b : Block) : (modGov f b).out = b.out := rfl
@[simp] theorem modGov_freeCtr (f : GovSt → GovSt) (b : Block) : (modGov f b).freeCtr = b.freeCtr := rfl

/-! modGlean changes glean alone. -/

@[simp] theorem modGlean_regs (f : GleanSt → GleanSt) (b : Block) : (modGlean f b).regs = b.regs := rfl
@[simp] theorem modGlean_staged (f : GleanSt → GleanSt) (b : Block) : (modGlean f b).staged = b.staged := rfl
@[simp] theorem modGlean_held (f : GleanSt → GleanSt) (b : Block) : (modGlean f b).held = b.held := rfl
@[simp] theorem modGlean_frozen (f : GleanSt → GleanSt) (b : Block) : (modGlean f b).frozen = b.frozen := rfl
@[simp] theorem modGlean_host (f : GleanSt → GleanSt) (b : Block) : (modGlean f b).host = b.host := rfl
@[simp] theorem modGlean_side (f : GleanSt → GleanSt) (b : Block) : (modGlean f b).side = b.side := rfl
@[simp] theorem modGlean_msixMask (f : GleanSt → GleanSt) (b : Block) : (modGlean f b).msixMask = b.msixMask := rfl
@[simp] theorem modGlean_msixPend (f : GleanSt → GleanSt) (b : Block) : (modGlean f b).msixPend = b.msixPend := rfl
@[simp] theorem modGlean_sb (f : GleanSt → GleanSt) (b : Block) : (modGlean f b).sb = b.sb := rfl
@[simp] theorem modGlean_wdogKickAt (f : GleanSt → GleanSt) (b : Block) : (modGlean f b).wdogKickAt = b.wdogKickAt := rfl
@[simp] theorem modGlean_wdogRuns (f : GleanSt → GleanSt) (b : Block) : (modGlean f b).wdogRuns = b.wdogRuns := rfl
@[simp] theorem modGlean_dev (f : GleanSt → GleanSt) (b : Block) : (modGlean f b).dev = b.dev := rfl
@[simp] theorem modGlean_settings (f : GleanSt → GleanSt) (b : Block) : (modGlean f b).settings = b.settings := rfl
@[simp] theorem modGlean_supply (f : GleanSt → GleanSt) (b : Block) : (modGlean f b).supply = b.supply := rfl
@[simp] theorem modGlean_balls (f : GleanSt → GleanSt) (b : Block) : (modGlean f b).balls = b.balls := rfl
@[simp] theorem modGlean_time (f : GleanSt → GleanSt) (b : Block) : (modGlean f b).time = b.time := rfl
@[simp] theorem modGlean_ports (f : GleanSt → GleanSt) (b : Block) : (modGlean f b).ports = b.ports := rfl
@[simp] theorem modGlean_prp (f : GleanSt → GleanSt) (b : Block) : (modGlean f b).prp = b.prp := rfl
@[simp] theorem modGlean_evr (f : GleanSt → GleanSt) (b : Block) : (modGlean f b).evr = b.evr := rfl
@[simp] theorem modGlean_mram (f : GleanSt → GleanSt) (b : Block) : (modGlean f b).mram = b.mram := rfl
@[simp] theorem modGlean_bist (f : GleanSt → GleanSt) (b : Block) : (modGlean f b).bist = b.bist := rfl
@[simp] theorem modGlean_keys (f : GleanSt → GleanSt) (b : Block) : (modGlean f b).keys = b.keys := rfl
@[simp] theorem modGlean_glean (f : GleanSt → GleanSt) (b : Block) : (modGlean f b).glean = f b.glean := rfl
@[simp] theorem modGlean_gran (f : GleanSt → GleanSt) (b : Block) : (modGlean f b).gran = b.gran := rfl
@[simp] theorem modGlean_granMem (f : GleanSt → GleanSt) (b : Block) : (modGlean f b).granMem = b.granMem := rfl
@[simp] theorem modGlean_ddr (f : GleanSt → GleanSt) (b : Block) : (modGlean f b).ddr = b.ddr := rfl
@[simp] theorem modGlean_pair (f : GleanSt → GleanSt) (b : Block) : (modGlean f b).pair = b.pair := rfl
@[simp] theorem modGlean_mode (f : GleanSt → GleanSt) (b : Block) : (modGlean f b).mode = b.mode := rfl
@[simp] theorem modGlean_thr (f : GleanSt → GleanSt) (b : Block) : (modGlean f b).thr = b.thr := rfl
@[simp] theorem modGlean_svIn (f : GleanSt → GleanSt) (b : Block) : (modGlean f b).svIn = b.svIn := rfl
@[simp] theorem modGlean_chain (f : GleanSt → GleanSt) (b : Block) : (modGlean f b).chain = b.chain := rfl
@[simp] theorem modGlean_hk (f : GleanSt → GleanSt) (b : Block) : (modGlean f b).hk = b.hk := rfl
@[simp] theorem modGlean_osc (f : GleanSt → GleanSt) (b : Block) : (modGlean f b).osc = b.osc := rfl
@[simp] theorem modGlean_isl (f : GleanSt → GleanSt) (b : Block) : (modGlean f b).isl = b.isl := rfl
@[simp] theorem modGlean_alm (f : GleanSt → GleanSt) (b : Block) : (modGlean f b).alm = b.alm := rfl
@[simp] theorem modGlean_gov (f : GleanSt → GleanSt) (b : Block) : (modGlean f b).gov = b.gov := rfl
@[simp] theorem modGlean_cap (f : GleanSt → GleanSt) (b : Block) : (modGlean f b).cap = b.cap := rfl
@[simp] theorem modGlean_upd (f : GleanSt → GleanSt) (b : Block) : (modGlean f b).upd = b.upd := rfl
@[simp] theorem modGlean_later (f : GleanSt → GleanSt) (b : Block) : (modGlean f b).later = b.later := rfl
@[simp] theorem modGlean_silos (f : GleanSt → GleanSt) (b : Block) : (modGlean f b).silos = b.silos := rfl
@[simp] theorem modGlean_out (f : GleanSt → GleanSt) (b : Block) : (modGlean f b).out = b.out := rfl
@[simp] theorem modGlean_freeCtr (f : GleanSt → GleanSt) (b : Block) : (modGlean f b).freeCtr = b.freeCtr := rfl

/-! modGran changes gran alone. -/

@[simp] theorem modGran_regs (f : GranSt → GranSt) (b : Block) : (modGran f b).regs = b.regs := rfl
@[simp] theorem modGran_staged (f : GranSt → GranSt) (b : Block) : (modGran f b).staged = b.staged := rfl
@[simp] theorem modGran_held (f : GranSt → GranSt) (b : Block) : (modGran f b).held = b.held := rfl
@[simp] theorem modGran_frozen (f : GranSt → GranSt) (b : Block) : (modGran f b).frozen = b.frozen := rfl
@[simp] theorem modGran_host (f : GranSt → GranSt) (b : Block) : (modGran f b).host = b.host := rfl
@[simp] theorem modGran_side (f : GranSt → GranSt) (b : Block) : (modGran f b).side = b.side := rfl
@[simp] theorem modGran_msixMask (f : GranSt → GranSt) (b : Block) : (modGran f b).msixMask = b.msixMask := rfl
@[simp] theorem modGran_msixPend (f : GranSt → GranSt) (b : Block) : (modGran f b).msixPend = b.msixPend := rfl
@[simp] theorem modGran_sb (f : GranSt → GranSt) (b : Block) : (modGran f b).sb = b.sb := rfl
@[simp] theorem modGran_wdogKickAt (f : GranSt → GranSt) (b : Block) : (modGran f b).wdogKickAt = b.wdogKickAt := rfl
@[simp] theorem modGran_wdogRuns (f : GranSt → GranSt) (b : Block) : (modGran f b).wdogRuns = b.wdogRuns := rfl
@[simp] theorem modGran_dev (f : GranSt → GranSt) (b : Block) : (modGran f b).dev = b.dev := rfl
@[simp] theorem modGran_settings (f : GranSt → GranSt) (b : Block) : (modGran f b).settings = b.settings := rfl
@[simp] theorem modGran_supply (f : GranSt → GranSt) (b : Block) : (modGran f b).supply = b.supply := rfl
@[simp] theorem modGran_balls (f : GranSt → GranSt) (b : Block) : (modGran f b).balls = b.balls := rfl
@[simp] theorem modGran_time (f : GranSt → GranSt) (b : Block) : (modGran f b).time = b.time := rfl
@[simp] theorem modGran_ports (f : GranSt → GranSt) (b : Block) : (modGran f b).ports = b.ports := rfl
@[simp] theorem modGran_prp (f : GranSt → GranSt) (b : Block) : (modGran f b).prp = b.prp := rfl
@[simp] theorem modGran_evr (f : GranSt → GranSt) (b : Block) : (modGran f b).evr = b.evr := rfl
@[simp] theorem modGran_mram (f : GranSt → GranSt) (b : Block) : (modGran f b).mram = b.mram := rfl
@[simp] theorem modGran_bist (f : GranSt → GranSt) (b : Block) : (modGran f b).bist = b.bist := rfl
@[simp] theorem modGran_keys (f : GranSt → GranSt) (b : Block) : (modGran f b).keys = b.keys := rfl
@[simp] theorem modGran_glean (f : GranSt → GranSt) (b : Block) : (modGran f b).glean = b.glean := rfl
@[simp] theorem modGran_gran (f : GranSt → GranSt) (b : Block) : (modGran f b).gran = f b.gran := rfl
@[simp] theorem modGran_granMem (f : GranSt → GranSt) (b : Block) : (modGran f b).granMem = b.granMem := rfl
@[simp] theorem modGran_ddr (f : GranSt → GranSt) (b : Block) : (modGran f b).ddr = b.ddr := rfl
@[simp] theorem modGran_pair (f : GranSt → GranSt) (b : Block) : (modGran f b).pair = b.pair := rfl
@[simp] theorem modGran_mode (f : GranSt → GranSt) (b : Block) : (modGran f b).mode = b.mode := rfl
@[simp] theorem modGran_thr (f : GranSt → GranSt) (b : Block) : (modGran f b).thr = b.thr := rfl
@[simp] theorem modGran_svIn (f : GranSt → GranSt) (b : Block) : (modGran f b).svIn = b.svIn := rfl
@[simp] theorem modGran_chain (f : GranSt → GranSt) (b : Block) : (modGran f b).chain = b.chain := rfl
@[simp] theorem modGran_hk (f : GranSt → GranSt) (b : Block) : (modGran f b).hk = b.hk := rfl
@[simp] theorem modGran_osc (f : GranSt → GranSt) (b : Block) : (modGran f b).osc = b.osc := rfl
@[simp] theorem modGran_isl (f : GranSt → GranSt) (b : Block) : (modGran f b).isl = b.isl := rfl
@[simp] theorem modGran_alm (f : GranSt → GranSt) (b : Block) : (modGran f b).alm = b.alm := rfl
@[simp] theorem modGran_gov (f : GranSt → GranSt) (b : Block) : (modGran f b).gov = b.gov := rfl
@[simp] theorem modGran_cap (f : GranSt → GranSt) (b : Block) : (modGran f b).cap = b.cap := rfl
@[simp] theorem modGran_upd (f : GranSt → GranSt) (b : Block) : (modGran f b).upd = b.upd := rfl
@[simp] theorem modGran_later (f : GranSt → GranSt) (b : Block) : (modGran f b).later = b.later := rfl
@[simp] theorem modGran_silos (f : GranSt → GranSt) (b : Block) : (modGran f b).silos = b.silos := rfl
@[simp] theorem modGran_out (f : GranSt → GranSt) (b : Block) : (modGran f b).out = b.out := rfl
@[simp] theorem modGran_freeCtr (f : GranSt → GranSt) (b : Block) : (modGran f b).freeCtr = b.freeCtr := rfl

/-! modIsl changes isl alone. -/

@[simp] theorem modIsl_regs (f : IslSt → IslSt) (b : Block) : (modIsl f b).regs = b.regs := rfl
@[simp] theorem modIsl_staged (f : IslSt → IslSt) (b : Block) : (modIsl f b).staged = b.staged := rfl
@[simp] theorem modIsl_held (f : IslSt → IslSt) (b : Block) : (modIsl f b).held = b.held := rfl
@[simp] theorem modIsl_frozen (f : IslSt → IslSt) (b : Block) : (modIsl f b).frozen = b.frozen := rfl
@[simp] theorem modIsl_host (f : IslSt → IslSt) (b : Block) : (modIsl f b).host = b.host := rfl
@[simp] theorem modIsl_side (f : IslSt → IslSt) (b : Block) : (modIsl f b).side = b.side := rfl
@[simp] theorem modIsl_msixMask (f : IslSt → IslSt) (b : Block) : (modIsl f b).msixMask = b.msixMask := rfl
@[simp] theorem modIsl_msixPend (f : IslSt → IslSt) (b : Block) : (modIsl f b).msixPend = b.msixPend := rfl
@[simp] theorem modIsl_sb (f : IslSt → IslSt) (b : Block) : (modIsl f b).sb = b.sb := rfl
@[simp] theorem modIsl_wdogKickAt (f : IslSt → IslSt) (b : Block) : (modIsl f b).wdogKickAt = b.wdogKickAt := rfl
@[simp] theorem modIsl_wdogRuns (f : IslSt → IslSt) (b : Block) : (modIsl f b).wdogRuns = b.wdogRuns := rfl
@[simp] theorem modIsl_dev (f : IslSt → IslSt) (b : Block) : (modIsl f b).dev = b.dev := rfl
@[simp] theorem modIsl_settings (f : IslSt → IslSt) (b : Block) : (modIsl f b).settings = b.settings := rfl
@[simp] theorem modIsl_supply (f : IslSt → IslSt) (b : Block) : (modIsl f b).supply = b.supply := rfl
@[simp] theorem modIsl_balls (f : IslSt → IslSt) (b : Block) : (modIsl f b).balls = b.balls := rfl
@[simp] theorem modIsl_time (f : IslSt → IslSt) (b : Block) : (modIsl f b).time = b.time := rfl
@[simp] theorem modIsl_ports (f : IslSt → IslSt) (b : Block) : (modIsl f b).ports = b.ports := rfl
@[simp] theorem modIsl_prp (f : IslSt → IslSt) (b : Block) : (modIsl f b).prp = b.prp := rfl
@[simp] theorem modIsl_evr (f : IslSt → IslSt) (b : Block) : (modIsl f b).evr = b.evr := rfl
@[simp] theorem modIsl_mram (f : IslSt → IslSt) (b : Block) : (modIsl f b).mram = b.mram := rfl
@[simp] theorem modIsl_bist (f : IslSt → IslSt) (b : Block) : (modIsl f b).bist = b.bist := rfl
@[simp] theorem modIsl_keys (f : IslSt → IslSt) (b : Block) : (modIsl f b).keys = b.keys := rfl
@[simp] theorem modIsl_glean (f : IslSt → IslSt) (b : Block) : (modIsl f b).glean = b.glean := rfl
@[simp] theorem modIsl_gran (f : IslSt → IslSt) (b : Block) : (modIsl f b).gran = b.gran := rfl
@[simp] theorem modIsl_granMem (f : IslSt → IslSt) (b : Block) : (modIsl f b).granMem = b.granMem := rfl
@[simp] theorem modIsl_ddr (f : IslSt → IslSt) (b : Block) : (modIsl f b).ddr = b.ddr := rfl
@[simp] theorem modIsl_pair (f : IslSt → IslSt) (b : Block) : (modIsl f b).pair = b.pair := rfl
@[simp] theorem modIsl_mode (f : IslSt → IslSt) (b : Block) : (modIsl f b).mode = b.mode := rfl
@[simp] theorem modIsl_thr (f : IslSt → IslSt) (b : Block) : (modIsl f b).thr = b.thr := rfl
@[simp] theorem modIsl_svIn (f : IslSt → IslSt) (b : Block) : (modIsl f b).svIn = b.svIn := rfl
@[simp] theorem modIsl_chain (f : IslSt → IslSt) (b : Block) : (modIsl f b).chain = b.chain := rfl
@[simp] theorem modIsl_hk (f : IslSt → IslSt) (b : Block) : (modIsl f b).hk = b.hk := rfl
@[simp] theorem modIsl_osc (f : IslSt → IslSt) (b : Block) : (modIsl f b).osc = b.osc := rfl
@[simp] theorem modIsl_isl (f : IslSt → IslSt) (b : Block) : (modIsl f b).isl = f b.isl := rfl
@[simp] theorem modIsl_alm (f : IslSt → IslSt) (b : Block) : (modIsl f b).alm = b.alm := rfl
@[simp] theorem modIsl_gov (f : IslSt → IslSt) (b : Block) : (modIsl f b).gov = b.gov := rfl
@[simp] theorem modIsl_cap (f : IslSt → IslSt) (b : Block) : (modIsl f b).cap = b.cap := rfl
@[simp] theorem modIsl_upd (f : IslSt → IslSt) (b : Block) : (modIsl f b).upd = b.upd := rfl
@[simp] theorem modIsl_later (f : IslSt → IslSt) (b : Block) : (modIsl f b).later = b.later := rfl
@[simp] theorem modIsl_silos (f : IslSt → IslSt) (b : Block) : (modIsl f b).silos = b.silos := rfl
@[simp] theorem modIsl_out (f : IslSt → IslSt) (b : Block) : (modIsl f b).out = b.out := rfl
@[simp] theorem modIsl_freeCtr (f : IslSt → IslSt) (b : Block) : (modIsl f b).freeCtr = b.freeCtr := rfl

/-! modKeys changes keys alone. -/

@[simp] theorem modKeys_regs (f : Keys → Keys) (b : Block) : (modKeys f b).regs = b.regs := rfl
@[simp] theorem modKeys_staged (f : Keys → Keys) (b : Block) : (modKeys f b).staged = b.staged := rfl
@[simp] theorem modKeys_held (f : Keys → Keys) (b : Block) : (modKeys f b).held = b.held := rfl
@[simp] theorem modKeys_frozen (f : Keys → Keys) (b : Block) : (modKeys f b).frozen = b.frozen := rfl
@[simp] theorem modKeys_host (f : Keys → Keys) (b : Block) : (modKeys f b).host = b.host := rfl
@[simp] theorem modKeys_side (f : Keys → Keys) (b : Block) : (modKeys f b).side = b.side := rfl
@[simp] theorem modKeys_msixMask (f : Keys → Keys) (b : Block) : (modKeys f b).msixMask = b.msixMask := rfl
@[simp] theorem modKeys_msixPend (f : Keys → Keys) (b : Block) : (modKeys f b).msixPend = b.msixPend := rfl
@[simp] theorem modKeys_sb (f : Keys → Keys) (b : Block) : (modKeys f b).sb = b.sb := rfl
@[simp] theorem modKeys_wdogKickAt (f : Keys → Keys) (b : Block) : (modKeys f b).wdogKickAt = b.wdogKickAt := rfl
@[simp] theorem modKeys_wdogRuns (f : Keys → Keys) (b : Block) : (modKeys f b).wdogRuns = b.wdogRuns := rfl
@[simp] theorem modKeys_dev (f : Keys → Keys) (b : Block) : (modKeys f b).dev = b.dev := rfl
@[simp] theorem modKeys_settings (f : Keys → Keys) (b : Block) : (modKeys f b).settings = b.settings := rfl
@[simp] theorem modKeys_supply (f : Keys → Keys) (b : Block) : (modKeys f b).supply = b.supply := rfl
@[simp] theorem modKeys_balls (f : Keys → Keys) (b : Block) : (modKeys f b).balls = b.balls := rfl
@[simp] theorem modKeys_time (f : Keys → Keys) (b : Block) : (modKeys f b).time = b.time := rfl
@[simp] theorem modKeys_ports (f : Keys → Keys) (b : Block) : (modKeys f b).ports = b.ports := rfl
@[simp] theorem modKeys_prp (f : Keys → Keys) (b : Block) : (modKeys f b).prp = b.prp := rfl
@[simp] theorem modKeys_evr (f : Keys → Keys) (b : Block) : (modKeys f b).evr = b.evr := rfl
@[simp] theorem modKeys_mram (f : Keys → Keys) (b : Block) : (modKeys f b).mram = b.mram := rfl
@[simp] theorem modKeys_bist (f : Keys → Keys) (b : Block) : (modKeys f b).bist = b.bist := rfl
@[simp] theorem modKeys_keys (f : Keys → Keys) (b : Block) : (modKeys f b).keys = f b.keys := rfl
@[simp] theorem modKeys_glean (f : Keys → Keys) (b : Block) : (modKeys f b).glean = b.glean := rfl
@[simp] theorem modKeys_gran (f : Keys → Keys) (b : Block) : (modKeys f b).gran = b.gran := rfl
@[simp] theorem modKeys_granMem (f : Keys → Keys) (b : Block) : (modKeys f b).granMem = b.granMem := rfl
@[simp] theorem modKeys_ddr (f : Keys → Keys) (b : Block) : (modKeys f b).ddr = b.ddr := rfl
@[simp] theorem modKeys_pair (f : Keys → Keys) (b : Block) : (modKeys f b).pair = b.pair := rfl
@[simp] theorem modKeys_mode (f : Keys → Keys) (b : Block) : (modKeys f b).mode = b.mode := rfl
@[simp] theorem modKeys_thr (f : Keys → Keys) (b : Block) : (modKeys f b).thr = b.thr := rfl
@[simp] theorem modKeys_svIn (f : Keys → Keys) (b : Block) : (modKeys f b).svIn = b.svIn := rfl
@[simp] theorem modKeys_chain (f : Keys → Keys) (b : Block) : (modKeys f b).chain = b.chain := rfl
@[simp] theorem modKeys_hk (f : Keys → Keys) (b : Block) : (modKeys f b).hk = b.hk := rfl
@[simp] theorem modKeys_osc (f : Keys → Keys) (b : Block) : (modKeys f b).osc = b.osc := rfl
@[simp] theorem modKeys_isl (f : Keys → Keys) (b : Block) : (modKeys f b).isl = b.isl := rfl
@[simp] theorem modKeys_alm (f : Keys → Keys) (b : Block) : (modKeys f b).alm = b.alm := rfl
@[simp] theorem modKeys_gov (f : Keys → Keys) (b : Block) : (modKeys f b).gov = b.gov := rfl
@[simp] theorem modKeys_cap (f : Keys → Keys) (b : Block) : (modKeys f b).cap = b.cap := rfl
@[simp] theorem modKeys_upd (f : Keys → Keys) (b : Block) : (modKeys f b).upd = b.upd := rfl
@[simp] theorem modKeys_later (f : Keys → Keys) (b : Block) : (modKeys f b).later = b.later := rfl
@[simp] theorem modKeys_silos (f : Keys → Keys) (b : Block) : (modKeys f b).silos = b.silos := rfl
@[simp] theorem modKeys_out (f : Keys → Keys) (b : Block) : (modKeys f b).out = b.out := rfl
@[simp] theorem modKeys_freeCtr (f : Keys → Keys) (b : Block) : (modKeys f b).freeCtr = b.freeCtr := rfl

/-! modUpd changes upd alone. -/

@[simp] theorem modUpd_regs (f : UpdSt → UpdSt) (b : Block) : (modUpd f b).regs = b.regs := rfl
@[simp] theorem modUpd_staged (f : UpdSt → UpdSt) (b : Block) : (modUpd f b).staged = b.staged := rfl
@[simp] theorem modUpd_held (f : UpdSt → UpdSt) (b : Block) : (modUpd f b).held = b.held := rfl
@[simp] theorem modUpd_frozen (f : UpdSt → UpdSt) (b : Block) : (modUpd f b).frozen = b.frozen := rfl
@[simp] theorem modUpd_host (f : UpdSt → UpdSt) (b : Block) : (modUpd f b).host = b.host := rfl
@[simp] theorem modUpd_side (f : UpdSt → UpdSt) (b : Block) : (modUpd f b).side = b.side := rfl
@[simp] theorem modUpd_msixMask (f : UpdSt → UpdSt) (b : Block) : (modUpd f b).msixMask = b.msixMask := rfl
@[simp] theorem modUpd_msixPend (f : UpdSt → UpdSt) (b : Block) : (modUpd f b).msixPend = b.msixPend := rfl
@[simp] theorem modUpd_sb (f : UpdSt → UpdSt) (b : Block) : (modUpd f b).sb = b.sb := rfl
@[simp] theorem modUpd_wdogKickAt (f : UpdSt → UpdSt) (b : Block) : (modUpd f b).wdogKickAt = b.wdogKickAt := rfl
@[simp] theorem modUpd_wdogRuns (f : UpdSt → UpdSt) (b : Block) : (modUpd f b).wdogRuns = b.wdogRuns := rfl
@[simp] theorem modUpd_dev (f : UpdSt → UpdSt) (b : Block) : (modUpd f b).dev = b.dev := rfl
@[simp] theorem modUpd_settings (f : UpdSt → UpdSt) (b : Block) : (modUpd f b).settings = b.settings := rfl
@[simp] theorem modUpd_supply (f : UpdSt → UpdSt) (b : Block) : (modUpd f b).supply = b.supply := rfl
@[simp] theorem modUpd_balls (f : UpdSt → UpdSt) (b : Block) : (modUpd f b).balls = b.balls := rfl
@[simp] theorem modUpd_time (f : UpdSt → UpdSt) (b : Block) : (modUpd f b).time = b.time := rfl
@[simp] theorem modUpd_ports (f : UpdSt → UpdSt) (b : Block) : (modUpd f b).ports = b.ports := rfl
@[simp] theorem modUpd_prp (f : UpdSt → UpdSt) (b : Block) : (modUpd f b).prp = b.prp := rfl
@[simp] theorem modUpd_evr (f : UpdSt → UpdSt) (b : Block) : (modUpd f b).evr = b.evr := rfl
@[simp] theorem modUpd_mram (f : UpdSt → UpdSt) (b : Block) : (modUpd f b).mram = b.mram := rfl
@[simp] theorem modUpd_bist (f : UpdSt → UpdSt) (b : Block) : (modUpd f b).bist = b.bist := rfl
@[simp] theorem modUpd_keys (f : UpdSt → UpdSt) (b : Block) : (modUpd f b).keys = b.keys := rfl
@[simp] theorem modUpd_glean (f : UpdSt → UpdSt) (b : Block) : (modUpd f b).glean = b.glean := rfl
@[simp] theorem modUpd_gran (f : UpdSt → UpdSt) (b : Block) : (modUpd f b).gran = b.gran := rfl
@[simp] theorem modUpd_granMem (f : UpdSt → UpdSt) (b : Block) : (modUpd f b).granMem = b.granMem := rfl
@[simp] theorem modUpd_ddr (f : UpdSt → UpdSt) (b : Block) : (modUpd f b).ddr = b.ddr := rfl
@[simp] theorem modUpd_pair (f : UpdSt → UpdSt) (b : Block) : (modUpd f b).pair = b.pair := rfl
@[simp] theorem modUpd_mode (f : UpdSt → UpdSt) (b : Block) : (modUpd f b).mode = b.mode := rfl
@[simp] theorem modUpd_thr (f : UpdSt → UpdSt) (b : Block) : (modUpd f b).thr = b.thr := rfl
@[simp] theorem modUpd_svIn (f : UpdSt → UpdSt) (b : Block) : (modUpd f b).svIn = b.svIn := rfl
@[simp] theorem modUpd_chain (f : UpdSt → UpdSt) (b : Block) : (modUpd f b).chain = b.chain := rfl
@[simp] theorem modUpd_hk (f : UpdSt → UpdSt) (b : Block) : (modUpd f b).hk = b.hk := rfl
@[simp] theorem modUpd_osc (f : UpdSt → UpdSt) (b : Block) : (modUpd f b).osc = b.osc := rfl
@[simp] theorem modUpd_isl (f : UpdSt → UpdSt) (b : Block) : (modUpd f b).isl = b.isl := rfl
@[simp] theorem modUpd_alm (f : UpdSt → UpdSt) (b : Block) : (modUpd f b).alm = b.alm := rfl
@[simp] theorem modUpd_gov (f : UpdSt → UpdSt) (b : Block) : (modUpd f b).gov = b.gov := rfl
@[simp] theorem modUpd_cap (f : UpdSt → UpdSt) (b : Block) : (modUpd f b).cap = b.cap := rfl
@[simp] theorem modUpd_upd (f : UpdSt → UpdSt) (b : Block) : (modUpd f b).upd = f b.upd := rfl
@[simp] theorem modUpd_later (f : UpdSt → UpdSt) (b : Block) : (modUpd f b).later = b.later := rfl
@[simp] theorem modUpd_silos (f : UpdSt → UpdSt) (b : Block) : (modUpd f b).silos = b.silos := rfl
@[simp] theorem modUpd_out (f : UpdSt → UpdSt) (b : Block) : (modUpd f b).out = b.out := rfl
@[simp] theorem modUpd_freeCtr (f : UpdSt → UpdSt) (b : Block) : (modUpd f b).freeCtr = b.freeCtr := rfl

/-! modOsc changes osc alone. -/

@[simp] theorem modOsc_regs (f : OscSt → OscSt) (b : Block) : (modOsc f b).regs = b.regs := rfl
@[simp] theorem modOsc_staged (f : OscSt → OscSt) (b : Block) : (modOsc f b).staged = b.staged := rfl
@[simp] theorem modOsc_held (f : OscSt → OscSt) (b : Block) : (modOsc f b).held = b.held := rfl
@[simp] theorem modOsc_frozen (f : OscSt → OscSt) (b : Block) : (modOsc f b).frozen = b.frozen := rfl
@[simp] theorem modOsc_host (f : OscSt → OscSt) (b : Block) : (modOsc f b).host = b.host := rfl
@[simp] theorem modOsc_side (f : OscSt → OscSt) (b : Block) : (modOsc f b).side = b.side := rfl
@[simp] theorem modOsc_msixMask (f : OscSt → OscSt) (b : Block) : (modOsc f b).msixMask = b.msixMask := rfl
@[simp] theorem modOsc_msixPend (f : OscSt → OscSt) (b : Block) : (modOsc f b).msixPend = b.msixPend := rfl
@[simp] theorem modOsc_sb (f : OscSt → OscSt) (b : Block) : (modOsc f b).sb = b.sb := rfl
@[simp] theorem modOsc_wdogKickAt (f : OscSt → OscSt) (b : Block) : (modOsc f b).wdogKickAt = b.wdogKickAt := rfl
@[simp] theorem modOsc_wdogRuns (f : OscSt → OscSt) (b : Block) : (modOsc f b).wdogRuns = b.wdogRuns := rfl
@[simp] theorem modOsc_dev (f : OscSt → OscSt) (b : Block) : (modOsc f b).dev = b.dev := rfl
@[simp] theorem modOsc_settings (f : OscSt → OscSt) (b : Block) : (modOsc f b).settings = b.settings := rfl
@[simp] theorem modOsc_supply (f : OscSt → OscSt) (b : Block) : (modOsc f b).supply = b.supply := rfl
@[simp] theorem modOsc_balls (f : OscSt → OscSt) (b : Block) : (modOsc f b).balls = b.balls := rfl
@[simp] theorem modOsc_time (f : OscSt → OscSt) (b : Block) : (modOsc f b).time = b.time := rfl
@[simp] theorem modOsc_ports (f : OscSt → OscSt) (b : Block) : (modOsc f b).ports = b.ports := rfl
@[simp] theorem modOsc_prp (f : OscSt → OscSt) (b : Block) : (modOsc f b).prp = b.prp := rfl
@[simp] theorem modOsc_evr (f : OscSt → OscSt) (b : Block) : (modOsc f b).evr = b.evr := rfl
@[simp] theorem modOsc_mram (f : OscSt → OscSt) (b : Block) : (modOsc f b).mram = b.mram := rfl
@[simp] theorem modOsc_bist (f : OscSt → OscSt) (b : Block) : (modOsc f b).bist = b.bist := rfl
@[simp] theorem modOsc_keys (f : OscSt → OscSt) (b : Block) : (modOsc f b).keys = b.keys := rfl
@[simp] theorem modOsc_glean (f : OscSt → OscSt) (b : Block) : (modOsc f b).glean = b.glean := rfl
@[simp] theorem modOsc_gran (f : OscSt → OscSt) (b : Block) : (modOsc f b).gran = b.gran := rfl
@[simp] theorem modOsc_granMem (f : OscSt → OscSt) (b : Block) : (modOsc f b).granMem = b.granMem := rfl
@[simp] theorem modOsc_ddr (f : OscSt → OscSt) (b : Block) : (modOsc f b).ddr = b.ddr := rfl
@[simp] theorem modOsc_pair (f : OscSt → OscSt) (b : Block) : (modOsc f b).pair = b.pair := rfl
@[simp] theorem modOsc_mode (f : OscSt → OscSt) (b : Block) : (modOsc f b).mode = b.mode := rfl
@[simp] theorem modOsc_thr (f : OscSt → OscSt) (b : Block) : (modOsc f b).thr = b.thr := rfl
@[simp] theorem modOsc_svIn (f : OscSt → OscSt) (b : Block) : (modOsc f b).svIn = b.svIn := rfl
@[simp] theorem modOsc_chain (f : OscSt → OscSt) (b : Block) : (modOsc f b).chain = b.chain := rfl
@[simp] theorem modOsc_hk (f : OscSt → OscSt) (b : Block) : (modOsc f b).hk = b.hk := rfl
@[simp] theorem modOsc_osc (f : OscSt → OscSt) (b : Block) : (modOsc f b).osc = f b.osc := rfl
@[simp] theorem modOsc_isl (f : OscSt → OscSt) (b : Block) : (modOsc f b).isl = b.isl := rfl
@[simp] theorem modOsc_alm (f : OscSt → OscSt) (b : Block) : (modOsc f b).alm = b.alm := rfl
@[simp] theorem modOsc_gov (f : OscSt → OscSt) (b : Block) : (modOsc f b).gov = b.gov := rfl
@[simp] theorem modOsc_cap (f : OscSt → OscSt) (b : Block) : (modOsc f b).cap = b.cap := rfl
@[simp] theorem modOsc_upd (f : OscSt → OscSt) (b : Block) : (modOsc f b).upd = b.upd := rfl
@[simp] theorem modOsc_later (f : OscSt → OscSt) (b : Block) : (modOsc f b).later = b.later := rfl
@[simp] theorem modOsc_silos (f : OscSt → OscSt) (b : Block) : (modOsc f b).silos = b.silos := rfl
@[simp] theorem modOsc_out (f : OscSt → OscSt) (b : Block) : (modOsc f b).out = b.out := rfl
@[simp] theorem modOsc_freeCtr (f : OscSt → OscSt) (b : Block) : (modOsc f b).freeCtr = b.freeCtr := rfl

/-! modPair changes pair alone. -/

@[simp] theorem modPair_regs (f : PairSt → PairSt) (b : Block) : (modPair f b).regs = b.regs := rfl
@[simp] theorem modPair_staged (f : PairSt → PairSt) (b : Block) : (modPair f b).staged = b.staged := rfl
@[simp] theorem modPair_held (f : PairSt → PairSt) (b : Block) : (modPair f b).held = b.held := rfl
@[simp] theorem modPair_frozen (f : PairSt → PairSt) (b : Block) : (modPair f b).frozen = b.frozen := rfl
@[simp] theorem modPair_host (f : PairSt → PairSt) (b : Block) : (modPair f b).host = b.host := rfl
@[simp] theorem modPair_side (f : PairSt → PairSt) (b : Block) : (modPair f b).side = b.side := rfl
@[simp] theorem modPair_msixMask (f : PairSt → PairSt) (b : Block) : (modPair f b).msixMask = b.msixMask := rfl
@[simp] theorem modPair_msixPend (f : PairSt → PairSt) (b : Block) : (modPair f b).msixPend = b.msixPend := rfl
@[simp] theorem modPair_sb (f : PairSt → PairSt) (b : Block) : (modPair f b).sb = b.sb := rfl
@[simp] theorem modPair_wdogKickAt (f : PairSt → PairSt) (b : Block) : (modPair f b).wdogKickAt = b.wdogKickAt := rfl
@[simp] theorem modPair_wdogRuns (f : PairSt → PairSt) (b : Block) : (modPair f b).wdogRuns = b.wdogRuns := rfl
@[simp] theorem modPair_dev (f : PairSt → PairSt) (b : Block) : (modPair f b).dev = b.dev := rfl
@[simp] theorem modPair_settings (f : PairSt → PairSt) (b : Block) : (modPair f b).settings = b.settings := rfl
@[simp] theorem modPair_supply (f : PairSt → PairSt) (b : Block) : (modPair f b).supply = b.supply := rfl
@[simp] theorem modPair_balls (f : PairSt → PairSt) (b : Block) : (modPair f b).balls = b.balls := rfl
@[simp] theorem modPair_time (f : PairSt → PairSt) (b : Block) : (modPair f b).time = b.time := rfl
@[simp] theorem modPair_ports (f : PairSt → PairSt) (b : Block) : (modPair f b).ports = b.ports := rfl
@[simp] theorem modPair_prp (f : PairSt → PairSt) (b : Block) : (modPair f b).prp = b.prp := rfl
@[simp] theorem modPair_evr (f : PairSt → PairSt) (b : Block) : (modPair f b).evr = b.evr := rfl
@[simp] theorem modPair_mram (f : PairSt → PairSt) (b : Block) : (modPair f b).mram = b.mram := rfl
@[simp] theorem modPair_bist (f : PairSt → PairSt) (b : Block) : (modPair f b).bist = b.bist := rfl
@[simp] theorem modPair_keys (f : PairSt → PairSt) (b : Block) : (modPair f b).keys = b.keys := rfl
@[simp] theorem modPair_glean (f : PairSt → PairSt) (b : Block) : (modPair f b).glean = b.glean := rfl
@[simp] theorem modPair_gran (f : PairSt → PairSt) (b : Block) : (modPair f b).gran = b.gran := rfl
@[simp] theorem modPair_granMem (f : PairSt → PairSt) (b : Block) : (modPair f b).granMem = b.granMem := rfl
@[simp] theorem modPair_ddr (f : PairSt → PairSt) (b : Block) : (modPair f b).ddr = b.ddr := rfl
@[simp] theorem modPair_pair (f : PairSt → PairSt) (b : Block) : (modPair f b).pair = f b.pair := rfl
@[simp] theorem modPair_mode (f : PairSt → PairSt) (b : Block) : (modPair f b).mode = b.mode := rfl
@[simp] theorem modPair_thr (f : PairSt → PairSt) (b : Block) : (modPair f b).thr = b.thr := rfl
@[simp] theorem modPair_svIn (f : PairSt → PairSt) (b : Block) : (modPair f b).svIn = b.svIn := rfl
@[simp] theorem modPair_chain (f : PairSt → PairSt) (b : Block) : (modPair f b).chain = b.chain := rfl
@[simp] theorem modPair_hk (f : PairSt → PairSt) (b : Block) : (modPair f b).hk = b.hk := rfl
@[simp] theorem modPair_osc (f : PairSt → PairSt) (b : Block) : (modPair f b).osc = b.osc := rfl
@[simp] theorem modPair_isl (f : PairSt → PairSt) (b : Block) : (modPair f b).isl = b.isl := rfl
@[simp] theorem modPair_alm (f : PairSt → PairSt) (b : Block) : (modPair f b).alm = b.alm := rfl
@[simp] theorem modPair_gov (f : PairSt → PairSt) (b : Block) : (modPair f b).gov = b.gov := rfl
@[simp] theorem modPair_cap (f : PairSt → PairSt) (b : Block) : (modPair f b).cap = b.cap := rfl
@[simp] theorem modPair_upd (f : PairSt → PairSt) (b : Block) : (modPair f b).upd = b.upd := rfl
@[simp] theorem modPair_later (f : PairSt → PairSt) (b : Block) : (modPair f b).later = b.later := rfl
@[simp] theorem modPair_silos (f : PairSt → PairSt) (b : Block) : (modPair f b).silos = b.silos := rfl
@[simp] theorem modPair_out (f : PairSt → PairSt) (b : Block) : (modPair f b).out = b.out := rfl
@[simp] theorem modPair_freeCtr (f : PairSt → PairSt) (b : Block) : (modPair f b).freeCtr = b.freeCtr := rfl

/-! modThr changes thr alone. -/

@[simp] theorem modThr_regs (f : ThrSt → ThrSt) (b : Block) : (modThr f b).regs = b.regs := rfl
@[simp] theorem modThr_staged (f : ThrSt → ThrSt) (b : Block) : (modThr f b).staged = b.staged := rfl
@[simp] theorem modThr_held (f : ThrSt → ThrSt) (b : Block) : (modThr f b).held = b.held := rfl
@[simp] theorem modThr_frozen (f : ThrSt → ThrSt) (b : Block) : (modThr f b).frozen = b.frozen := rfl
@[simp] theorem modThr_host (f : ThrSt → ThrSt) (b : Block) : (modThr f b).host = b.host := rfl
@[simp] theorem modThr_side (f : ThrSt → ThrSt) (b : Block) : (modThr f b).side = b.side := rfl
@[simp] theorem modThr_msixMask (f : ThrSt → ThrSt) (b : Block) : (modThr f b).msixMask = b.msixMask := rfl
@[simp] theorem modThr_msixPend (f : ThrSt → ThrSt) (b : Block) : (modThr f b).msixPend = b.msixPend := rfl
@[simp] theorem modThr_sb (f : ThrSt → ThrSt) (b : Block) : (modThr f b).sb = b.sb := rfl
@[simp] theorem modThr_wdogKickAt (f : ThrSt → ThrSt) (b : Block) : (modThr f b).wdogKickAt = b.wdogKickAt := rfl
@[simp] theorem modThr_wdogRuns (f : ThrSt → ThrSt) (b : Block) : (modThr f b).wdogRuns = b.wdogRuns := rfl
@[simp] theorem modThr_dev (f : ThrSt → ThrSt) (b : Block) : (modThr f b).dev = b.dev := rfl
@[simp] theorem modThr_settings (f : ThrSt → ThrSt) (b : Block) : (modThr f b).settings = b.settings := rfl
@[simp] theorem modThr_supply (f : ThrSt → ThrSt) (b : Block) : (modThr f b).supply = b.supply := rfl
@[simp] theorem modThr_balls (f : ThrSt → ThrSt) (b : Block) : (modThr f b).balls = b.balls := rfl
@[simp] theorem modThr_time (f : ThrSt → ThrSt) (b : Block) : (modThr f b).time = b.time := rfl
@[simp] theorem modThr_ports (f : ThrSt → ThrSt) (b : Block) : (modThr f b).ports = b.ports := rfl
@[simp] theorem modThr_prp (f : ThrSt → ThrSt) (b : Block) : (modThr f b).prp = b.prp := rfl
@[simp] theorem modThr_evr (f : ThrSt → ThrSt) (b : Block) : (modThr f b).evr = b.evr := rfl
@[simp] theorem modThr_mram (f : ThrSt → ThrSt) (b : Block) : (modThr f b).mram = b.mram := rfl
@[simp] theorem modThr_bist (f : ThrSt → ThrSt) (b : Block) : (modThr f b).bist = b.bist := rfl
@[simp] theorem modThr_keys (f : ThrSt → ThrSt) (b : Block) : (modThr f b).keys = b.keys := rfl
@[simp] theorem modThr_glean (f : ThrSt → ThrSt) (b : Block) : (modThr f b).glean = b.glean := rfl
@[simp] theorem modThr_gran (f : ThrSt → ThrSt) (b : Block) : (modThr f b).gran = b.gran := rfl
@[simp] theorem modThr_granMem (f : ThrSt → ThrSt) (b : Block) : (modThr f b).granMem = b.granMem := rfl
@[simp] theorem modThr_ddr (f : ThrSt → ThrSt) (b : Block) : (modThr f b).ddr = b.ddr := rfl
@[simp] theorem modThr_pair (f : ThrSt → ThrSt) (b : Block) : (modThr f b).pair = b.pair := rfl
@[simp] theorem modThr_mode (f : ThrSt → ThrSt) (b : Block) : (modThr f b).mode = b.mode := rfl
@[simp] theorem modThr_thr (f : ThrSt → ThrSt) (b : Block) : (modThr f b).thr = f b.thr := rfl
@[simp] theorem modThr_svIn (f : ThrSt → ThrSt) (b : Block) : (modThr f b).svIn = b.svIn := rfl
@[simp] theorem modThr_chain (f : ThrSt → ThrSt) (b : Block) : (modThr f b).chain = b.chain := rfl
@[simp] theorem modThr_hk (f : ThrSt → ThrSt) (b : Block) : (modThr f b).hk = b.hk := rfl
@[simp] theorem modThr_osc (f : ThrSt → ThrSt) (b : Block) : (modThr f b).osc = b.osc := rfl
@[simp] theorem modThr_isl (f : ThrSt → ThrSt) (b : Block) : (modThr f b).isl = b.isl := rfl
@[simp] theorem modThr_alm (f : ThrSt → ThrSt) (b : Block) : (modThr f b).alm = b.alm := rfl
@[simp] theorem modThr_gov (f : ThrSt → ThrSt) (b : Block) : (modThr f b).gov = b.gov := rfl
@[simp] theorem modThr_cap (f : ThrSt → ThrSt) (b : Block) : (modThr f b).cap = b.cap := rfl
@[simp] theorem modThr_upd (f : ThrSt → ThrSt) (b : Block) : (modThr f b).upd = b.upd := rfl
@[simp] theorem modThr_later (f : ThrSt → ThrSt) (b : Block) : (modThr f b).later = b.later := rfl
@[simp] theorem modThr_silos (f : ThrSt → ThrSt) (b : Block) : (modThr f b).silos = b.silos := rfl
@[simp] theorem modThr_out (f : ThrSt → ThrSt) (b : Block) : (modThr f b).out = b.out := rfl
@[simp] theorem modThr_freeCtr (f : ThrSt → ThrSt) (b : Block) : (modThr f b).freeCtr = b.freeCtr := rfl

/-! modPrp changes prp alone. -/

@[simp] theorem modPrp_regs (f : PrpSt → PrpSt) (b : Block) : (modPrp f b).regs = b.regs := rfl
@[simp] theorem modPrp_staged (f : PrpSt → PrpSt) (b : Block) : (modPrp f b).staged = b.staged := rfl
@[simp] theorem modPrp_held (f : PrpSt → PrpSt) (b : Block) : (modPrp f b).held = b.held := rfl
@[simp] theorem modPrp_frozen (f : PrpSt → PrpSt) (b : Block) : (modPrp f b).frozen = b.frozen := rfl
@[simp] theorem modPrp_host (f : PrpSt → PrpSt) (b : Block) : (modPrp f b).host = b.host := rfl
@[simp] theorem modPrp_side (f : PrpSt → PrpSt) (b : Block) : (modPrp f b).side = b.side := rfl
@[simp] theorem modPrp_msixMask (f : PrpSt → PrpSt) (b : Block) : (modPrp f b).msixMask = b.msixMask := rfl
@[simp] theorem modPrp_msixPend (f : PrpSt → PrpSt) (b : Block) : (modPrp f b).msixPend = b.msixPend := rfl
@[simp] theorem modPrp_sb (f : PrpSt → PrpSt) (b : Block) : (modPrp f b).sb = b.sb := rfl
@[simp] theorem modPrp_wdogKickAt (f : PrpSt → PrpSt) (b : Block) : (modPrp f b).wdogKickAt = b.wdogKickAt := rfl
@[simp] theorem modPrp_wdogRuns (f : PrpSt → PrpSt) (b : Block) : (modPrp f b).wdogRuns = b.wdogRuns := rfl
@[simp] theorem modPrp_dev (f : PrpSt → PrpSt) (b : Block) : (modPrp f b).dev = b.dev := rfl
@[simp] theorem modPrp_settings (f : PrpSt → PrpSt) (b : Block) : (modPrp f b).settings = b.settings := rfl
@[simp] theorem modPrp_supply (f : PrpSt → PrpSt) (b : Block) : (modPrp f b).supply = b.supply := rfl
@[simp] theorem modPrp_balls (f : PrpSt → PrpSt) (b : Block) : (modPrp f b).balls = b.balls := rfl
@[simp] theorem modPrp_time (f : PrpSt → PrpSt) (b : Block) : (modPrp f b).time = b.time := rfl
@[simp] theorem modPrp_ports (f : PrpSt → PrpSt) (b : Block) : (modPrp f b).ports = b.ports := rfl
@[simp] theorem modPrp_prp (f : PrpSt → PrpSt) (b : Block) : (modPrp f b).prp = f b.prp := rfl
@[simp] theorem modPrp_evr (f : PrpSt → PrpSt) (b : Block) : (modPrp f b).evr = b.evr := rfl
@[simp] theorem modPrp_mram (f : PrpSt → PrpSt) (b : Block) : (modPrp f b).mram = b.mram := rfl
@[simp] theorem modPrp_bist (f : PrpSt → PrpSt) (b : Block) : (modPrp f b).bist = b.bist := rfl
@[simp] theorem modPrp_keys (f : PrpSt → PrpSt) (b : Block) : (modPrp f b).keys = b.keys := rfl
@[simp] theorem modPrp_glean (f : PrpSt → PrpSt) (b : Block) : (modPrp f b).glean = b.glean := rfl
@[simp] theorem modPrp_gran (f : PrpSt → PrpSt) (b : Block) : (modPrp f b).gran = b.gran := rfl
@[simp] theorem modPrp_granMem (f : PrpSt → PrpSt) (b : Block) : (modPrp f b).granMem = b.granMem := rfl
@[simp] theorem modPrp_ddr (f : PrpSt → PrpSt) (b : Block) : (modPrp f b).ddr = b.ddr := rfl
@[simp] theorem modPrp_pair (f : PrpSt → PrpSt) (b : Block) : (modPrp f b).pair = b.pair := rfl
@[simp] theorem modPrp_mode (f : PrpSt → PrpSt) (b : Block) : (modPrp f b).mode = b.mode := rfl
@[simp] theorem modPrp_thr (f : PrpSt → PrpSt) (b : Block) : (modPrp f b).thr = b.thr := rfl
@[simp] theorem modPrp_svIn (f : PrpSt → PrpSt) (b : Block) : (modPrp f b).svIn = b.svIn := rfl
@[simp] theorem modPrp_chain (f : PrpSt → PrpSt) (b : Block) : (modPrp f b).chain = b.chain := rfl
@[simp] theorem modPrp_hk (f : PrpSt → PrpSt) (b : Block) : (modPrp f b).hk = b.hk := rfl
@[simp] theorem modPrp_osc (f : PrpSt → PrpSt) (b : Block) : (modPrp f b).osc = b.osc := rfl
@[simp] theorem modPrp_isl (f : PrpSt → PrpSt) (b : Block) : (modPrp f b).isl = b.isl := rfl
@[simp] theorem modPrp_alm (f : PrpSt → PrpSt) (b : Block) : (modPrp f b).alm = b.alm := rfl
@[simp] theorem modPrp_gov (f : PrpSt → PrpSt) (b : Block) : (modPrp f b).gov = b.gov := rfl
@[simp] theorem modPrp_cap (f : PrpSt → PrpSt) (b : Block) : (modPrp f b).cap = b.cap := rfl
@[simp] theorem modPrp_upd (f : PrpSt → PrpSt) (b : Block) : (modPrp f b).upd = b.upd := rfl
@[simp] theorem modPrp_later (f : PrpSt → PrpSt) (b : Block) : (modPrp f b).later = b.later := rfl
@[simp] theorem modPrp_silos (f : PrpSt → PrpSt) (b : Block) : (modPrp f b).silos = b.silos := rfl
@[simp] theorem modPrp_out (f : PrpSt → PrpSt) (b : Block) : (modPrp f b).out = b.out := rfl
@[simp] theorem modPrp_freeCtr (f : PrpSt → PrpSt) (b : Block) : (modPrp f b).freeCtr = b.freeCtr := rfl

/-! modSet changes settings alone. -/

@[simp] theorem modSet_regs (f : Settings → Settings) (b : Block) : (modSet f b).regs = b.regs := rfl
@[simp] theorem modSet_staged (f : Settings → Settings) (b : Block) : (modSet f b).staged = b.staged := rfl
@[simp] theorem modSet_held (f : Settings → Settings) (b : Block) : (modSet f b).held = b.held := rfl
@[simp] theorem modSet_frozen (f : Settings → Settings) (b : Block) : (modSet f b).frozen = b.frozen := rfl
@[simp] theorem modSet_host (f : Settings → Settings) (b : Block) : (modSet f b).host = b.host := rfl
@[simp] theorem modSet_side (f : Settings → Settings) (b : Block) : (modSet f b).side = b.side := rfl
@[simp] theorem modSet_msixMask (f : Settings → Settings) (b : Block) : (modSet f b).msixMask = b.msixMask := rfl
@[simp] theorem modSet_msixPend (f : Settings → Settings) (b : Block) : (modSet f b).msixPend = b.msixPend := rfl
@[simp] theorem modSet_sb (f : Settings → Settings) (b : Block) : (modSet f b).sb = b.sb := rfl
@[simp] theorem modSet_wdogKickAt (f : Settings → Settings) (b : Block) : (modSet f b).wdogKickAt = b.wdogKickAt := rfl
@[simp] theorem modSet_wdogRuns (f : Settings → Settings) (b : Block) : (modSet f b).wdogRuns = b.wdogRuns := rfl
@[simp] theorem modSet_dev (f : Settings → Settings) (b : Block) : (modSet f b).dev = b.dev := rfl
@[simp] theorem modSet_settings (f : Settings → Settings) (b : Block) : (modSet f b).settings = f b.settings := rfl
@[simp] theorem modSet_supply (f : Settings → Settings) (b : Block) : (modSet f b).supply = b.supply := rfl
@[simp] theorem modSet_balls (f : Settings → Settings) (b : Block) : (modSet f b).balls = b.balls := rfl
@[simp] theorem modSet_time (f : Settings → Settings) (b : Block) : (modSet f b).time = b.time := rfl
@[simp] theorem modSet_ports (f : Settings → Settings) (b : Block) : (modSet f b).ports = b.ports := rfl
@[simp] theorem modSet_prp (f : Settings → Settings) (b : Block) : (modSet f b).prp = b.prp := rfl
@[simp] theorem modSet_evr (f : Settings → Settings) (b : Block) : (modSet f b).evr = b.evr := rfl
@[simp] theorem modSet_mram (f : Settings → Settings) (b : Block) : (modSet f b).mram = b.mram := rfl
@[simp] theorem modSet_bist (f : Settings → Settings) (b : Block) : (modSet f b).bist = b.bist := rfl
@[simp] theorem modSet_keys (f : Settings → Settings) (b : Block) : (modSet f b).keys = b.keys := rfl
@[simp] theorem modSet_glean (f : Settings → Settings) (b : Block) : (modSet f b).glean = b.glean := rfl
@[simp] theorem modSet_gran (f : Settings → Settings) (b : Block) : (modSet f b).gran = b.gran := rfl
@[simp] theorem modSet_granMem (f : Settings → Settings) (b : Block) : (modSet f b).granMem = b.granMem := rfl
@[simp] theorem modSet_ddr (f : Settings → Settings) (b : Block) : (modSet f b).ddr = b.ddr := rfl
@[simp] theorem modSet_pair (f : Settings → Settings) (b : Block) : (modSet f b).pair = b.pair := rfl
@[simp] theorem modSet_mode (f : Settings → Settings) (b : Block) : (modSet f b).mode = b.mode := rfl
@[simp] theorem modSet_thr (f : Settings → Settings) (b : Block) : (modSet f b).thr = b.thr := rfl
@[simp] theorem modSet_svIn (f : Settings → Settings) (b : Block) : (modSet f b).svIn = b.svIn := rfl
@[simp] theorem modSet_chain (f : Settings → Settings) (b : Block) : (modSet f b).chain = b.chain := rfl
@[simp] theorem modSet_hk (f : Settings → Settings) (b : Block) : (modSet f b).hk = b.hk := rfl
@[simp] theorem modSet_osc (f : Settings → Settings) (b : Block) : (modSet f b).osc = b.osc := rfl
@[simp] theorem modSet_isl (f : Settings → Settings) (b : Block) : (modSet f b).isl = b.isl := rfl
@[simp] theorem modSet_alm (f : Settings → Settings) (b : Block) : (modSet f b).alm = b.alm := rfl
@[simp] theorem modSet_gov (f : Settings → Settings) (b : Block) : (modSet f b).gov = b.gov := rfl
@[simp] theorem modSet_cap (f : Settings → Settings) (b : Block) : (modSet f b).cap = b.cap := rfl
@[simp] theorem modSet_upd (f : Settings → Settings) (b : Block) : (modSet f b).upd = b.upd := rfl
@[simp] theorem modSet_later (f : Settings → Settings) (b : Block) : (modSet f b).later = b.later := rfl
@[simp] theorem modSet_silos (f : Settings → Settings) (b : Block) : (modSet f b).silos = b.silos := rfl
@[simp] theorem modSet_out (f : Settings → Settings) (b : Block) : (modSet f b).out = b.out := rfl
@[simp] theorem modSet_freeCtr (f : Settings → Settings) (b : Block) : (modSet f b).freeCtr = b.freeCtr := rfl

/-! modTime changes time alone. -/

@[simp] theorem modTime_regs (f : TimeSt → TimeSt) (b : Block) : (modTime f b).regs = b.regs := rfl
@[simp] theorem modTime_staged (f : TimeSt → TimeSt) (b : Block) : (modTime f b).staged = b.staged := rfl
@[simp] theorem modTime_held (f : TimeSt → TimeSt) (b : Block) : (modTime f b).held = b.held := rfl
@[simp] theorem modTime_frozen (f : TimeSt → TimeSt) (b : Block) : (modTime f b).frozen = b.frozen := rfl
@[simp] theorem modTime_host (f : TimeSt → TimeSt) (b : Block) : (modTime f b).host = b.host := rfl
@[simp] theorem modTime_side (f : TimeSt → TimeSt) (b : Block) : (modTime f b).side = b.side := rfl
@[simp] theorem modTime_msixMask (f : TimeSt → TimeSt) (b : Block) : (modTime f b).msixMask = b.msixMask := rfl
@[simp] theorem modTime_msixPend (f : TimeSt → TimeSt) (b : Block) : (modTime f b).msixPend = b.msixPend := rfl
@[simp] theorem modTime_sb (f : TimeSt → TimeSt) (b : Block) : (modTime f b).sb = b.sb := rfl
@[simp] theorem modTime_wdogKickAt (f : TimeSt → TimeSt) (b : Block) : (modTime f b).wdogKickAt = b.wdogKickAt := rfl
@[simp] theorem modTime_wdogRuns (f : TimeSt → TimeSt) (b : Block) : (modTime f b).wdogRuns = b.wdogRuns := rfl
@[simp] theorem modTime_dev (f : TimeSt → TimeSt) (b : Block) : (modTime f b).dev = b.dev := rfl
@[simp] theorem modTime_settings (f : TimeSt → TimeSt) (b : Block) : (modTime f b).settings = b.settings := rfl
@[simp] theorem modTime_supply (f : TimeSt → TimeSt) (b : Block) : (modTime f b).supply = b.supply := rfl
@[simp] theorem modTime_balls (f : TimeSt → TimeSt) (b : Block) : (modTime f b).balls = b.balls := rfl
@[simp] theorem modTime_time (f : TimeSt → TimeSt) (b : Block) : (modTime f b).time = f b.time := rfl
@[simp] theorem modTime_ports (f : TimeSt → TimeSt) (b : Block) : (modTime f b).ports = b.ports := rfl
@[simp] theorem modTime_prp (f : TimeSt → TimeSt) (b : Block) : (modTime f b).prp = b.prp := rfl
@[simp] theorem modTime_evr (f : TimeSt → TimeSt) (b : Block) : (modTime f b).evr = b.evr := rfl
@[simp] theorem modTime_mram (f : TimeSt → TimeSt) (b : Block) : (modTime f b).mram = b.mram := rfl
@[simp] theorem modTime_bist (f : TimeSt → TimeSt) (b : Block) : (modTime f b).bist = b.bist := rfl
@[simp] theorem modTime_keys (f : TimeSt → TimeSt) (b : Block) : (modTime f b).keys = b.keys := rfl
@[simp] theorem modTime_glean (f : TimeSt → TimeSt) (b : Block) : (modTime f b).glean = b.glean := rfl
@[simp] theorem modTime_gran (f : TimeSt → TimeSt) (b : Block) : (modTime f b).gran = b.gran := rfl
@[simp] theorem modTime_granMem (f : TimeSt → TimeSt) (b : Block) : (modTime f b).granMem = b.granMem := rfl
@[simp] theorem modTime_ddr (f : TimeSt → TimeSt) (b : Block) : (modTime f b).ddr = b.ddr := rfl
@[simp] theorem modTime_pair (f : TimeSt → TimeSt) (b : Block) : (modTime f b).pair = b.pair := rfl
@[simp] theorem modTime_mode (f : TimeSt → TimeSt) (b : Block) : (modTime f b).mode = b.mode := rfl
@[simp] theorem modTime_thr (f : TimeSt → TimeSt) (b : Block) : (modTime f b).thr = b.thr := rfl
@[simp] theorem modTime_svIn (f : TimeSt → TimeSt) (b : Block) : (modTime f b).svIn = b.svIn := rfl
@[simp] theorem modTime_chain (f : TimeSt → TimeSt) (b : Block) : (modTime f b).chain = b.chain := rfl
@[simp] theorem modTime_hk (f : TimeSt → TimeSt) (b : Block) : (modTime f b).hk = b.hk := rfl
@[simp] theorem modTime_osc (f : TimeSt → TimeSt) (b : Block) : (modTime f b).osc = b.osc := rfl
@[simp] theorem modTime_isl (f : TimeSt → TimeSt) (b : Block) : (modTime f b).isl = b.isl := rfl
@[simp] theorem modTime_alm (f : TimeSt → TimeSt) (b : Block) : (modTime f b).alm = b.alm := rfl
@[simp] theorem modTime_gov (f : TimeSt → TimeSt) (b : Block) : (modTime f b).gov = b.gov := rfl
@[simp] theorem modTime_cap (f : TimeSt → TimeSt) (b : Block) : (modTime f b).cap = b.cap := rfl
@[simp] theorem modTime_upd (f : TimeSt → TimeSt) (b : Block) : (modTime f b).upd = b.upd := rfl
@[simp] theorem modTime_later (f : TimeSt → TimeSt) (b : Block) : (modTime f b).later = b.later := rfl
@[simp] theorem modTime_silos (f : TimeSt → TimeSt) (b : Block) : (modTime f b).silos = b.silos := rfl
@[simp] theorem modTime_out (f : TimeSt → TimeSt) (b : Block) : (modTime f b).out = b.out := rfl
@[simp] theorem modTime_freeCtr (f : TimeSt → TimeSt) (b : Block) : (modTime f b).freeCtr = b.freeCtr := rfl

/-! modAgent changes host, side alone. -/

@[simp] theorem modAgent_regs (ag : Agent) (f : AgentSt → AgentSt) (b : Block) : (modAgent ag f b).regs = b.regs := by cases ag <;> rfl
@[simp] theorem modAgent_staged (ag : Agent) (f : AgentSt → AgentSt) (b : Block) : (modAgent ag f b).staged = b.staged := by cases ag <;> rfl
@[simp] theorem modAgent_held (ag : Agent) (f : AgentSt → AgentSt) (b : Block) : (modAgent ag f b).held = b.held := by cases ag <;> rfl
@[simp] theorem modAgent_frozen (ag : Agent) (f : AgentSt → AgentSt) (b : Block) : (modAgent ag f b).frozen = b.frozen := by cases ag <;> rfl
@[simp] theorem modAgent_msixMask (ag : Agent) (f : AgentSt → AgentSt) (b : Block) : (modAgent ag f b).msixMask = b.msixMask := by cases ag <;> rfl
@[simp] theorem modAgent_msixPend (ag : Agent) (f : AgentSt → AgentSt) (b : Block) : (modAgent ag f b).msixPend = b.msixPend := by cases ag <;> rfl
@[simp] theorem modAgent_sb (ag : Agent) (f : AgentSt → AgentSt) (b : Block) : (modAgent ag f b).sb = b.sb := by cases ag <;> rfl
@[simp] theorem modAgent_wdogKickAt (ag : Agent) (f : AgentSt → AgentSt) (b : Block) : (modAgent ag f b).wdogKickAt = b.wdogKickAt := by cases ag <;> rfl
@[simp] theorem modAgent_wdogRuns (ag : Agent) (f : AgentSt → AgentSt) (b : Block) : (modAgent ag f b).wdogRuns = b.wdogRuns := by cases ag <;> rfl
@[simp] theorem modAgent_dev (ag : Agent) (f : AgentSt → AgentSt) (b : Block) : (modAgent ag f b).dev = b.dev := by cases ag <;> rfl
@[simp] theorem modAgent_settings (ag : Agent) (f : AgentSt → AgentSt) (b : Block) : (modAgent ag f b).settings = b.settings := by cases ag <;> rfl
@[simp] theorem modAgent_supply (ag : Agent) (f : AgentSt → AgentSt) (b : Block) : (modAgent ag f b).supply = b.supply := by cases ag <;> rfl
@[simp] theorem modAgent_balls (ag : Agent) (f : AgentSt → AgentSt) (b : Block) : (modAgent ag f b).balls = b.balls := by cases ag <;> rfl
@[simp] theorem modAgent_time (ag : Agent) (f : AgentSt → AgentSt) (b : Block) : (modAgent ag f b).time = b.time := by cases ag <;> rfl
@[simp] theorem modAgent_ports (ag : Agent) (f : AgentSt → AgentSt) (b : Block) : (modAgent ag f b).ports = b.ports := by cases ag <;> rfl
@[simp] theorem modAgent_prp (ag : Agent) (f : AgentSt → AgentSt) (b : Block) : (modAgent ag f b).prp = b.prp := by cases ag <;> rfl
@[simp] theorem modAgent_evr (ag : Agent) (f : AgentSt → AgentSt) (b : Block) : (modAgent ag f b).evr = b.evr := by cases ag <;> rfl
@[simp] theorem modAgent_mram (ag : Agent) (f : AgentSt → AgentSt) (b : Block) : (modAgent ag f b).mram = b.mram := by cases ag <;> rfl
@[simp] theorem modAgent_bist (ag : Agent) (f : AgentSt → AgentSt) (b : Block) : (modAgent ag f b).bist = b.bist := by cases ag <;> rfl
@[simp] theorem modAgent_keys (ag : Agent) (f : AgentSt → AgentSt) (b : Block) : (modAgent ag f b).keys = b.keys := by cases ag <;> rfl
@[simp] theorem modAgent_glean (ag : Agent) (f : AgentSt → AgentSt) (b : Block) : (modAgent ag f b).glean = b.glean := by cases ag <;> rfl
@[simp] theorem modAgent_gran (ag : Agent) (f : AgentSt → AgentSt) (b : Block) : (modAgent ag f b).gran = b.gran := by cases ag <;> rfl
@[simp] theorem modAgent_granMem (ag : Agent) (f : AgentSt → AgentSt) (b : Block) : (modAgent ag f b).granMem = b.granMem := by cases ag <;> rfl
@[simp] theorem modAgent_ddr (ag : Agent) (f : AgentSt → AgentSt) (b : Block) : (modAgent ag f b).ddr = b.ddr := by cases ag <;> rfl
@[simp] theorem modAgent_pair (ag : Agent) (f : AgentSt → AgentSt) (b : Block) : (modAgent ag f b).pair = b.pair := by cases ag <;> rfl
@[simp] theorem modAgent_mode (ag : Agent) (f : AgentSt → AgentSt) (b : Block) : (modAgent ag f b).mode = b.mode := by cases ag <;> rfl
@[simp] theorem modAgent_thr (ag : Agent) (f : AgentSt → AgentSt) (b : Block) : (modAgent ag f b).thr = b.thr := by cases ag <;> rfl
@[simp] theorem modAgent_svIn (ag : Agent) (f : AgentSt → AgentSt) (b : Block) : (modAgent ag f b).svIn = b.svIn := by cases ag <;> rfl
@[simp] theorem modAgent_chain (ag : Agent) (f : AgentSt → AgentSt) (b : Block) : (modAgent ag f b).chain = b.chain := by cases ag <;> rfl
@[simp] theorem modAgent_hk (ag : Agent) (f : AgentSt → AgentSt) (b : Block) : (modAgent ag f b).hk = b.hk := by cases ag <;> rfl
@[simp] theorem modAgent_osc (ag : Agent) (f : AgentSt → AgentSt) (b : Block) : (modAgent ag f b).osc = b.osc := by cases ag <;> rfl
@[simp] theorem modAgent_isl (ag : Agent) (f : AgentSt → AgentSt) (b : Block) : (modAgent ag f b).isl = b.isl := by cases ag <;> rfl
@[simp] theorem modAgent_alm (ag : Agent) (f : AgentSt → AgentSt) (b : Block) : (modAgent ag f b).alm = b.alm := by cases ag <;> rfl
@[simp] theorem modAgent_gov (ag : Agent) (f : AgentSt → AgentSt) (b : Block) : (modAgent ag f b).gov = b.gov := by cases ag <;> rfl
@[simp] theorem modAgent_cap (ag : Agent) (f : AgentSt → AgentSt) (b : Block) : (modAgent ag f b).cap = b.cap := by cases ag <;> rfl
@[simp] theorem modAgent_upd (ag : Agent) (f : AgentSt → AgentSt) (b : Block) : (modAgent ag f b).upd = b.upd := by cases ag <;> rfl
@[simp] theorem modAgent_later (ag : Agent) (f : AgentSt → AgentSt) (b : Block) : (modAgent ag f b).later = b.later := by cases ag <;> rfl
@[simp] theorem modAgent_silos (ag : Agent) (f : AgentSt → AgentSt) (b : Block) : (modAgent ag f b).silos = b.silos := by cases ag <;> rfl
@[simp] theorem modAgent_out (ag : Agent) (f : AgentSt → AgentSt) (b : Block) : (modAgent ag f b).out = b.out := by cases ag <;> rfl
@[simp] theorem modAgent_freeCtr (ag : Agent) (f : AgentSt → AgentSt) (b : Block) : (modAgent ag f b).freeCtr = b.freeCtr := by cases ag <;> rfl

@[simp] theorem modAgent_agent (ag : Agent) (f : AgentSt → AgentSt) (b : Block) : (modAgent ag f b).agent ag = f (b.agent ag) := by
  cases ag <;> rfl

/-! modSilo changes silos alone. -/

@[simp] theorem modSilo_regs (q : Nat) (f : Silo → Silo) (b : Block) : (modSilo q f b).regs = b.regs := by unfold modSilo; split <;> rfl
@[simp] theorem modSilo_staged (q : Nat) (f : Silo → Silo) (b : Block) : (modSilo q f b).staged = b.staged := by unfold modSilo; split <;> rfl
@[simp] theorem modSilo_held (q : Nat) (f : Silo → Silo) (b : Block) : (modSilo q f b).held = b.held := by unfold modSilo; split <;> rfl
@[simp] theorem modSilo_frozen (q : Nat) (f : Silo → Silo) (b : Block) : (modSilo q f b).frozen = b.frozen := by unfold modSilo; split <;> rfl
@[simp] theorem modSilo_host (q : Nat) (f : Silo → Silo) (b : Block) : (modSilo q f b).host = b.host := by unfold modSilo; split <;> rfl
@[simp] theorem modSilo_side (q : Nat) (f : Silo → Silo) (b : Block) : (modSilo q f b).side = b.side := by unfold modSilo; split <;> rfl
@[simp] theorem modSilo_msixMask (q : Nat) (f : Silo → Silo) (b : Block) : (modSilo q f b).msixMask = b.msixMask := by unfold modSilo; split <;> rfl
@[simp] theorem modSilo_msixPend (q : Nat) (f : Silo → Silo) (b : Block) : (modSilo q f b).msixPend = b.msixPend := by unfold modSilo; split <;> rfl
@[simp] theorem modSilo_sb (q : Nat) (f : Silo → Silo) (b : Block) : (modSilo q f b).sb = b.sb := by unfold modSilo; split <;> rfl
@[simp] theorem modSilo_wdogKickAt (q : Nat) (f : Silo → Silo) (b : Block) : (modSilo q f b).wdogKickAt = b.wdogKickAt := by unfold modSilo; split <;> rfl
@[simp] theorem modSilo_wdogRuns (q : Nat) (f : Silo → Silo) (b : Block) : (modSilo q f b).wdogRuns = b.wdogRuns := by unfold modSilo; split <;> rfl
@[simp] theorem modSilo_dev (q : Nat) (f : Silo → Silo) (b : Block) : (modSilo q f b).dev = b.dev := by unfold modSilo; split <;> rfl
@[simp] theorem modSilo_settings (q : Nat) (f : Silo → Silo) (b : Block) : (modSilo q f b).settings = b.settings := by unfold modSilo; split <;> rfl
@[simp] theorem modSilo_supply (q : Nat) (f : Silo → Silo) (b : Block) : (modSilo q f b).supply = b.supply := by unfold modSilo; split <;> rfl
@[simp] theorem modSilo_balls (q : Nat) (f : Silo → Silo) (b : Block) : (modSilo q f b).balls = b.balls := by unfold modSilo; split <;> rfl
@[simp] theorem modSilo_time (q : Nat) (f : Silo → Silo) (b : Block) : (modSilo q f b).time = b.time := by unfold modSilo; split <;> rfl
@[simp] theorem modSilo_ports (q : Nat) (f : Silo → Silo) (b : Block) : (modSilo q f b).ports = b.ports := by unfold modSilo; split <;> rfl
@[simp] theorem modSilo_prp (q : Nat) (f : Silo → Silo) (b : Block) : (modSilo q f b).prp = b.prp := by unfold modSilo; split <;> rfl
@[simp] theorem modSilo_evr (q : Nat) (f : Silo → Silo) (b : Block) : (modSilo q f b).evr = b.evr := by unfold modSilo; split <;> rfl
@[simp] theorem modSilo_mram (q : Nat) (f : Silo → Silo) (b : Block) : (modSilo q f b).mram = b.mram := by unfold modSilo; split <;> rfl
@[simp] theorem modSilo_bist (q : Nat) (f : Silo → Silo) (b : Block) : (modSilo q f b).bist = b.bist := by unfold modSilo; split <;> rfl
@[simp] theorem modSilo_keys (q : Nat) (f : Silo → Silo) (b : Block) : (modSilo q f b).keys = b.keys := by unfold modSilo; split <;> rfl
@[simp] theorem modSilo_glean (q : Nat) (f : Silo → Silo) (b : Block) : (modSilo q f b).glean = b.glean := by unfold modSilo; split <;> rfl
@[simp] theorem modSilo_gran (q : Nat) (f : Silo → Silo) (b : Block) : (modSilo q f b).gran = b.gran := by unfold modSilo; split <;> rfl
@[simp] theorem modSilo_granMem (q : Nat) (f : Silo → Silo) (b : Block) : (modSilo q f b).granMem = b.granMem := by unfold modSilo; split <;> rfl
@[simp] theorem modSilo_ddr (q : Nat) (f : Silo → Silo) (b : Block) : (modSilo q f b).ddr = b.ddr := by unfold modSilo; split <;> rfl
@[simp] theorem modSilo_pair (q : Nat) (f : Silo → Silo) (b : Block) : (modSilo q f b).pair = b.pair := by unfold modSilo; split <;> rfl
@[simp] theorem modSilo_mode (q : Nat) (f : Silo → Silo) (b : Block) : (modSilo q f b).mode = b.mode := by unfold modSilo; split <;> rfl
@[simp] theorem modSilo_thr (q : Nat) (f : Silo → Silo) (b : Block) : (modSilo q f b).thr = b.thr := by unfold modSilo; split <;> rfl
@[simp] theorem modSilo_svIn (q : Nat) (f : Silo → Silo) (b : Block) : (modSilo q f b).svIn = b.svIn := by unfold modSilo; split <;> rfl
@[simp] theorem modSilo_chain (q : Nat) (f : Silo → Silo) (b : Block) : (modSilo q f b).chain = b.chain := by unfold modSilo; split <;> rfl
@[simp] theorem modSilo_hk (q : Nat) (f : Silo → Silo) (b : Block) : (modSilo q f b).hk = b.hk := by unfold modSilo; split <;> rfl
@[simp] theorem modSilo_osc (q : Nat) (f : Silo → Silo) (b : Block) : (modSilo q f b).osc = b.osc := by unfold modSilo; split <;> rfl
@[simp] theorem modSilo_isl (q : Nat) (f : Silo → Silo) (b : Block) : (modSilo q f b).isl = b.isl := by unfold modSilo; split <;> rfl
@[simp] theorem modSilo_alm (q : Nat) (f : Silo → Silo) (b : Block) : (modSilo q f b).alm = b.alm := by unfold modSilo; split <;> rfl
@[simp] theorem modSilo_gov (q : Nat) (f : Silo → Silo) (b : Block) : (modSilo q f b).gov = b.gov := by unfold modSilo; split <;> rfl
@[simp] theorem modSilo_cap (q : Nat) (f : Silo → Silo) (b : Block) : (modSilo q f b).cap = b.cap := by unfold modSilo; split <;> rfl
@[simp] theorem modSilo_upd (q : Nat) (f : Silo → Silo) (b : Block) : (modSilo q f b).upd = b.upd := by unfold modSilo; split <;> rfl
@[simp] theorem modSilo_later (q : Nat) (f : Silo → Silo) (b : Block) : (modSilo q f b).later = b.later := by unfold modSilo; split <;> rfl
@[simp] theorem modSilo_out (q : Nat) (f : Silo → Silo) (b : Block) : (modSilo q f b).out = b.out := by unfold modSilo; split <;> rfl
@[simp] theorem modSilo_freeCtr (q : Nat) (f : Silo → Silo) (b : Block) : (modSilo q f b).freeCtr = b.freeCtr := by unfold modSilo; split <;> rfl

@[simp] theorem modSilo_silo {q : Nat} (h : q < 64) (f : Silo → Silo) (b : Block) : (modSilo q f b).silo q = f (b.silo q) := by
  simp [modSilo, h, Block.silo]

/-! modPort changes ports alone. -/

@[simp] theorem modPort_regs (p : Nat) (f : PortSt → PortSt) (b : Block) : (modPort p f b).regs = b.regs := by unfold modPort; split <;> rfl
@[simp] theorem modPort_staged (p : Nat) (f : PortSt → PortSt) (b : Block) : (modPort p f b).staged = b.staged := by unfold modPort; split <;> rfl
@[simp] theorem modPort_held (p : Nat) (f : PortSt → PortSt) (b : Block) : (modPort p f b).held = b.held := by unfold modPort; split <;> rfl
@[simp] theorem modPort_frozen (p : Nat) (f : PortSt → PortSt) (b : Block) : (modPort p f b).frozen = b.frozen := by unfold modPort; split <;> rfl
@[simp] theorem modPort_host (p : Nat) (f : PortSt → PortSt) (b : Block) : (modPort p f b).host = b.host := by unfold modPort; split <;> rfl
@[simp] theorem modPort_side (p : Nat) (f : PortSt → PortSt) (b : Block) : (modPort p f b).side = b.side := by unfold modPort; split <;> rfl
@[simp] theorem modPort_msixMask (p : Nat) (f : PortSt → PortSt) (b : Block) : (modPort p f b).msixMask = b.msixMask := by unfold modPort; split <;> rfl
@[simp] theorem modPort_msixPend (p : Nat) (f : PortSt → PortSt) (b : Block) : (modPort p f b).msixPend = b.msixPend := by unfold modPort; split <;> rfl
@[simp] theorem modPort_sb (p : Nat) (f : PortSt → PortSt) (b : Block) : (modPort p f b).sb = b.sb := by unfold modPort; split <;> rfl
@[simp] theorem modPort_wdogKickAt (p : Nat) (f : PortSt → PortSt) (b : Block) : (modPort p f b).wdogKickAt = b.wdogKickAt := by unfold modPort; split <;> rfl
@[simp] theorem modPort_wdogRuns (p : Nat) (f : PortSt → PortSt) (b : Block) : (modPort p f b).wdogRuns = b.wdogRuns := by unfold modPort; split <;> rfl
@[simp] theorem modPort_dev (p : Nat) (f : PortSt → PortSt) (b : Block) : (modPort p f b).dev = b.dev := by unfold modPort; split <;> rfl
@[simp] theorem modPort_settings (p : Nat) (f : PortSt → PortSt) (b : Block) : (modPort p f b).settings = b.settings := by unfold modPort; split <;> rfl
@[simp] theorem modPort_supply (p : Nat) (f : PortSt → PortSt) (b : Block) : (modPort p f b).supply = b.supply := by unfold modPort; split <;> rfl
@[simp] theorem modPort_balls (p : Nat) (f : PortSt → PortSt) (b : Block) : (modPort p f b).balls = b.balls := by unfold modPort; split <;> rfl
@[simp] theorem modPort_time (p : Nat) (f : PortSt → PortSt) (b : Block) : (modPort p f b).time = b.time := by unfold modPort; split <;> rfl
@[simp] theorem modPort_prp (p : Nat) (f : PortSt → PortSt) (b : Block) : (modPort p f b).prp = b.prp := by unfold modPort; split <;> rfl
@[simp] theorem modPort_evr (p : Nat) (f : PortSt → PortSt) (b : Block) : (modPort p f b).evr = b.evr := by unfold modPort; split <;> rfl
@[simp] theorem modPort_mram (p : Nat) (f : PortSt → PortSt) (b : Block) : (modPort p f b).mram = b.mram := by unfold modPort; split <;> rfl
@[simp] theorem modPort_bist (p : Nat) (f : PortSt → PortSt) (b : Block) : (modPort p f b).bist = b.bist := by unfold modPort; split <;> rfl
@[simp] theorem modPort_keys (p : Nat) (f : PortSt → PortSt) (b : Block) : (modPort p f b).keys = b.keys := by unfold modPort; split <;> rfl
@[simp] theorem modPort_glean (p : Nat) (f : PortSt → PortSt) (b : Block) : (modPort p f b).glean = b.glean := by unfold modPort; split <;> rfl
@[simp] theorem modPort_gran (p : Nat) (f : PortSt → PortSt) (b : Block) : (modPort p f b).gran = b.gran := by unfold modPort; split <;> rfl
@[simp] theorem modPort_granMem (p : Nat) (f : PortSt → PortSt) (b : Block) : (modPort p f b).granMem = b.granMem := by unfold modPort; split <;> rfl
@[simp] theorem modPort_ddr (p : Nat) (f : PortSt → PortSt) (b : Block) : (modPort p f b).ddr = b.ddr := by unfold modPort; split <;> rfl
@[simp] theorem modPort_pair (p : Nat) (f : PortSt → PortSt) (b : Block) : (modPort p f b).pair = b.pair := by unfold modPort; split <;> rfl
@[simp] theorem modPort_mode (p : Nat) (f : PortSt → PortSt) (b : Block) : (modPort p f b).mode = b.mode := by unfold modPort; split <;> rfl
@[simp] theorem modPort_thr (p : Nat) (f : PortSt → PortSt) (b : Block) : (modPort p f b).thr = b.thr := by unfold modPort; split <;> rfl
@[simp] theorem modPort_svIn (p : Nat) (f : PortSt → PortSt) (b : Block) : (modPort p f b).svIn = b.svIn := by unfold modPort; split <;> rfl
@[simp] theorem modPort_chain (p : Nat) (f : PortSt → PortSt) (b : Block) : (modPort p f b).chain = b.chain := by unfold modPort; split <;> rfl
@[simp] theorem modPort_hk (p : Nat) (f : PortSt → PortSt) (b : Block) : (modPort p f b).hk = b.hk := by unfold modPort; split <;> rfl
@[simp] theorem modPort_osc (p : Nat) (f : PortSt → PortSt) (b : Block) : (modPort p f b).osc = b.osc := by unfold modPort; split <;> rfl
@[simp] theorem modPort_isl (p : Nat) (f : PortSt → PortSt) (b : Block) : (modPort p f b).isl = b.isl := by unfold modPort; split <;> rfl
@[simp] theorem modPort_alm (p : Nat) (f : PortSt → PortSt) (b : Block) : (modPort p f b).alm = b.alm := by unfold modPort; split <;> rfl
@[simp] theorem modPort_gov (p : Nat) (f : PortSt → PortSt) (b : Block) : (modPort p f b).gov = b.gov := by unfold modPort; split <;> rfl
@[simp] theorem modPort_cap (p : Nat) (f : PortSt → PortSt) (b : Block) : (modPort p f b).cap = b.cap := by unfold modPort; split <;> rfl
@[simp] theorem modPort_upd (p : Nat) (f : PortSt → PortSt) (b : Block) : (modPort p f b).upd = b.upd := by unfold modPort; split <;> rfl
@[simp] theorem modPort_later (p : Nat) (f : PortSt → PortSt) (b : Block) : (modPort p f b).later = b.later := by unfold modPort; split <;> rfl
@[simp] theorem modPort_silos (p : Nat) (f : PortSt → PortSt) (b : Block) : (modPort p f b).silos = b.silos := by unfold modPort; split <;> rfl
@[simp] theorem modPort_out (p : Nat) (f : PortSt → PortSt) (b : Block) : (modPort p f b).out = b.out := by unfold modPort; split <;> rfl
@[simp] theorem modPort_freeCtr (p : Nat) (f : PortSt → PortSt) (b : Block) : (modPort p f b).freeCtr = b.freeCtr := by unfold modPort; split <;> rfl

/-! modEng changes thr alone. -/

@[simp] theorem modEng_regs (p : Nat) (f : EngSt → EngSt) (b : Block) : (modEng p f b).regs = b.regs := by unfold modEng; first | rfl | (split <;> rfl)
@[simp] theorem modEng_staged (p : Nat) (f : EngSt → EngSt) (b : Block) : (modEng p f b).staged = b.staged := by unfold modEng; first | rfl | (split <;> rfl)
@[simp] theorem modEng_held (p : Nat) (f : EngSt → EngSt) (b : Block) : (modEng p f b).held = b.held := by unfold modEng; first | rfl | (split <;> rfl)
@[simp] theorem modEng_frozen (p : Nat) (f : EngSt → EngSt) (b : Block) : (modEng p f b).frozen = b.frozen := by unfold modEng; first | rfl | (split <;> rfl)
@[simp] theorem modEng_host (p : Nat) (f : EngSt → EngSt) (b : Block) : (modEng p f b).host = b.host := by unfold modEng; first | rfl | (split <;> rfl)
@[simp] theorem modEng_side (p : Nat) (f : EngSt → EngSt) (b : Block) : (modEng p f b).side = b.side := by unfold modEng; first | rfl | (split <;> rfl)
@[simp] theorem modEng_msixMask (p : Nat) (f : EngSt → EngSt) (b : Block) : (modEng p f b).msixMask = b.msixMask := by unfold modEng; first | rfl | (split <;> rfl)
@[simp] theorem modEng_msixPend (p : Nat) (f : EngSt → EngSt) (b : Block) : (modEng p f b).msixPend = b.msixPend := by unfold modEng; first | rfl | (split <;> rfl)
@[simp] theorem modEng_sb (p : Nat) (f : EngSt → EngSt) (b : Block) : (modEng p f b).sb = b.sb := by unfold modEng; first | rfl | (split <;> rfl)
@[simp] theorem modEng_wdogKickAt (p : Nat) (f : EngSt → EngSt) (b : Block) : (modEng p f b).wdogKickAt = b.wdogKickAt := by unfold modEng; first | rfl | (split <;> rfl)
@[simp] theorem modEng_wdogRuns (p : Nat) (f : EngSt → EngSt) (b : Block) : (modEng p f b).wdogRuns = b.wdogRuns := by unfold modEng; first | rfl | (split <;> rfl)
@[simp] theorem modEng_dev (p : Nat) (f : EngSt → EngSt) (b : Block) : (modEng p f b).dev = b.dev := by unfold modEng; first | rfl | (split <;> rfl)
@[simp] theorem modEng_settings (p : Nat) (f : EngSt → EngSt) (b : Block) : (modEng p f b).settings = b.settings := by unfold modEng; first | rfl | (split <;> rfl)
@[simp] theorem modEng_supply (p : Nat) (f : EngSt → EngSt) (b : Block) : (modEng p f b).supply = b.supply := by unfold modEng; first | rfl | (split <;> rfl)
@[simp] theorem modEng_balls (p : Nat) (f : EngSt → EngSt) (b : Block) : (modEng p f b).balls = b.balls := by unfold modEng; first | rfl | (split <;> rfl)
@[simp] theorem modEng_time (p : Nat) (f : EngSt → EngSt) (b : Block) : (modEng p f b).time = b.time := by unfold modEng; first | rfl | (split <;> rfl)
@[simp] theorem modEng_ports (p : Nat) (f : EngSt → EngSt) (b : Block) : (modEng p f b).ports = b.ports := by unfold modEng; first | rfl | (split <;> rfl)
@[simp] theorem modEng_prp (p : Nat) (f : EngSt → EngSt) (b : Block) : (modEng p f b).prp = b.prp := by unfold modEng; first | rfl | (split <;> rfl)
@[simp] theorem modEng_evr (p : Nat) (f : EngSt → EngSt) (b : Block) : (modEng p f b).evr = b.evr := by unfold modEng; first | rfl | (split <;> rfl)
@[simp] theorem modEng_mram (p : Nat) (f : EngSt → EngSt) (b : Block) : (modEng p f b).mram = b.mram := by unfold modEng; first | rfl | (split <;> rfl)
@[simp] theorem modEng_bist (p : Nat) (f : EngSt → EngSt) (b : Block) : (modEng p f b).bist = b.bist := by unfold modEng; first | rfl | (split <;> rfl)
@[simp] theorem modEng_keys (p : Nat) (f : EngSt → EngSt) (b : Block) : (modEng p f b).keys = b.keys := by unfold modEng; first | rfl | (split <;> rfl)
@[simp] theorem modEng_glean (p : Nat) (f : EngSt → EngSt) (b : Block) : (modEng p f b).glean = b.glean := by unfold modEng; first | rfl | (split <;> rfl)
@[simp] theorem modEng_gran (p : Nat) (f : EngSt → EngSt) (b : Block) : (modEng p f b).gran = b.gran := by unfold modEng; first | rfl | (split <;> rfl)
@[simp] theorem modEng_granMem (p : Nat) (f : EngSt → EngSt) (b : Block) : (modEng p f b).granMem = b.granMem := by unfold modEng; first | rfl | (split <;> rfl)
@[simp] theorem modEng_ddr (p : Nat) (f : EngSt → EngSt) (b : Block) : (modEng p f b).ddr = b.ddr := by unfold modEng; first | rfl | (split <;> rfl)
@[simp] theorem modEng_pair (p : Nat) (f : EngSt → EngSt) (b : Block) : (modEng p f b).pair = b.pair := by unfold modEng; first | rfl | (split <;> rfl)
@[simp] theorem modEng_mode (p : Nat) (f : EngSt → EngSt) (b : Block) : (modEng p f b).mode = b.mode := by unfold modEng; first | rfl | (split <;> rfl)
@[simp] theorem modEng_svIn (p : Nat) (f : EngSt → EngSt) (b : Block) : (modEng p f b).svIn = b.svIn := by unfold modEng; first | rfl | (split <;> rfl)
@[simp] theorem modEng_chain (p : Nat) (f : EngSt → EngSt) (b : Block) : (modEng p f b).chain = b.chain := by unfold modEng; first | rfl | (split <;> rfl)
@[simp] theorem modEng_hk (p : Nat) (f : EngSt → EngSt) (b : Block) : (modEng p f b).hk = b.hk := by unfold modEng; first | rfl | (split <;> rfl)
@[simp] theorem modEng_osc (p : Nat) (f : EngSt → EngSt) (b : Block) : (modEng p f b).osc = b.osc := by unfold modEng; first | rfl | (split <;> rfl)
@[simp] theorem modEng_isl (p : Nat) (f : EngSt → EngSt) (b : Block) : (modEng p f b).isl = b.isl := by unfold modEng; first | rfl | (split <;> rfl)
@[simp] theorem modEng_alm (p : Nat) (f : EngSt → EngSt) (b : Block) : (modEng p f b).alm = b.alm := by unfold modEng; first | rfl | (split <;> rfl)
@[simp] theorem modEng_gov (p : Nat) (f : EngSt → EngSt) (b : Block) : (modEng p f b).gov = b.gov := by unfold modEng; first | rfl | (split <;> rfl)
@[simp] theorem modEng_cap (p : Nat) (f : EngSt → EngSt) (b : Block) : (modEng p f b).cap = b.cap := by unfold modEng; first | rfl | (split <;> rfl)
@[simp] theorem modEng_upd (p : Nat) (f : EngSt → EngSt) (b : Block) : (modEng p f b).upd = b.upd := by unfold modEng; first | rfl | (split <;> rfl)
@[simp] theorem modEng_later (p : Nat) (f : EngSt → EngSt) (b : Block) : (modEng p f b).later = b.later := by unfold modEng; first | rfl | (split <;> rfl)
@[simp] theorem modEng_silos (p : Nat) (f : EngSt → EngSt) (b : Block) : (modEng p f b).silos = b.silos := by unfold modEng; first | rfl | (split <;> rfl)
@[simp] theorem modEng_out (p : Nat) (f : EngSt → EngSt) (b : Block) : (modEng p f b).out = b.out := by unfold modEng; first | rfl | (split <;> rfl)
@[simp] theorem modEng_freeCtr (p : Nat) (f : EngSt → EngSt) (b : Block) : (modEng p f b).freeCtr = b.freeCtr := by unfold modEng; first | rfl | (split <;> rfl)

/-! msixSend changes out, msixPend alone. -/

@[simp] theorem msixSend_regs (k : Nat) (b : Block) : (msixSend k b).regs = b.regs := by unfold msixSend; split <;> rfl
@[simp] theorem msixSend_staged (k : Nat) (b : Block) : (msixSend k b).staged = b.staged := by unfold msixSend; split <;> rfl
@[simp] theorem msixSend_held (k : Nat) (b : Block) : (msixSend k b).held = b.held := by unfold msixSend; split <;> rfl
@[simp] theorem msixSend_frozen (k : Nat) (b : Block) : (msixSend k b).frozen = b.frozen := by unfold msixSend; split <;> rfl
@[simp] theorem msixSend_host (k : Nat) (b : Block) : (msixSend k b).host = b.host := by unfold msixSend; split <;> rfl
@[simp] theorem msixSend_side (k : Nat) (b : Block) : (msixSend k b).side = b.side := by unfold msixSend; split <;> rfl
@[simp] theorem msixSend_msixMask (k : Nat) (b : Block) : (msixSend k b).msixMask = b.msixMask := by unfold msixSend; split <;> rfl
@[simp] theorem msixSend_sb (k : Nat) (b : Block) : (msixSend k b).sb = b.sb := by unfold msixSend; split <;> rfl
@[simp] theorem msixSend_wdogKickAt (k : Nat) (b : Block) : (msixSend k b).wdogKickAt = b.wdogKickAt := by unfold msixSend; split <;> rfl
@[simp] theorem msixSend_wdogRuns (k : Nat) (b : Block) : (msixSend k b).wdogRuns = b.wdogRuns := by unfold msixSend; split <;> rfl
@[simp] theorem msixSend_dev (k : Nat) (b : Block) : (msixSend k b).dev = b.dev := by unfold msixSend; split <;> rfl
@[simp] theorem msixSend_settings (k : Nat) (b : Block) : (msixSend k b).settings = b.settings := by unfold msixSend; split <;> rfl
@[simp] theorem msixSend_supply (k : Nat) (b : Block) : (msixSend k b).supply = b.supply := by unfold msixSend; split <;> rfl
@[simp] theorem msixSend_balls (k : Nat) (b : Block) : (msixSend k b).balls = b.balls := by unfold msixSend; split <;> rfl
@[simp] theorem msixSend_time (k : Nat) (b : Block) : (msixSend k b).time = b.time := by unfold msixSend; split <;> rfl
@[simp] theorem msixSend_ports (k : Nat) (b : Block) : (msixSend k b).ports = b.ports := by unfold msixSend; split <;> rfl
@[simp] theorem msixSend_prp (k : Nat) (b : Block) : (msixSend k b).prp = b.prp := by unfold msixSend; split <;> rfl
@[simp] theorem msixSend_evr (k : Nat) (b : Block) : (msixSend k b).evr = b.evr := by unfold msixSend; split <;> rfl
@[simp] theorem msixSend_mram (k : Nat) (b : Block) : (msixSend k b).mram = b.mram := by unfold msixSend; split <;> rfl
@[simp] theorem msixSend_bist (k : Nat) (b : Block) : (msixSend k b).bist = b.bist := by unfold msixSend; split <;> rfl
@[simp] theorem msixSend_keys (k : Nat) (b : Block) : (msixSend k b).keys = b.keys := by unfold msixSend; split <;> rfl
@[simp] theorem msixSend_glean (k : Nat) (b : Block) : (msixSend k b).glean = b.glean := by unfold msixSend; split <;> rfl
@[simp] theorem msixSend_gran (k : Nat) (b : Block) : (msixSend k b).gran = b.gran := by unfold msixSend; split <;> rfl
@[simp] theorem msixSend_granMem (k : Nat) (b : Block) : (msixSend k b).granMem = b.granMem := by unfold msixSend; split <;> rfl
@[simp] theorem msixSend_ddr (k : Nat) (b : Block) : (msixSend k b).ddr = b.ddr := by unfold msixSend; split <;> rfl
@[simp] theorem msixSend_pair (k : Nat) (b : Block) : (msixSend k b).pair = b.pair := by unfold msixSend; split <;> rfl
@[simp] theorem msixSend_mode (k : Nat) (b : Block) : (msixSend k b).mode = b.mode := by unfold msixSend; split <;> rfl
@[simp] theorem msixSend_thr (k : Nat) (b : Block) : (msixSend k b).thr = b.thr := by unfold msixSend; split <;> rfl
@[simp] theorem msixSend_svIn (k : Nat) (b : Block) : (msixSend k b).svIn = b.svIn := by unfold msixSend; split <;> rfl
@[simp] theorem msixSend_chain (k : Nat) (b : Block) : (msixSend k b).chain = b.chain := by unfold msixSend; split <;> rfl
@[simp] theorem msixSend_hk (k : Nat) (b : Block) : (msixSend k b).hk = b.hk := by unfold msixSend; split <;> rfl
@[simp] theorem msixSend_osc (k : Nat) (b : Block) : (msixSend k b).osc = b.osc := by unfold msixSend; split <;> rfl
@[simp] theorem msixSend_isl (k : Nat) (b : Block) : (msixSend k b).isl = b.isl := by unfold msixSend; split <;> rfl
@[simp] theorem msixSend_alm (k : Nat) (b : Block) : (msixSend k b).alm = b.alm := by unfold msixSend; split <;> rfl
@[simp] theorem msixSend_gov (k : Nat) (b : Block) : (msixSend k b).gov = b.gov := by unfold msixSend; split <;> rfl
@[simp] theorem msixSend_cap (k : Nat) (b : Block) : (msixSend k b).cap = b.cap := by unfold msixSend; split <;> rfl
@[simp] theorem msixSend_upd (k : Nat) (b : Block) : (msixSend k b).upd = b.upd := by unfold msixSend; split <;> rfl
@[simp] theorem msixSend_later (k : Nat) (b : Block) : (msixSend k b).later = b.later := by unfold msixSend; split <;> rfl
@[simp] theorem msixSend_silos (k : Nat) (b : Block) : (msixSend k b).silos = b.silos := by unfold msixSend; split <;> rfl
@[simp] theorem msixSend_freeCtr (k : Nat) (b : Block) : (msixSend k b).freeCtr = b.freeCtr := by unfold msixSend; split <;> rfl

/-! irq changes regs, out, msixPend alone. -/

@[simp] theorem irq_staged (p i : Nat) (b : Block) : (irq p i b).staged = b.staged := by unfold irq withIrq; split <;> first | rfl | (dsimp only; split <;> simp [wbit, wf])
@[simp] theorem irq_held (p i : Nat) (b : Block) : (irq p i b).held = b.held := by unfold irq withIrq; split <;> first | rfl | (dsimp only; split <;> simp [wbit, wf])
@[simp] theorem irq_frozen (p i : Nat) (b : Block) : (irq p i b).frozen = b.frozen := by unfold irq withIrq; split <;> first | rfl | (dsimp only; split <;> simp [wbit, wf])
@[simp] theorem irq_host (p i : Nat) (b : Block) : (irq p i b).host = b.host := by unfold irq withIrq; split <;> first | rfl | (dsimp only; split <;> simp [wbit, wf])
@[simp] theorem irq_side (p i : Nat) (b : Block) : (irq p i b).side = b.side := by unfold irq withIrq; split <;> first | rfl | (dsimp only; split <;> simp [wbit, wf])
@[simp] theorem irq_msixMask (p i : Nat) (b : Block) : (irq p i b).msixMask = b.msixMask := by unfold irq withIrq; split <;> first | rfl | (dsimp only; split <;> simp [wbit, wf])
@[simp] theorem irq_sb (p i : Nat) (b : Block) : (irq p i b).sb = b.sb := by unfold irq withIrq; split <;> first | rfl | (dsimp only; split <;> simp [wbit, wf])
@[simp] theorem irq_wdogKickAt (p i : Nat) (b : Block) : (irq p i b).wdogKickAt = b.wdogKickAt := by unfold irq withIrq; split <;> first | rfl | (dsimp only; split <;> simp [wbit, wf])
@[simp] theorem irq_wdogRuns (p i : Nat) (b : Block) : (irq p i b).wdogRuns = b.wdogRuns := by unfold irq withIrq; split <;> first | rfl | (dsimp only; split <;> simp [wbit, wf])
@[simp] theorem irq_dev (p i : Nat) (b : Block) : (irq p i b).dev = b.dev := by unfold irq withIrq; split <;> first | rfl | (dsimp only; split <;> simp [wbit, wf])
@[simp] theorem irq_settings (p i : Nat) (b : Block) : (irq p i b).settings = b.settings := by unfold irq withIrq; split <;> first | rfl | (dsimp only; split <;> simp [wbit, wf])
@[simp] theorem irq_supply (p i : Nat) (b : Block) : (irq p i b).supply = b.supply := by unfold irq withIrq; split <;> first | rfl | (dsimp only; split <;> simp [wbit, wf])
@[simp] theorem irq_balls (p i : Nat) (b : Block) : (irq p i b).balls = b.balls := by unfold irq withIrq; split <;> first | rfl | (dsimp only; split <;> simp [wbit, wf])
@[simp] theorem irq_time (p i : Nat) (b : Block) : (irq p i b).time = b.time := by unfold irq withIrq; split <;> first | rfl | (dsimp only; split <;> simp [wbit, wf])
@[simp] theorem irq_ports (p i : Nat) (b : Block) : (irq p i b).ports = b.ports := by unfold irq withIrq; split <;> first | rfl | (dsimp only; split <;> simp [wbit, wf])
@[simp] theorem irq_prp (p i : Nat) (b : Block) : (irq p i b).prp = b.prp := by unfold irq withIrq; split <;> first | rfl | (dsimp only; split <;> simp [wbit, wf])
@[simp] theorem irq_evr (p i : Nat) (b : Block) : (irq p i b).evr = b.evr := by unfold irq withIrq; split <;> first | rfl | (dsimp only; split <;> simp [wbit, wf])
@[simp] theorem irq_mram (p i : Nat) (b : Block) : (irq p i b).mram = b.mram := by unfold irq withIrq; split <;> first | rfl | (dsimp only; split <;> simp [wbit, wf])
@[simp] theorem irq_bist (p i : Nat) (b : Block) : (irq p i b).bist = b.bist := by unfold irq withIrq; split <;> first | rfl | (dsimp only; split <;> simp [wbit, wf])
@[simp] theorem irq_keys (p i : Nat) (b : Block) : (irq p i b).keys = b.keys := by unfold irq withIrq; split <;> first | rfl | (dsimp only; split <;> simp [wbit, wf])
@[simp] theorem irq_glean (p i : Nat) (b : Block) : (irq p i b).glean = b.glean := by unfold irq withIrq; split <;> first | rfl | (dsimp only; split <;> simp [wbit, wf])
@[simp] theorem irq_gran (p i : Nat) (b : Block) : (irq p i b).gran = b.gran := by unfold irq withIrq; split <;> first | rfl | (dsimp only; split <;> simp [wbit, wf])
@[simp] theorem irq_granMem (p i : Nat) (b : Block) : (irq p i b).granMem = b.granMem := by unfold irq withIrq; split <;> first | rfl | (dsimp only; split <;> simp [wbit, wf])
@[simp] theorem irq_ddr (p i : Nat) (b : Block) : (irq p i b).ddr = b.ddr := by unfold irq withIrq; split <;> first | rfl | (dsimp only; split <;> simp [wbit, wf])
@[simp] theorem irq_pair (p i : Nat) (b : Block) : (irq p i b).pair = b.pair := by unfold irq withIrq; split <;> first | rfl | (dsimp only; split <;> simp [wbit, wf])
@[simp] theorem irq_mode (p i : Nat) (b : Block) : (irq p i b).mode = b.mode := by unfold irq withIrq; split <;> first | rfl | (dsimp only; split <;> simp [wbit, wf])
@[simp] theorem irq_thr (p i : Nat) (b : Block) : (irq p i b).thr = b.thr := by unfold irq withIrq; split <;> first | rfl | (dsimp only; split <;> simp [wbit, wf])
@[simp] theorem irq_svIn (p i : Nat) (b : Block) : (irq p i b).svIn = b.svIn := by unfold irq withIrq; split <;> first | rfl | (dsimp only; split <;> simp [wbit, wf])
@[simp] theorem irq_chain (p i : Nat) (b : Block) : (irq p i b).chain = b.chain := by unfold irq withIrq; split <;> first | rfl | (dsimp only; split <;> simp [wbit, wf])
@[simp] theorem irq_hk (p i : Nat) (b : Block) : (irq p i b).hk = b.hk := by unfold irq withIrq; split <;> first | rfl | (dsimp only; split <;> simp [wbit, wf])
@[simp] theorem irq_osc (p i : Nat) (b : Block) : (irq p i b).osc = b.osc := by unfold irq withIrq; split <;> first | rfl | (dsimp only; split <;> simp [wbit, wf])
@[simp] theorem irq_isl (p i : Nat) (b : Block) : (irq p i b).isl = b.isl := by unfold irq withIrq; split <;> first | rfl | (dsimp only; split <;> simp [wbit, wf])
@[simp] theorem irq_alm (p i : Nat) (b : Block) : (irq p i b).alm = b.alm := by unfold irq withIrq; split <;> first | rfl | (dsimp only; split <;> simp [wbit, wf])
@[simp] theorem irq_gov (p i : Nat) (b : Block) : (irq p i b).gov = b.gov := by unfold irq withIrq; split <;> first | rfl | (dsimp only; split <;> simp [wbit, wf])
@[simp] theorem irq_cap (p i : Nat) (b : Block) : (irq p i b).cap = b.cap := by unfold irq withIrq; split <;> first | rfl | (dsimp only; split <;> simp [wbit, wf])
@[simp] theorem irq_upd (p i : Nat) (b : Block) : (irq p i b).upd = b.upd := by unfold irq withIrq; split <;> first | rfl | (dsimp only; split <;> simp [wbit, wf])
@[simp] theorem irq_later (p i : Nat) (b : Block) : (irq p i b).later = b.later := by unfold irq withIrq; split <;> first | rfl | (dsimp only; split <;> simp [wbit, wf])
@[simp] theorem irq_silos (p i : Nat) (b : Block) : (irq p i b).silos = b.silos := by unfold irq withIrq; split <;> first | rfl | (dsimp only; split <;> simp [wbit, wf])
@[simp] theorem irq_freeCtr (p i : Nat) (b : Block) : (irq p i b).freeCtr = b.freeCtr := by unfold irq withIrq; split <;> first | rfl | (dsimp only; split <;> simp [wbit, wf])

/-! err changes regs, out, msixPend alone. -/

@[simp] theorem err_staged (p c : Nat) (b : Block) : (err p c b).staged = b.staged := by unfold err; dsimp only; split <;> simp [wn]
@[simp] theorem err_held (p c : Nat) (b : Block) : (err p c b).held = b.held := by unfold err; dsimp only; split <;> simp [wn]
@[simp] theorem err_frozen (p c : Nat) (b : Block) : (err p c b).frozen = b.frozen := by unfold err; dsimp only; split <;> simp [wn]
@[simp] theorem err_host (p c : Nat) (b : Block) : (err p c b).host = b.host := by unfold err; dsimp only; split <;> simp [wn]
@[simp] theorem err_side (p c : Nat) (b : Block) : (err p c b).side = b.side := by unfold err; dsimp only; split <;> simp [wn]
@[simp] theorem err_msixMask (p c : Nat) (b : Block) : (err p c b).msixMask = b.msixMask := by unfold err; dsimp only; split <;> simp [wn]
@[simp] theorem err_sb (p c : Nat) (b : Block) : (err p c b).sb = b.sb := by unfold err; dsimp only; split <;> simp [wn]
@[simp] theorem err_wdogKickAt (p c : Nat) (b : Block) : (err p c b).wdogKickAt = b.wdogKickAt := by unfold err; dsimp only; split <;> simp [wn]
@[simp] theorem err_wdogRuns (p c : Nat) (b : Block) : (err p c b).wdogRuns = b.wdogRuns := by unfold err; dsimp only; split <;> simp [wn]
@[simp] theorem err_dev (p c : Nat) (b : Block) : (err p c b).dev = b.dev := by unfold err; dsimp only; split <;> simp [wn]
@[simp] theorem err_settings (p c : Nat) (b : Block) : (err p c b).settings = b.settings := by unfold err; dsimp only; split <;> simp [wn]
@[simp] theorem err_supply (p c : Nat) (b : Block) : (err p c b).supply = b.supply := by unfold err; dsimp only; split <;> simp [wn]
@[simp] theorem err_balls (p c : Nat) (b : Block) : (err p c b).balls = b.balls := by unfold err; dsimp only; split <;> simp [wn]
@[simp] theorem err_time (p c : Nat) (b : Block) : (err p c b).time = b.time := by unfold err; dsimp only; split <;> simp [wn]
@[simp] theorem err_ports (p c : Nat) (b : Block) : (err p c b).ports = b.ports := by unfold err; dsimp only; split <;> simp [wn]
@[simp] theorem err_prp (p c : Nat) (b : Block) : (err p c b).prp = b.prp := by unfold err; dsimp only; split <;> simp [wn]
@[simp] theorem err_evr (p c : Nat) (b : Block) : (err p c b).evr = b.evr := by unfold err; dsimp only; split <;> simp [wn]
@[simp] theorem err_mram (p c : Nat) (b : Block) : (err p c b).mram = b.mram := by unfold err; dsimp only; split <;> simp [wn]
@[simp] theorem err_bist (p c : Nat) (b : Block) : (err p c b).bist = b.bist := by unfold err; dsimp only; split <;> simp [wn]
@[simp] theorem err_keys (p c : Nat) (b : Block) : (err p c b).keys = b.keys := by unfold err; dsimp only; split <;> simp [wn]
@[simp] theorem err_glean (p c : Nat) (b : Block) : (err p c b).glean = b.glean := by unfold err; dsimp only; split <;> simp [wn]
@[simp] theorem err_gran (p c : Nat) (b : Block) : (err p c b).gran = b.gran := by unfold err; dsimp only; split <;> simp [wn]
@[simp] theorem err_granMem (p c : Nat) (b : Block) : (err p c b).granMem = b.granMem := by unfold err; dsimp only; split <;> simp [wn]
@[simp] theorem err_ddr (p c : Nat) (b : Block) : (err p c b).ddr = b.ddr := by unfold err; dsimp only; split <;> simp [wn]
@[simp] theorem err_pair (p c : Nat) (b : Block) : (err p c b).pair = b.pair := by unfold err; dsimp only; split <;> simp [wn]
@[simp] theorem err_mode (p c : Nat) (b : Block) : (err p c b).mode = b.mode := by unfold err; dsimp only; split <;> simp [wn]
@[simp] theorem err_thr (p c : Nat) (b : Block) : (err p c b).thr = b.thr := by unfold err; dsimp only; split <;> simp [wn]
@[simp] theorem err_svIn (p c : Nat) (b : Block) : (err p c b).svIn = b.svIn := by unfold err; dsimp only; split <;> simp [wn]
@[simp] theorem err_chain (p c : Nat) (b : Block) : (err p c b).chain = b.chain := by unfold err; dsimp only; split <;> simp [wn]
@[simp] theorem err_hk (p c : Nat) (b : Block) : (err p c b).hk = b.hk := by unfold err; dsimp only; split <;> simp [wn]
@[simp] theorem err_osc (p c : Nat) (b : Block) : (err p c b).osc = b.osc := by unfold err; dsimp only; split <;> simp [wn]
@[simp] theorem err_isl (p c : Nat) (b : Block) : (err p c b).isl = b.isl := by unfold err; dsimp only; split <;> simp [wn]
@[simp] theorem err_alm (p c : Nat) (b : Block) : (err p c b).alm = b.alm := by unfold err; dsimp only; split <;> simp [wn]
@[simp] theorem err_gov (p c : Nat) (b : Block) : (err p c b).gov = b.gov := by unfold err; dsimp only; split <;> simp [wn]
@[simp] theorem err_cap (p c : Nat) (b : Block) : (err p c b).cap = b.cap := by unfold err; dsimp only; split <;> simp [wn]
@[simp] theorem err_upd (p c : Nat) (b : Block) : (err p c b).upd = b.upd := by unfold err; dsimp only; split <;> simp [wn]
@[simp] theorem err_later (p c : Nat) (b : Block) : (err p c b).later = b.later := by unfold err; dsimp only; split <;> simp [wn]
@[simp] theorem err_silos (p c : Nat) (b : Block) : (err p c b).silos = b.silos := by unfold err; dsimp only; split <;> simp [wn]
@[simp] theorem err_freeCtr (p c : Nat) (b : Block) : (err p c b).freeCtr = b.freeCtr := by unfold err; dsimp only; split <;> simp [wn]

/-! evr changes evr alone. -/

@[simp] theorem evr_regs (c x y : Nat) (b : Block) : (evr c x y b).regs = b.regs := rfl
@[simp] theorem evr_staged (c x y : Nat) (b : Block) : (evr c x y b).staged = b.staged := rfl
@[simp] theorem evr_held (c x y : Nat) (b : Block) : (evr c x y b).held = b.held := rfl
@[simp] theorem evr_frozen (c x y : Nat) (b : Block) : (evr c x y b).frozen = b.frozen := rfl
@[simp] theorem evr_host (c x y : Nat) (b : Block) : (evr c x y b).host = b.host := rfl
@[simp] theorem evr_side (c x y : Nat) (b : Block) : (evr c x y b).side = b.side := rfl
@[simp] theorem evr_msixMask (c x y : Nat) (b : Block) : (evr c x y b).msixMask = b.msixMask := rfl
@[simp] theorem evr_msixPend (c x y : Nat) (b : Block) : (evr c x y b).msixPend = b.msixPend := rfl
@[simp] theorem evr_sb (c x y : Nat) (b : Block) : (evr c x y b).sb = b.sb := rfl
@[simp] theorem evr_wdogKickAt (c x y : Nat) (b : Block) : (evr c x y b).wdogKickAt = b.wdogKickAt := rfl
@[simp] theorem evr_wdogRuns (c x y : Nat) (b : Block) : (evr c x y b).wdogRuns = b.wdogRuns := rfl
@[simp] theorem evr_dev (c x y : Nat) (b : Block) : (evr c x y b).dev = b.dev := rfl
@[simp] theorem evr_settings (c x y : Nat) (b : Block) : (evr c x y b).settings = b.settings := rfl
@[simp] theorem evr_supply (c x y : Nat) (b : Block) : (evr c x y b).supply = b.supply := rfl
@[simp] theorem evr_balls (c x y : Nat) (b : Block) : (evr c x y b).balls = b.balls := rfl
@[simp] theorem evr_time (c x y : Nat) (b : Block) : (evr c x y b).time = b.time := rfl
@[simp] theorem evr_ports (c x y : Nat) (b : Block) : (evr c x y b).ports = b.ports := rfl
@[simp] theorem evr_prp (c x y : Nat) (b : Block) : (evr c x y b).prp = b.prp := rfl
@[simp] theorem evr_mram (c x y : Nat) (b : Block) : (evr c x y b).mram = b.mram := rfl
@[simp] theorem evr_bist (c x y : Nat) (b : Block) : (evr c x y b).bist = b.bist := rfl
@[simp] theorem evr_keys (c x y : Nat) (b : Block) : (evr c x y b).keys = b.keys := rfl
@[simp] theorem evr_glean (c x y : Nat) (b : Block) : (evr c x y b).glean = b.glean := rfl
@[simp] theorem evr_gran (c x y : Nat) (b : Block) : (evr c x y b).gran = b.gran := rfl
@[simp] theorem evr_granMem (c x y : Nat) (b : Block) : (evr c x y b).granMem = b.granMem := rfl
@[simp] theorem evr_ddr (c x y : Nat) (b : Block) : (evr c x y b).ddr = b.ddr := rfl
@[simp] theorem evr_pair (c x y : Nat) (b : Block) : (evr c x y b).pair = b.pair := rfl
@[simp] theorem evr_mode (c x y : Nat) (b : Block) : (evr c x y b).mode = b.mode := rfl
@[simp] theorem evr_thr (c x y : Nat) (b : Block) : (evr c x y b).thr = b.thr := rfl
@[simp] theorem evr_svIn (c x y : Nat) (b : Block) : (evr c x y b).svIn = b.svIn := rfl
@[simp] theorem evr_chain (c x y : Nat) (b : Block) : (evr c x y b).chain = b.chain := rfl
@[simp] theorem evr_hk (c x y : Nat) (b : Block) : (evr c x y b).hk = b.hk := rfl
@[simp] theorem evr_osc (c x y : Nat) (b : Block) : (evr c x y b).osc = b.osc := rfl
@[simp] theorem evr_isl (c x y : Nat) (b : Block) : (evr c x y b).isl = b.isl := rfl
@[simp] theorem evr_alm (c x y : Nat) (b : Block) : (evr c x y b).alm = b.alm := rfl
@[simp] theorem evr_gov (c x y : Nat) (b : Block) : (evr c x y b).gov = b.gov := rfl
@[simp] theorem evr_cap (c x y : Nat) (b : Block) : (evr c x y b).cap = b.cap := rfl
@[simp] theorem evr_upd (c x y : Nat) (b : Block) : (evr c x y b).upd = b.upd := rfl
@[simp] theorem evr_later (c x y : Nat) (b : Block) : (evr c x y b).later = b.later := rfl
@[simp] theorem evr_silos (c x y : Nat) (b : Block) : (evr c x y b).silos = b.silos := rfl
@[simp] theorem evr_out (c x y : Nat) (b : Block) : (evr c x y b).out = b.out := rfl
@[simp] theorem evr_freeCtr (c x y : Nat) (b : Block) : (evr c x y b).freeCtr = b.freeCtr := rfl

end Sys2Proof.Machine
end

