-- ==== Sys2Proof/Laws/Ops.lean ====
section
/-! SUPPORT. What the shared operations over registers, errors and interrupts do. -/

namespace Sys2Proof.Machine
open Sys2Proof

/-! Registers. -/

/-- A written register reads back. -/
@[simp] theorem r_wr_same (a : Nat) (v : Word) (b : Block) : (wr a v b).r a = v := mget_mput_same ..
/-- A write of one register leaves every other. -/
theorem r_wr_ne {a c : Nat} (v : Word) (b : Block) (h : c ≠ a) : (wr a v b).r c = b.r c := mget_mput_ne _ _ _ _ h
/-- What a register reads depends on the register map alone. -/
theorem r_congr {b c : Block} (h : c.regs = b.regs) (a : Nat) : c.r a = b.r a := by rw [Block.r, Block.r, h]

@[simp] theorem r_emit (o : Output) (a : Nat) (b : Block) : (emit o b).r a = b.r a := rfl
@[simp] theorem r_usedFree (a : Nat) (b : Block) : (usedFree b).r a = b.r a := rfl
@[simp] theorem r_modTime (f : TimeSt → TimeSt) (a : Nat) (b : Block) : (modTime f b).r a = b.r a := rfl
@[simp] theorem r_modThr (f : ThrSt → ThrSt) (a : Nat) (b : Block) : (modThr f b).r a = b.r a := rfl
@[simp] theorem r_modPair (f : PairSt → PairSt) (a : Nat) (b : Block) : (modPair f b).r a = b.r a := rfl
@[simp] theorem r_modGran (f : GranSt → GranSt) (a : Nat) (b : Block) : (modGran f b).r a = b.r a := rfl
@[simp] theorem r_modGlean (f : GleanSt → GleanSt) (a : Nat) (b : Block) : (modGlean f b).r a = b.r a := rfl
@[simp] theorem r_modChain (f : ChainSt → ChainSt) (a : Nat) (b : Block) : (modChain f b).r a = b.r a := rfl
@[simp] theorem r_modUpd (f : UpdSt → UpdSt) (a : Nat) (b : Block) : (modUpd f b).r a = b.r a := rfl
@[simp] theorem r_modKeys (f : Keys → Keys) (a : Nat) (b : Block) : (modKeys f b).r a = b.r a := rfl
@[simp] theorem r_modSb (f : SideBand → SideBand) (a : Nat) (b : Block) : (modSb f b).r a = b.r a := rfl
@[simp] theorem r_modAgent (ag : Agent) (f : AgentSt → AgentSt) (a : Nat) (b : Block) : (modAgent ag f b).r a = b.r a := by
  cases ag <;> rfl
@[simp] theorem r_modSilo (q : Nat) (f : Silo → Silo) (a : Nat) (b : Block) : (modSilo q f b).r a = b.r a :=
  r_congr (modSilo_regs ..) a
@[simp] theorem r_modEng (p : Nat) (f : EngSt → EngSt) (a : Nat) (b : Block) : (modEng p f b).r a = b.r a :=
  r_congr (modEng_regs ..) a
@[simp] theorem r_modPort (p : Nat) (f : PortSt → PortSt) (a : Nat) (b : Block) : (modPort p f b).r a = b.r a :=
  r_congr (modPort_regs ..) a
@[simp] theorem r_evr (c x y a : Nat) (b : Block) : (evr c x y b).r a = b.r a := rfl

/-- Writes of fields, numbers and bits are writes of the register. -/
theorem wn_eq (a v : Nat) (b : Block) : wn a v b = wr a (w32 v) b := rfl
theorem wf_eq (a hi lo v : Nat) (b : Block) : wf a hi lo v b = wr a (putFld (b.r a) hi lo v) b := rfl
theorem wbit_eq (a i : Nat) (p : Bool) (b : Block) : wbit a i p b = wr a (putFld (b.r a) i i (b01 p)) b := rfl
/-- A pair that is written reads back modulo 2^64. -/
theorem r_wn64_lo (a v : Nat) (b : Block) : (wn64 a v b).r a = w32 v := by
  rw [wn64, wn_eq, r_wr_ne _ _ (by omega), wn_eq, r_wr_same]
theorem r_wn64_hi (a v : Nat) (b : Block) : (wn64 a v b).r (a + 4) = w32 (v / 2 ^ 32) := by
  rw [wn64, wn_eq, r_wr_same]
theorem r_wn64_ne {a c : Nat} (v : Nat) (b : Block) (h1 : c ≠ a) (h2 : c ≠ a + 4) : (wn64 a v b).r c = b.r c := by
  rw [wn64, wn_eq, r_wr_ne _ _ h2, wn_eq, r_wr_ne _ _ h1]

/-! Interrupts and errors. -/

@[simp] theorem r_msixSend (k a : Nat) (b : Block) : (msixSend k b).r a = b.r a := r_congr (msixSend_regs ..) a
/-- A cause bit rises and no other register changes; the message goes out where the group becomes pending. -/
theorem r_irq (p i a : Nat) (b : Block) : (irq p i b).r a = (wbit (pg p 0x018) i true b).r a := by
  unfold irq withIrq
  split
  · rfl
  · dsimp only; split <;> simp
theorem r_irq_ne {p a : Nat} (i : Nat) (b : Block) (h : a ≠ pg p 0x018) : (irq p i b).r a = b.r a := by
  rw [r_irq, wbit_eq, r_wr_ne _ _ h]
/-- An error changes PG_ERR and PG_IRQ of its page alone. -/
theorem r_err_ne {p a : Nat} (code : Nat) (b : Block) (h1 : a ≠ pg p 0x01C) (h2 : a ≠ pg p 0x018) :
    (err p code b).r a = b.r a := by
  unfold err
  dsimp only
  split
  · rw [r_irq_ne _ _ h2, wn_eq, r_wr_ne _ _ h1]
  · rw [wn_eq, r_wr_ne _ _ h1]
/-- PG_ERR after an error: the first code since the last read, and one more on its count. -/
theorem r_err_same (p code : Nat) (b : Block) : (err p code b).r (pg p 0x01C) =
    w32 (if b.f (pg p 0x01C) 31 8 = 0 then 0x100 + code % 256
      else min (b.f (pg p 0x01C) 31 8 + 1) 0xFFFFFF * 256 + b.f (pg p 0x01C) 7 0) := by
  have hne : pg p 0x01C ≠ pg p 0x018 := by simp [pg]
  unfold err
  dsimp only
  split
  · rw [r_irq_ne _ _ hne, wn_eq, r_wr_same]
  · rw [wn_eq, r_wr_same]

end Sys2Proof.Machine
end

