-- ==== Sys2Proof/Laws/Pages.lean ====
section
/-! SUPPORT. Where the registers of a page lie, and which accesses reach them. -/

namespace Sys2Proof.Machine
open Sys2Proof

/-- Page indices lie below 0x82. -/
theorem page_lt {p : Nat} (h : p ∈ allPages) : p < 0x82 := by revert p; decide
/-- A register address of a page that names a block belongs to it. -/
theorem pageOf_pg {p o : Nat} (h : p ∈ allPages) (ho : o < 0x1000) : pageOf (pg p o) = some p := by
  have := page_lt h
  have h1 : pg p o / 0x1000 = p := by simp only [pg]; omega
  have h2 : pg p o < 0x100000 := by simp only [pg]; omega
  simp [pageOf, h1, h2, h]
/-- The page whose lock a register address obeys is its own. -/
theorem tablePage_pg {p o : Nat} (h : p ∈ allPages) (ho : o < 0x1000) : tablePage (pg p o) = some p := by
  have := page_lt h
  have h2 : ¬ (0x320000 ≤ pg p o) := by simp only [pg]; omega
  simp [tablePage, h2, pageOf_pg h ho]
/-- An agent reaches a register where it reaches the page. -/
theorem reaches_pg {ag : Agent} {p o : Nat} {b : Block} (h : p ∈ allPages) (ho : o < 0x1000) :
    reaches ag (pg p o) b = b.reach ag p := by
  simp [reaches, tablePage_pg h ho]
/-- A register address fits 24 bits. -/
theorem toNat_pg {p o : Nat} (h : p ∈ allPages) (ho : o < 0x1000) : (BitVec.ofNat 24 (pg p o)).toNat = pg p o := by
  have := page_lt h
  simp only [pg, BitVec.toNat_ofNat]; omega
/-- A header register's row. -/
theorem rowOf_header {p o : Nat} (hp : p < 0x82) (ho : o < 0x40) : rowOf (pg p o) = hdrRows.find? (·.has o) := by
  have h1 : pg p o % 0x1000 = o := by simp only [pg]; omega
  have h2 : pg p o < 0x100000 := by simp only [pg]; omega
  simp [rowOf, h1, h2, ho]
/-- The host reaches every page while PCIe accesses are served. -/
theorem reach_host {b : Block} (h : b.hostUp = true) (p : Nat) : b.reach .host p = true := by
  have hu : b.up = true := by simp [Block.hostUp] at h; exact h.1
  have hk : (b.dev.st != .keep) = true := by
    unfold Block.up at hu
    cases hs : b.dev.st <;> simp_all
  simp [Block.reach, Block.agentUp, h, hk]

end Sys2Proof.Machine
end

