-- ==== Sys2Proof/Machine/Pins.lean ====
section
/-! DEFINITION. The signal balls as they stand: the state of each group of the ball table in the resets, in Keep and in service, and
the levels of the outputs that the state drives (R63, R68–R70, R73, R75, R151, R272). -/

namespace Sys2Proof.Machine
open Sys2Proof

/-- The state codes of a ball (R68), with the high impedance, the sampling and the absence of a state that the table names. -/
inductive PinSt where
  | run | act | ign | ei | off | az | pd | pu | inact | rel | low | high | sr | hiZ | sampled | unstated
deriving DecidableEq, Repr

/-- The groups of signal balls (R73); a lane, a channel, an input or an output by its number. -/
inductive Ball where
  /-- receive and transmit lanes of ports A–D, PL0 and PL1 -/
  | lineRx (lane : Fin 6) | lineTx (lane : Fin 6)
  | sdsRefclk | sdsRcal | pcieRx | pcieTx | pcieRefclk | perstN | clkreqN
  | ddrCommand | ddrData | ddrResetN | ddrZq
  | ain (k : Fin 16) | reference | xoIn | refIn
  /-- PPS_IN, IRIG_IN and TOD_RX; PPS_OUT and TOD_TX; SYNC_IN and TRIG_IN -/
  | timeIn | timeOut | eventIn
  | trigOut | spt | alm (i : Fin 16)
  /-- SBM_CLK and SBM_DI -/
  | sbmIn | sbmCsN | sbmDo | sbmAlertN
  | leaseOut | leaseIn | witN | resetN | avsBus | avsAlertN | tamperN | tmpOutN
  /-- BACKUP_N and UPD_INHIBIT_N -/
  | inhibitN
  | strap | testEn
  /-- TMS and TDI -/
  | tck | jtagIn | tdo | trstN
  | diode
deriving DecidableEq, Repr

/-- The columns cold reset, warm reset and Keep of the ball table (R73). -/
def Ball.columns : Ball → PinSt × PinSt × PinSt
  | .lineRx _ | .pcieRx => (.ign, .ign, .off)
  | .lineTx _ | .pcieTx => (.ei, .ei, .off)
  | .sdsRefclk | .pcieRefclk | .perstN => (.act, .act, .ign)
  | .sdsRcal | .ddrZq => (.unstated, .unstated, .unstated)
  | .clkreqN => (.rel, .low, .rel)
  | .ddrCommand => (.low, .sr, .sr)
  | .ddrData => (.hiZ, .sr, .sr)
  | .ddrResetN => (.low, .high, .high)
  | .ain _ => (.az, .az, .az)
  | .reference => (.off, .run, .off)
  | .xoIn | .resetN | .tamperN => (.act, .act, .act)
  | .refIn | .timeIn | .sbmIn | .sbmCsN | .leaseIn | .witN | .avsAlertN | .inhibitN => (.ign, .act, .act)
  | .timeOut => (.low, .run, .run)
  | .eventIn => (.ign, .ign, .ign)
  | .trigOut | .alm _ => (.pd, .inact, .pd)
  | .spt => (.low, .low, .pd)
  | .sbmDo => (.hiZ, .run, .run)
  | .sbmAlertN | .avsBus => (.rel, .run, .run)
  | .leaseOut => (.low, .low, .low)
  | .tmpOutN | .diode => (.run, .run, .run)
  | .strap | .testEn => (.sampled, .ign, .ign)
  | .tck | .jtagIn | .trstN => (.act, .act, .ign)
  | .tdo => (.run, .run, .hiZ)

/-- Which column holds now: none in service, and none without power. A start counts as the warm reset that it leaves until the
settings have restored (R74, R518; DEDUCED 207). -/
inductive PinColumn where
  | unpowered | cold | warm | keep | service
deriving DecidableEq, Repr
/-- The column that holds now. -/
def pinColumn (b : Block) : PinColumn :=
  if b.dev.st == .off then .unpowered
  else if b.dev.cold then .cold
  else if b.dev.warm then .warm
  else if b.dev.st == .keep then .keep
  else if b.dev.step == .launch || b.dev.step == .done then .service
  else .warm

/-- The page whose block reset holds a ball in its warm-reset state (R69). -/
def Ball.page : Ball → Option Nat
  | .alm _ => some 0x2A
  | .spt => some 0x2B
  | .trigOut => some 0x30
  | .timeOut => some 0x02
  | _ => none
/-- The inactive level of the ball comes from settings (R70). -/
def Ball.fromSettings : Ball → Bool
  | .alm _ | .trigOut => true
  | _ => false
/-- A ball's state in service: its function, where the block behind it is in service (R70, R75, R151, R272, R500). -/
def serviceState (b : Block) : Ball → PinSt
  | .lineTx l =>
    if l.val < 4 then (if lineIdle b l.val == .electricalIdle then .ei else .run)
    else if b.member && b.t (pg 0x09 0x040) (l.val - 4) then .run else .ei
  | .lineRx _ | .sdsRefclk | .pcieRefclk | .perstN | .xoIn | .refIn | .timeIn | .eventIn | .sbmIn | .sbmCsN | .leaseIn | .witN
  | .resetN | .avsAlertN | .tamperN | .inhibitN | .tck | .jtagIn | .trstN => .act
  | .pcieRx => if b.dev.link then .ign else .act
  | .pcieTx => if b.dev.link then .ei else .run
  | .ain k => if (b.chan k.val).on then .act else .az
  | .alm _ => if b.enabled 0x2A then .run else .inact
  | .trigOut => if b.enabled 0x30 then .run else .inact
  | .strap | .testEn => .ign
  | .sdsRcal | .ddrZq => .unstated
  | .ddrCommand | .ddrData | .ddrResetN | .reference | .timeOut | .spt | .clkreqN | .sbmDo | .sbmAlertN | .leaseOut | .avsBus
  | .tmpOutN | .tdo | .diode => .run
/-- The state of a ball (R69, R70, R73). -/
def ballState (b : Block) (g : Ball) : PinSt :=
  let (cold, warm, keep) := g.columns
  match pinColumn b with
  | .unpowered => .off
  | .cold => cold
  | .keep => keep
  | .warm => if g.fromSettings && !b.balls.inact then .pd else warm
  | .service =>
    if g.fromSettings && !b.balls.inact then .pd
    else if g.page.any b.inReset then warm
    else serviceState b g

/-- SBM_ALERT_N is low while an enabled cause stands (R63). -/
def sbAlertN (b : Block) : Bool := (b.r (pg 0x81 0x040) &&& b.r (pg 0x81 0x044)) == 0
/-- The level of a single-ended output: none where it is not driven or an external part decides it. PCIE_CLKREQ_N asks for its
clock while it runs (DEDUCED 207); LEASE_OUT is low between its pulses, which are outputs of their own (R486). -/
def ballLevel (b : Block) (g : Ball) : Option Bool :=
  match ballState b g, g with
  | .low, _ => some false
  | .high, _ => some true
  | .inact, .alm i | .run, .alm i => some (b.balls.alm.getLsbD i.val)
  | .inact, .trigOut | .run, .trigOut => some b.balls.trigOut
  | .run, .timeOut => some b.balls.ppsOut
  | .run, .sbmAlertN => if sbAlertN b then none else some false
  | .run, .tmpOutN => if b.balls.tmpOutN then none else some false
  | .run, .clkreqN | .run, .leaseOut => some false
  | .run, .ddrResetN => some true
  | _, _ => none
/-- What an instruction loaded at the JTAG port selects: boundary scan always, any other instruction BYPASS unless an owner session
is open, none in Keep (R73, R569). -/
def jtagTakes (b : Block) (boundaryScan : Bool) : Bool :=
  ballState b .jtagIn == .act && (boundaryScan || b.keys.session.isSome)

end Sys2Proof.Machine
end

