-- ==== Sys2Proof/Safety.lean ====
section
/-! DEFINITION. What a safe run is: every step answers a next state, no command waits that is not well-formed, and the three
memories keep their one canonical form. -/

namespace Sys2Proof.Safety
open Sys2Proof Sys2Proof.Machine

/-- A step from here answers a next state: the block has not stopped. -/
def goesOn (s : State) : Prop := ∃ t, step s = .next t
/-- The same for the next n steps. -/
def goesOnFor : Nat → State → Prop
  | 0, _ => True
  | n + 1, s => ∃ t, step s = .next t ∧ goesOnFor n t
/-- Every command that waits is well-formed. -/
def queueGood (s : State) : Prop := ∀ c ∈ s.pending, c.wellFormed = true
/-- The Granary, the DDR window and the MRAM list each byte once, in rising order, and none that reads as unlisted. -/
def memoriesGood (s : State) : Prop :=
  Memory.wf s.blk.granMem = true ∧ Memory.wf s.blk.ddr = true ∧ Memory.wf s.blk.mram = true

end Sys2Proof.Safety
end

