-- ==== Sys2Proof/Tests/Slice0.lean ====
section
/-! SUPPORT. Tests. A theorem named witness_<statement> shows that the hypotheses of a statement, clause by clause, are met by a
concrete state and operands; a theorem named test_<what> shows one result that the manual fixes. Expected values come from the
rules cited, or from hand calculation by them. -/

set_option Elab.async false

namespace Sys2Proof.Tests
open Sys2Proof Sys2Proof.Machine Sys2Proof.Claim

/-! States. -/

/-- A part in Run: no reset is held, both agents reach it, grid time is at 10 s and always-on time at 1,000 s. -/
def run0 : Block :=
  { dev := { st := .run, cold := false, link := false, step := .done, prev := .idle }
    time := { ctr := 10 * gtSec * 2 ^ 32, ticks := 1250000000000 }
    balls := { inact := true } }
/-- The same as a state with nothing waiting. -/
def st (b : Block) : State := { blk := b }
/-- Registers written. -/
def regs (l : List (Nat × Word)) (b : Block) : Block := l.foldl (fun b e => wr e.1 e.2 b) b

/-! A tick (R116, R125): with a time waiting to be set, VALID 0 and 1, XO_IN lost; in cold reset. -/

theorem witness_Tick : run0.aon = true ∧ run0.time.setPend = none ∧ run0.time.xo = true ∧ run0.time.valid = false ∧ State.reset.blk.aon = false ∧
    (let b := { run0 with time := { run0.time with setPend := some 5 } }
     b.aon = true ∧ b.time.setPend = some 5 ∧ b.time.xo = true ∧ b.time.valid = false ∧ b.time.selected = 0) ∧
    (let b := { run0 with time := { run0.time with setPend := some 5, valid := true } }
     b.time.setPend = some 5 ∧ b.time.valid = true) ∧ ({ run0 with time := { run0.time with xo := false } } : Block).time.xo = false := by
  decide +kernel

/-! Well-formed commands: a term that each check refuses (R188, R483, R475, R61, R136, R94, R172, R556, R270, R445, R454). -/

theorem test_wf_item_empty : (Instr.siloPush 0 []).wellFormed = false := by decide
theorem test_wf_item_partial : (Instr.siloPush 0 (List.replicate 63 0)).wellFormed = false := by decide
theorem test_wf_item : (Instr.siloPush 0 (List.replicate 64 0)).wellFormed = true := by decide
theorem test_wf_link_number : (Instr.plClsMirrorRx { seq := 2 ^ 32, ack := 0, again := false, good := true } 0 (List.replicate 64 0)).wellFormed = false := by decide
theorem test_wf_known_op : (Instr.sbUnknownOp 6 ⟨0, 0, 0, 0⟩ 0).wellFormed = false := by decide
theorem test_wf_unknown_op : (Instr.sbUnknownOp 7 ⟨0, 0, 0, 0⟩ 0).wellFormed = true := by decide
theorem test_wf_cond : (Instr.iBr 0 15 0).wellFormed = false := by decide
theorem test_wf_call_cond : (Instr.iCall 0 15 0).wellFormed = false := by decide
theorem test_wf_time : (Instr.iTime 0 3 3).wellFormed = false := by decide
theorem test_wf_codes : (Instr.conversion []).wellFormed = false ∧ (Instr.syncInEdge []).wellFormed = false := by decide
theorem test_wf_idrik : (Idrik.br 15 0).wellFormed = false ∧ (Idrik.time 1 1).wellFormed = false ∧ Idrik.nop.wellFormed = true := by decide
theorem test_wf_hello : (Instr.plHelloRx ⟨0, 0, false, true⟩ ⟨0, 0, false, 0, false, [], []⟩).wellFormed = false := by decide
theorem test_wf_hostmsg : (Instr.plHostmsgRx ⟨0, 0, false, true⟩ []).wellFormed = false := by decide
theorem test_wf_mirror : (Instr.plMirrorRx ⟨0, 0, false, true⟩ .ack).wellFormed = false := by decide
theorem test_wf_irig : (Instr.irigFrameRx ⟨true, 0, 86401, 1, none, false, false, 0, 0⟩).wellFormed = false ∧
    (Instr.irigFrameRx ⟨true, 0, 0, 0, none, false, false, 0, 0⟩).wellFormed = false ∧
    (Instr.irigFrameRx ⟨true, 0, 0, 367, none, false, false, 0, 0⟩).wellFormed = false ∧
    (Instr.irigFrameRx ⟨true, 0, 0, 1, none, false, false, 0, 16⟩).wellFormed = false := by decide
theorem test_wf_pmbus : (Instr.avsReadVout (.value 65536)).wellFormed = false ∧ (Instr.avsRetry (.value 65536)).wellFormed = false := by decide
theorem test_wf_descriptor : (Instr.lsoDescriptor (.ring 0 [] [] none)).wellFormed = false := by decide
theorem test_wf_puf : (Instr.pufRegenerate [⟨true, 10001⟩] 0).wellFormed = false ∧
    (Instr.rootEnrolmentDone [⟨true, 10001⟩]).wellFormed = false := by decide
theorem test_wf_sections : (Instr.exportBale [8192]).wellFormed = false ∧ (Instr.amendmentExport [8192]).wellFormed = false := by decide

/-! Words of the engines' instructions, bit by bit from R445. -/

/-- cmulc c2,c0,c1,28 and gld w16,[w10+17072] are the manual's own words (R469). -/
theorem test_decode_cmulc : decode 0x80805C03 = some (.cxSh .cmulc 2 0 1 28) := by decide
theorem test_decode_gld : decode 0xA20A42B0 = some (.gload .gld 16 10 0x42B0) := by decide
/-- An unassigned func is illegal (R445). -/
theorem test_decode_func : decode 0x000007FF = none := by decide
/-- br ne, −1: op 0x1C, cond 2, off22 all ones (R444, R449). -/
theorem test_decode_br : decode 0x70BFFFFF = some (.br 2 (-1)) := by decide
/-- The same with cond 15 is illegal. -/
theorem test_decode_cond15 : decode 0x73FFFFFF = none := by decide

/-! The engines' statements. -/

/-- Engine 25 at an instruction of the program, with the item's state. -/
def atInstr (i : Idrik) (r : Run) : State :=
  let b : Block := { run0 with thr := { run0.thr with prog := [(0x100, encode i)] } }
  st (modEng 25 (fun s => { s with run := some r }) b)
/-- An ordered item with a budget of 300 instructions and a heap of 65,536 bytes at offset 65,536. -/
def item0 : Item :=
  { task := 1, words := [0x80002000, 0x800, 0xFFFFFF, 0, 300, 0x00010001, 0, 0], t := 5 * gtSec, d := 0, cons := 0, w4 := 0, replayed := false,
    ovr := false, seq := 0, oseq := 0, pseq := 0 }
/-- Its state: register k holds k, registers 20 and up hold addresses and lengths. -/
def run1 : Run :=
  { item := item0, addr := 1, started := 0, pc := 0x100
    w := Vector.ofFn fun k : Fin 32 => if k.val = 20 then 0x20000 else if k.val = 21 then 4096 else if k.val = 22 then 63
      else if k.val = 23 then 0xC00 else if k.val = 24 then 50 else if k.val = 25 then 0 else if k.val = 26 then 0x7FFF8
      else if k.val = 27 then 0x20003 else if k.val = 28 then 50331640 else if k.val = 29 then 16 else if k.val = 30 then 8
      else BitVec.ofNat 64 k.val }
/-- The same in a free item. -/
def run2 : Run := { run1 with item := { item0 with words := [0x80000000, 0x800, 0xFFFFFF, 0, 300, 0, 0, 0] } }

/-- What Ready asks of engine 25, as a test. -/
def readyAt (s : State) (r : Run) (i : Idrik) (k : Nat) : Bool :=
  decide ((s.blk.eng 25).run = some r) && s.blk.up && decide (r.pc.toNat < 0x20000) && decide (r.pc.toNat % 4 = 0) &&
    decide (decode (progAt s.blk r.pc.toNat) = some i) && decide (r.count + k ≤ r.item.budget)
theorem readyAt_Ready {s : State} {r : Run} {i : Idrik} {k : Nat} (h : readyAt s r i k = true) : Ready s.blk 25 r i k := by
  simp only [readyAt, Bool.and_eq_true, decide_eq_true_eq, and_assoc] at h; exact h
/-- The same of the state with the instruction at the pc. -/
def ready (i : Idrik) (r : Run) (k : Nat) : Bool := readyAt (atInstr i r) r i k

/-- All but dividing and dividing operations, cmp. -/
theorem witness_IntegerOperations : (∀ op ∈ [AluOp.add, .sub, .and, .or, .xor, .sll, .srl, .sra, .mul, .mulh, .mulhu],
      ready (.alu op 1 2 3) run1 1 ∧ op ∉ [AluOp.div, .divu, .rem, .remu]) ∧ ready (.cmp 2 3) run1 1 := by
  decide +kernel
theorem witness_Division : (∀ op ∈ [AluOp.div, .divu, .rem, .remu],
      (ready (.alu op 1 2 0) run1 1 ∧ run1.w[0] = 0) ∧ ready (.alu op 1 2 3) run1 1 ∧ run1.w[3] ≠ 0) := by
  decide +kernel
/-- A budget of 300 that is spent; a word that is no instruction; a pc outside the program. -/
theorem witness_Faulting :
    (let r := { run1 with count := 300 }
     let s := atInstr (.alu .add 1 2 3) r
     (s.blk.eng 25).run = some r ∧ s.blk.up = true ∧ fetchOk r.pc = true ∧ decode (progAt s.blk r.pc.toNat) = some (.alu .add 1 2 3) ∧
       r.item.budget < r.count + 1) ∧
    (let s := atInstr (.br 15 0) run1
     (s.blk.eng 25).run = some run1 ∧ s.blk.up = true ∧ fetchOk run1.pc = true ∧ decode (progAt s.blk run1.pc.toNat) = none) ∧
    (let r := { run1 with pc := 0x20000 }
     ((atInstr .nop r).blk.eng 25).run = some r ∧ fetchOk r.pc = false) := by
  decide +kernel
theorem witness_Immediates : ready (.imm .addi 1 2 0xFFFF) run1 1 ∧ ready (.cmpi 2 0x8000) run1 1 ∧ ready (.imm .andi 1 2 3) run1 1 ∧
    ready (.imm .ori 1 2 3) run1 1 ∧ ready (.imm .xori 1 2 3) run1 1 ∧ ready (.shift .slli 1 2 63) run1 1 ∧
    ready (.shift .srli 1 2 63) run1 1 ∧ ready (.shift .srai 1 2 63) run1 1 ∧ ready (.set .setw 1 3) run1 1 ∧
    ready (.set .shin 1 3) run1 1 ∧ ready (.set .setu 1 3) run1 1 := by
  decide +kernel
/-- Every condition; jr and nop. -/
theorem witness_ControlFlow : (∀ c ∈ List.range 15, ready (.br (BitVec.ofNat 4 c) 5) run1 1 ∧ ready (.call (BitVec.ofNat 4 c) 5) run1 1) ∧
    ready (.jr 2) run1 1 ∧ ready .nop run1 1 := by
  decide +kernel
/-- Loads at the last bytes, misaligned and outside; stores at both ends of scratch and below it. -/
theorem witness_LoadsAndStores :
    (∀ x ∈ [(LoadOp.ld, 8), (.lw, 4), (.lwu, 4), (.lh, 2), (.lhu, 2), (.lb, 1), (.lbu, 1)],
      ready (.load x.1 1 26 0) run1 1 ∧ addr run1 26 0 % x.2 = 0 ∧ 0 ≤ addr run1 26 0 ∧ addr run1 26 0 + x.2 ≤ 0x80000 ∧
      ready (.load x.1 1 26 8) run1 1 ∧ 0x80000 < addr run1 26 8 + x.2 ∧ ready (.load x.1 1 0 (-8)) run1 1 ∧ addr run1 0 (-8) < 0 ∧
      ready (.load x.1 1 27 0) run1 1 ∧ (x.2 ≠ 1 → addr run1 27 0 % x.2 ≠ 0)) ∧
    (∀ x ∈ [(StoreOp.st, (8 : Int)), (.sw, 4), (.sh, 2), (.sb, 1)],
      ready (.store x.1 1 20 0) run1 1 ∧ addr run1 20 0 = 0x20000 ∧
      ready (.store x.1 1 20 (-8)) run1 1 ∧ addr run1 20 (-8) < 0x20000 ∧ 0 ≤ addr run1 20 (-8) ∧
      ready (.store x.1 1 26 0) run1 1 ∧ addr run1 26 0 + x.2 ≤ 0x80000) := by
  decide +kernel
theorem witness_Complex : ready (.cx .cadd 1 2 3) run1 1 ∧ ready (.cx .csub 1 2 3) run1 1 ∧ ready (.cxSh .cmul 1 2 3 63) run1 1 ∧
    ready (.cxSh .cmulc 1 2 3 0) run1 1 ∧ ready (.cxSh .cmac 1 2 3 28) run1 1 ∧ ready (.cxSh .cmacc 1 2 3 28) run1 1 ∧
    ready (.cxUn .csum 1 2) run1 1 ∧ ready (.cxUn .cmag 1 2) run1 1 ∧ ready (.cx .crot 1 2 3) run1 1 ∧ ready (.cxUn .cang 1 2) run1 1 := by
  decide +kernel
theorem witness_laneMoves : (ready (.cld 1 20 0) run1 1 ∧ addr run1 20 0 % 8 = 0 ∧ 0 ≤ addr run1 20 0 ∧ addr run1 20 0 + 32 ≤ 0x80000) ∧
    (ready (.cst 1 26 (-24)) run1 1 ∧ addr run1 26 (-24) % 8 = 0 ∧ 0x20000 ≤ addr run1 26 (-24) ∧ addr run1 26 (-24) + 32 ≤ 0x80000) ∧
    ready (.cget 1 2 3) run1 1 ∧ ready (.cput 1 2 3) run1 1 ∧ ready (.cspl 1 2) run1 1 := by
  decide +kernel
/-- The last eight bytes of the Granary and one beyond; gcpy of 4,096 bytes. -/
theorem witness_Granary :
    (∀ x ∈ [(GranOp.gld, (8 : Int)), (.glw, 4), (.glwu, 4), (.glh, 2)],
      ready (.gload x.1 1 28 0) run1 1 ∧ 0 ≤ addr run1 28 0 ∧ addr run1 28 0 + x.2 ≤ 50331648 ∧
      ready (.gload x.1 1 28 8) run1 1 ∧ 50331648 < addr run1 28 8 + x.2) ∧
    (ready (.gldc 1 28 (-24)) run1 1 ∧ 0 ≤ addr run1 28 (-24) ∧ addr run1 28 (-24) + 32 ≤ 50331648) ∧
    (ready (.gcpy 20 25 21) run1 (1 + (4096 + 15) / 16) ∧ (run1.w[21]).toNat = 4096 ∧ (run1.w[20]).toNat = 0x20000) ∧
    ready (.gbale 1 2) run1 1 ∧ ((atInstr (.gbale 1 2) run1).blk.rate 0).on = false ∧
    (let x : Bale := { idx := 2, time := 0, pos := 0, size := 96, gen := 0, secs := [], deadline := gtSec }
     let s := st (modRate 0 (fun r => { r with on := true, n := 4, bales := [x] }) (atInstr (.gbale 1 2) run1).blk)
     readyAt s run1 (.gbale 1 2) 1 ∧ (s.blk.rate 0).on = true ∧ (s.blk.rate 0).bale 2 = some x ∧ (s.blk.rate 0).bale 3 = none) := by
  decide +kernel
theorem witness_Heap :
    (ready (.hld 1 21 0) run1 1 ∧ 0 < run1.item.heap.2 ∧ addr run1 21 0 % 8 = 0 ∧ 0 ≤ addr run1 21 0 ∧ addr run1 21 0 + 8 ≤ run1.item.heap.2) ∧
    (ready (.hld 1 21 0) run2 1 ∧ run2.item.heap.2 = 0) ∧
    (ready (.hst 1 30 0) run1 1 ∧ addr run1 30 0 % 8 = 0 ∧
      logSize (run1.log ++ [⟨5, 0, leBytes 8 (run1.item.heap.1 + 8) ++ leBytes 8 1⟩]) ≤ 65536) ∧
    (ready (.hrd 20 25 21) run1 (1 + (4096 + 15) / 16) ∧ (run1.w[21]).toNat % 8 = 0 ∧ (run1.w[25]).toNat + 4096 ≤ run1.item.heap.2) ∧
    (ready (.hwr 25 20 21) run1 1 ∧ (run1.w[20]).toNat + 4096 ≤ 0x80000 ∧
      logSize (run1.log ++ [⟨5, 0, leBytes 8 (run1.item.heap.1 + 0) ++ (List.range 4096).map fun k =>
        lsByte (atInstr (.hwr 25 20 21) run1).blk 25 (0x20000 + k)⟩]) ≤ 65536) := by
  decide +kernel
theorem witness_TimeAndBudget :
    (ready (.time 1 2) run2 1 ∧ run2.item.ordered = false ∧ (atInstr (.time 1 2) run2).blk.now < 2 ^ 64 * (1000000000 * 65536)) ∧
    (ready (.time 1 2) run1 1 ∧ run1.item.ordered = true ∧ run1.item.t < 2 ^ 64 * (1000000000 * 65536)) ∧
    (ready (.budl 1) { run1 with count := 299 } 1 ∧ run1.item.budget < 2 ^ 64) := by
  decide +kernel
/-- raise by an item of its class, of the other, and at D = 3. -/
theorem witness_EffectsLog :
    (ready (.spush 22 20 30) run1 1 ∧ (run1.w[30]).toNat = 8 ∧ (run1.w[20]).toNat % 64 = 0 ∧ (run1.w[20]).toNat + 64 * 8 ≤ 0x80000 ∧
      (run1.w[22]).toNat = 63 ∧ logSize (run1.log ++ [⟨1, 63, [0x07, 7] ++ ((List.range 512).map fun k =>
        lsByte (atInstr (.spush 22 20 30) run1).blk 25 (0x20000 + k)).drop 2⟩]) ≤ 65536) ∧
    (ready (.raise 2) run1 1 ∧ run1.item.ordered = true ∧ run1.item.d ≠ 3 ∧ logSize (run1.log ++ [⟨2, 2, []⟩]) ≤ 65536) ∧
    (ready (.raise 2) run2 1 ∧ run2.item.ordered = false) ∧
    (ready (.raise 29) run2 1 ∧ logSize (run2.log ++ [⟨2, 16, []⟩]) ≤ 65536) ∧
    (let r := { run1 with item := { item0 with d := 3 } }
     ready (.raise 2) r 1 ∧ r.item.ordered = true ∧ r.item.d = 3) ∧
    (ready (.erec 23 2 3) run1 1 ∧ 0xC00 ≤ (run1.w[23]).toNat ∧ (run1.w[23]).toNat ≤ 0xFFF ∧
      logSize (run1.log ++ [⟨4, 0xC00, leBytes 4 2 ++ leBytes 4 3⟩]) ≤ 65536) ∧
    (ready (.lsend 20) run1 1 ∧ logSize (run1.log ++ [⟨6, 0, (List.range 64).map fun k => lsByte (atInstr (.lsend 20) run1).blk 25 (0x20000 + k)⟩]) ≤ 65536) := by
  decide +kernel
/-- Alarm source 2 belongs to owner code 4, in the table. -/
def owned (r : Run) : State := { blk := regs [(srcAddr 2, 0xC000)] (atInstr (.aset 2 3) r).blk }
theorem witness_Aset : (readyAt (owned run1) run1 (.aset 2 3) 1 ∧ (run1.w[2]).toNat = 2 ∧ ownerNow (owned run1).blk 2 = 4 ∧
      run1.item.ordered = true ∧ logSize (run1.log ++ [⟨3, 2, List.replicate 8 0⟩]) ≤ 65536) ∧
    (readyAt (owned run2) run2 (.aset 2 3) 1 ∧ run2.item.ordered = false) := by decide +kernel
/-- An entry waits in silo 50. -/
def silo50 (r : Run) : State := { blk := modSilo 50 (fun x => { x with q := [(false, List.replicate 64 7)] }) (atInstr (.spop 1 24 20) r).blk }
theorem witness_Spop :
    (readyAt (silo50 run2) run2 (.spop 1 24 20) 1 ∧ (run2.w[24]).toNat = 50 ∧ (run2.w[20]).toNat % 64 = 0 ∧
      run2.item.ordered = false ∧ ((silo50 run2).blk.silo 50).q = [(false, List.replicate 64 7)]) ∧
    (let s := atInstr (.spop 1 24 20) run2
     readyAt s run2 (.spop 1 24 20) 1 ∧ (s.blk.silo 50).q = []) ∧
    (let s := st (modSilo 50 (fun x => { x with q := [(true, List.replicate 64 7)], defer := 3 }) (atInstr (.spop 1 24 20) run2).blk)
     readyAt s run2 (.spop 1 24 20) 1 ∧ (s.blk.silo 50).q = [(true, List.replicate 64 7)] ∧ 0 < (s.blk.silo 50).defer) ∧
    (readyAt (silo50 run1) run1 (.spop 1 24 20) 1 ∧ run1.item.ordered = true) := by
  decide +kernel
/-- An item that started now has not been slow. -/
theorem witness_Done :
    let r := { run1 with started := run0.mono }
    ready .done r 1 ∧ r.item.ordered = true ∧ itemSlow (atInstr .done r).blk (advanced r 1) = false ∧
      (atInstr .done r).blk.f (pg 0x38 0x044) 23 16 ≠ 0 := by
  decide +kernel
/-- Well-formed instructions, and words that decode. -/
theorem witness_Encoding : Idrik.wellFormed (.cst 15 31 (-1)) = true ∧ decode (encode (.cst 15 31 (-1))) = some (.cst 15 31 (-1)) := by
  decide +kernel

/-! Commands at registers. -/

/-- What accepts and acceptsL ask, as tests. -/
def acc (b : Block) (ag : Agent) (p o : Nat) : Bool := b.reach ag p && (ag == .host || sbwAllows p o) && !b.inReset p
def accL (b : Block) (ag : Agent) (p o : Nat) : Bool := acc b ag p o && !b.locked p && !b.sharedHeld p o
theorem acc_accepts {b : Block} {ag : Agent} {p o : Nat} (h : acc b ag p o = true) : accepts b ag p o := by
  simpa [acc, accepts, and_assoc] using h
theorem accL_acceptsL {b : Block} {ag : Agent} {p o : Nat} (h : accL b ag p o = true) : acceptsL b ag p o := by
  simpa [accL, acc, acceptsL, accepts, and_assoc] using h

/-- Every page, its first and last offset, an unaligned one, both agents' reach; an offset that PG_SBW withholds. -/
theorem witness_RegisterWrites : (∀ p ∈ allPages, run0.reach .host p = true ∧ run0.reach .side p = true) ∧
    0xFFF < 0x1000 ∧ 0xFFF % 4 ≠ 0 ∧ sbwAllows 0x01 0x014 = true ∧ sbwAllows 0x04 0x014 = false := by decide +kernel
/-- R54: the mask is non-zero in DEV, PWR, PAIR, EVR, UPD, BIST, KEY and SBM alone. -/
theorem test_sbw_pages : (allPages.filter fun p => pageSbw p != 0) = [0x00, 0x01, 0x60, 0x64, 0x68, 0x6C, 0x70, 0x81] := by decide +kernel
/-- TIME_SET_SEC, staged and not; a port's ring base while its ring is empty. -/
theorem witness_PairWrites :
    (let b := run0
     rwPair (pg 0x02 0x078) = some (pg 0x02 0x078) ∧ rwPair (pg 0x02 0x07C) = some (pg 0x02 0x078) ∧
     (∀ ag ∈ [Agent.host, .side], b.reach ag 0x02 = true) ∧ writeCode .host (pg 0x02 0x078) 5 b = some 0 ∧
     writeCode .host (pg 0x02 0x07C) 5 b = some 0 ∧ b.host.stagedLo.find? (fun e => e.1 == pg 0x02 0x078) = none ∧
     rwPair (pg 0x04 0x060) = some (pg 0x04 0x060) ∧ rwPair (pg 0x04 0x064) = some (pg 0x04 0x060) ∧ ringBusy b 0 = false) ∧
    (let b := { run0 with host := { stagedLo := [(pg 0x02 0x078, 7)] } }
     b.host.stagedLo.find? (fun e => e.1 == pg 0x02 0x078) = some (pg 0x02 0x078, 7) ∧ writeCode .host (pg 0x02 0x07C) 5 b = some 0) := by
  decide +kernel
/-- A port's ring that is not empty. -/
theorem witness_PairWritesBusy : (let b := regs [(pg 0x04 0x06C, 1)] run0
     b.reach .host 0x04 = true ∧ writeCode .host (pg 0x04 0x064) 5 b = some 0 ∧ ringBusy b 0 = true) := by decide +kernel
theorem witness_Unmapped : run0.hostUp = true ∧ 0x300 ∉ allPages ∧ (0x0F : Nat) ∉ allPages ∧ 0x0F000 / 0x1000 = 0x0F := by decide
/-- Addresses of the three windows, their first and last words. -/
theorem witness_Windows : run0.hostUp = true ∧ ∀ x ∈ [0, 0x2FFFFFC, 0x3000000, 0x37FFFFC, 0x3800000, 0x3FFFFFC], x < 0x4000000 ∧ x % 4 = 0 := by
  decide +kernel
/-- Locked by the owner's lock, an owner session and no update; without a session; at the side-band. -/
theorem witness_OwnerLock :
    (∀ p ∈ allPages, run0.reach .host p = true ∧ run0.reach .side p = true) ∧
    (let b := { run0 with keys := { run0.keys with session := some 0 } }
     b.keys.session.isSome = true ∧ lockHeld b = false) ∧
    (let b := regs [(pg 0x02 0x028, 1)] run0
     b.locked 0x02 = true ∧ b.keys.session.isSome = false) := by decide +kernel
/-- A vector with two pages, one of them pending still behind the clear; one masked. -/
theorem witness_Interrupts : vecOf 0x02 ≠ none ∧ run0.hostUp = true ∧
    (let b := regs [(pg 0x02 0x014, 3), (pg 0x02 0x018, 3)] run0
     ∃ k, vecOf 0x02 = some k ∧ grpPending b k = true) := by
  refine ⟨by decide +kernel, by decide +kernel, ?_⟩
  exact ⟨_, rfl, by decide +kernel⟩
/-- A counter pair of port A, which clears; a pair of TIME, which does not; a clear-on-read word of DEV. -/
theorem witness_Reads :
    (groupOf (pg 0x04 0x200) = some (pg 0x04 0x200, 2) ∧ pageOf (pg 0x04 0x200) = some 0x04 ∧ isRc (pg 0x04 0x200) = true) ∧
    (groupOf (pg 0x02 0x070) = some (pg 0x02 0x070, 2) ∧ pageOf (pg 0x02 0x070) = some 0x02 ∧ isRc (pg 0x02 0x070) = false) ∧
    (groupOf (pg 0x00 0x094) = none ∧ pageOf (pg 0x00 0x094) = some 0x00 ∧ isRc (pg 0x00 0x094) = true) ∧
    run0.frozen = [] ∧ run0.host.bankPages = [] := by decide +kernel
theorem witness_Snapshots : (∀ p ∈ allPages, run0.reach .side p = true ∧ p ∉ run0.frozen) ∧ run0.hostUp = true ∧
    sbwAllows 0x01 0x008 = true ∧ sbwAllows 0x02 0x008 = false ∧ 0x02 ∈ ({ run0 with frozen := [0x02] } : Block).frozen := by decide +kernel

/-! The side-band port. -/

/-- The CRC of a command and its data. -/
def crcOf (op : Nat) (h : SbHeader) (data : List Byte) : Half :=
  BitVec.ofNat 16 (crc16 ([BitVec.ofNat 8 op, h.page] ++ beBytes 3 h.ofs.toNat ++ beBytes 2 h.len.toNat ++ [h.tag] ++ data))
/-- What arrives asks, as a test. -/
def arr (b : Block) (op : Nat) (h : SbHeader) (data : List Byte) : Bool :=
  b.aon && decide (crc16 ([BitVec.ofNat 8 op, h.page] ++ beBytes 3 h.ofs.toNat ++ beBytes 2 h.len.toNat ++ [h.tag] ++ data)
    = (crcOf op h data).toNat) && b.sb.resp.isNone
theorem arr_arrives {b : Block} {op : Nat} {h : SbHeader} {data : List Byte} (x : arr b op h data = true) :
    arrives b op h data (crcOf op h data) := by
  simpa [arr, arrives, and_assoc] using x

/-- A READ of PG_ERR; LENGTH 3 and 4,100; the last word of a page with LENGTH 8. -/
theorem witness_SideReads : arr run0 1 ⟨0x02, 0x01C, 4, 9⟩ [] ∧ run0.reach .side 0x02 = true ∧ arr run0 1 ⟨0x02, 0x01C, 3, 9⟩ [] ∧
    arr run0 1 ⟨0x02, 0, 4100, 9⟩ [] ∧ arr run0 1 ⟨0x02, 0xFFC, 8, 9⟩ [] ∧ run0.dev.st ≠ .keep := by decide +kernel
/-- Every operation with a CRC that is off by one. -/
theorem witness_BadFrames : run0.aon = true ∧ run0.sb.resp = none ∧ ∀ op ∈ [1, 2, 3, 4, 5, 6],
    crc16 ([BitVec.ofNat 8 op, (2 : Byte)] ++ beBytes 3 28 ++ beBytes 2 4 ++ [9] ++ (if op = 2 then leBytes 4 1 else [])) ≠
      (crcOf op ⟨2, 28, 4, 9⟩ (if op = 2 then leBytes 4 1 else []) + 1).toNat := by decide +kernel
theorem witness_SideWrites : arr run0 2 ⟨0x02, 0x018, 4, 9⟩ (leBytes 4 1) ∧ arr run0 2 ⟨0x02, 0x028, 4, 9⟩ (leBytes 4 1) ∧
    arr run0 2 ⟨0x02, 0x028, 4, 9⟩ (leBytes 4 0) ∧ arr run0 2 ⟨0xFF, 0x080000, 4, 9⟩ (leBytes 4 0) ∧
    (∃ o ∈ [0x100000, 0x080000, 0x200000], (tablePage (0x100000 + o)).isSome = true) := by decide +kernel
/-- No response, one not ready, one ready. -/
theorem witness_Fetches : run0.aon = true ∧
    crc16 ([0x03, (0 : Byte)] ++ beBytes 3 0 ++ beBytes 2 0 ++ [9]) = (crcOf 3 ⟨0, 0, 0, 9⟩ []).toNat ∧ run0.sb.resp = none ∧
    ({ run0 with sb := { resp := some ⟨0, 1, [5], 0, false⟩ } } : Block).sb.resp = some ⟨0, 1, [5], 0, false⟩ ∧
    ({ run0 with sb := { resp := some ⟨0, 1, [5], 0, true⟩ } } : Block).aon = true := by decide +kernel
theorem witness_Guarded : arr run0 4 ⟨0, 0x4B4550, 0, 9⟩ [] ∧ arr run0 5 ⟨0, 0x575253, 0, 9⟩ [] ∧ arr run0 4 ⟨0, 0, 0, 9⟩ [] ∧
    arr run0 5 ⟨0, 0, 0, 9⟩ [] ∧
    (let b := { run0 with sb := { resp := some ⟨0, 1, [], run0.mono, false⟩, due := [(run0.mono, .keep)] } }
     b.aon = true ∧ b.dev.st = .run ∧ run0.mono ≤ b.mono) ∧
    (let b := { run0 with sb := { resp := some ⟨0, 1, [], run0.mono + 1, false⟩, due := [(run0.mono + 1, .warm)] } }
     b.aon = true ∧ b.mono < run0.mono + 1) := by decide +kernel
theorem witness_Mailbox : arr run0 6 ⟨0, 0, 0, 9⟩ [] ∧ run0.inReset 0x13 = false ∧ (run0.silo 63).q = [] ∧
    ((modSilo 63 (fun x => { x with q := [(false, [1])] }) run0).silo 63).q = [(false, [1])] ∧
    arr run0 9 ⟨0, 0, 0, 9⟩ [] ∧ sbKnownOp 9 = false ∧ sbGood 9 ⟨0, 0, 0, 9⟩ [] (crcOf 9 ⟨0, 0, 0, 9⟩ [] + 1) = false ∧
    (let b := { run0 with sb := { resp := some ⟨0, 1, [], 0, true⟩ } }
     b.aon = true ∧ sbGood 9 ⟨0, 0, 0, 9⟩ [] (crcOf 9 ⟨0, 0, 0, 9⟩ []) = true ∧ b.sb.resp.isSome = true) := by decide +kernel

/-! Modes, states and resets. -/

/-- The same part with rate 0 at 50 bales a second. -/
def withRate (b : Block) : Block :=
  regs [(brReg 0 0x080, 0x80000032)] { b with gran := { b.gran with rates := b.gran.rates.set 0 { b.rate 0 with on := true, base := 0, n := 4 } } }
/-- No rate; one at 50 bales a second; a request that waits; a locked page; T_eff reached and not. -/
theorem witness_Modes : accL run0 .host 0x00 0x040 ∧ modeRefusal run0 = 0 ∧ leadRate run0 = none ∧
    (let b := withRate run0
     accL b .host 0x00 0x040 ∧ modeRefusal b = 0 ∧ leadRate b = some 0 ∧ b.rateHz 0 = 50) ∧
    (let b := withRate { run0 with mode := { run0.mode with pend := some (true, run0.now) } }
     accL b .host 0x00 0x040 ∧ b.mode.pend.isSome = true ∧ leadRate b = some 0 ∧ b.running = true ∧ run0.now ≤ b.mark) ∧
    (let b := withRate { run0 with mode := { run0.mode with pend := some (true, run0.now + 1) } }
     leadRate b = some 0 ∧ b.mark < run0.now + 1) ∧
    (let b := regs [(pg 0x00 0x028, 1)] run0
     acc b .host 0x00 0x040 ∧ b.locked 0x00 = true) ∧ run0.up = true ∧
    (let b := { run0 with upd := { run0.upd with phase := 6 } }
     accL b .host 0x00 0x040 ∧ b.mode.pend = none ∧ b.upd.phase = 6) ∧
    (let b := regs [(pg 0x00 0x050, 1)] { run0 with pair := { run0.pair with role := .detached } }
     accL b .host 0x00 0x040 ∧ b.mode.pend = none ∧ b.member = true ∧ b.pair.role = .detached ∧ b.upd.phase ≠ 6 ∧ b.upd.phase ≠ 7) ∧
    (let b := regs [(pg 0x00 0x050, 1)] { run0 with pair := { run0.pair with role := .noRole } }
     accL b .host 0x00 0x040 ∧ b.member = true ∧ b.linked = false ∧ b.pair.role ≠ .active ∧ b.pair.role ≠ .detached) ∧
    (let b := regs [(pg 0x00 0x050, 1)] { run0 with pair := { run0.pair with role := .active } }
     accL b .host 0x00 0x040 ∧ b.member = true ∧ b.linked = false ∧ b.pair.role = .active) ∧
    run0.mode.govern = false := by decide +kernel
/-- The request of R28 at 10 s: T_eff is the instant 20 ms later. -/
theorem test_mode_at_next_instant :
    (modeReq 1 (withRate run0)).mode.pend = some (true, 10 * gtSec + 20 * gtMs 1) := by decide +kernel
theorem witness_BlockResets : run0.hostUp = true ∧ run0.inReset 0x19 = false ∧
    (let b := { run0 with dev := { run0.dev with blocks := [0x00, 0x19] } }
     b.hostUp = true ∧ b.inReset 0x00 = true ∧ b.inReset 0x19 = true) ∧
    run0.reach .side 0x19 = true ∧ sbwAllows 0x19 0x008 = false ∧ sbwAllows 0x01 0x008 = true ∧ run0.dev.link = false ∧
    (let b := { run0 with dev := { run0.dev with blocks := [0x20] }, supply := { run0.supply with low := [3] } }
     b.inReset 0x20 = true ∧ (3 : Fin 5) ∈ b.supply.low ∧ (0 : BitVec 5).getLsbD 3 = false ∧ (31 : BitVec 5).getLsbD 3 = true) := by
  decide +kernel
/-- POR_N low for 10 µs and 99 ns; TEST_EN low and high. -/
theorem witness_ColdResets : run0.dev.st ≠ .off ∧ 10000 ≤ 10000 ∧ 99 < 100 ∧ State.reset.blk.dev.cold = true ∧
    State.reset.blk.dev.st ≠ .off ∧ State.reset.blk.dev.testEn = false ∧
    ({ run0 with dev := { run0.dev with testEn := true } } : Block).dev.testEn = true := by decide +kernel
/-- VDD_AON still holds the cold reset, VIO the warm one; no supply does. -/
theorem witness_HoldsReset : holdsReset { run0 with supply := { run0.supply with low := [0] } } 0 [0, 1] ∧
    holdsReset { run0 with supply := { run0.supply with low := [2] } } 0 [2, 4] ∧ run0.supply.low = [] :=
  ⟨⟨0, by decide, by decide, by decide⟩, ⟨2, by decide, by decide, by decide⟩, by decide⟩
/-- Each step of the start; no good settings slot; a warm reset held no more. -/
def atStep (x : StartStep) : Block := { run0 with dev := { run0.dev with st := .starting, step := x } }
theorem witness_Starts : (∀ x ∈ [StartStep.puf, .image, .settings, .launch], (atStep x).aon = true ∧ (atStep x).dev.step = x) ∧
    restorePick (atStep .settings) 0 = none ∧ (atStep .launch).dev.warm = false ∧ (atStep .launch).dev.waiting = none ∧
    (atStep .launch).time.xo = true ∧ (atStep .launch).dev.target = .run := by decide +kernel
/-- RST_N low for 1 µs; two watchdog resets within 600 s; a warm reset that is held. -/
theorem witness_WarmReset : run0.up = true ∧ (∀ ag ∈ [Agent.host, .side], acc run0 ag 0x00 0x088) ∧
    (let b := { run0 with dev := { run0.dev with wdogAt := [(none, 500 * gtSec), (none, 400 * gtSec)] } }
     b.up = true ∧ b.time.valid = false ∧ b.mono ≤ 400 * gtSec + 600 * gtSec) ∧
    (let b := { run0 with
      dev := { run0.dev with wdogAt := [(some run0.now, run0.mono), (some 0, 0)] }
      time := { run0.time with valid := true } }
     b.up = true ∧ b.time.valid = true ∧ b.now ≤ 0 + 600 * gtSec) ∧
    ({ run0 with dev := { run0.dev with warm := true } } : Block).dev.warm = true ∧ run0.dev.step ≠ .launch ∧ (0x5753 : Half) ≠ 0x5752 := by
  decide +kernel
theorem witness_LinkResets : run0.aon = true ∧ run0.dev.warm = false ∧ run0.dev.link = false ∧
    run0.dev.strapBalls.toNat = run0.f (pg 0x00 0x050) 3 0 ∧ (1 : BitVec 4).toNat ≠ run0.f (pg 0x00 0x050) 3 0 ∧
    (0 : BitVec 4).toNat = run0.f (pg 0x00 0x050) 3 0 ∧ run0.dev.st ≠ .keep ∧
    ({ run0 with dev := { run0.dev with strapBalls := 5 } } : Block).dev.strapBalls.toNat ≠ run0.f (pg 0x00 0x050) 3 0 := by decide +kernel
/-- A part in each state, which both agents reach. -/
def inState (x : PowerSt) : Block := { run0 with dev := { run0.dev with st := x } }
theorem witness_StateRequests : (∀ ag ∈ [Agent.host, .side], ∀ x ∈ [PowerSt.run, .idle], acc (inState x) ag 0x00 0x084 ∧ (inState x).dev.st = x) ∧
    acc (inState .keep) .side 0x00 0x084 ∧ (inState .keep).dev.keepFrom ≠ .keep ∧ acc (inState .starting) .side 0x00 0x084 := by
  decide +kernel
theorem witness_SettingsCommits :
    acc run0 .host 0x00 0x100 ∧ run0.dev.st ≠ .keep ∧ run0.settings.writing = none ∧ run0.settings.deferred = false ∧
    run0.upd.slotHeld = false ∧ run0.supply.brace = false ∧
    (let b := { run0 with supply := { run0.supply with brace := true } }
     acc b .host 0x00 0x100 ∧ b.settings.writing = none ∧ b.supply.brace = true) ∧
    (let b := { run0 with settings := { run0.settings with writing := some {} } }
     acc b .host 0x00 0x100 ∧ b.settings.writing = some {} ∧ b.aon = true ∧ b.supply.brace = false ∧ b.settings.deferred = false) ∧
    (let b := { run0 with settings := { run0.settings with writing := some {} }, supply := { run0.supply with brace := true } }
     b.settings.writing = some {} ∧ b.aon = true ∧ b.supply.brace = true) ∧
    (let b := { run0 with settings := { run0.settings with deferred := true } }
     acc b .host 0x00 0x100 ∧ b.settings.deferred = true) ∧
    (let b := { run0 with upd := { run0.upd with slotHeld := true } }
     acc b .host 0x00 0x100 ∧ b.upd.slotHeld = true ∧ b.settings.writing = none) ∧
    (0x4355 : Half) ≠ 0x4354 := by decide +kernel

/-! Supplies and watchdogs. -/

/-- A supply 1 mV below its warning level and at it, the recorder not ready and ready; a commit that waits, begun and not. -/
def braced (w : List MramWait) (f : Settings → Settings) : Block :=
  { run0 with supply := { run0.supply with brace := true, warn := [0], waits := w }, settings := f run0.settings }
theorem witness_Braces : run0.aon = true ∧ (0 : Fin 5) ∉ run0.supply.warn ∧ run0.supply.brace = false ∧ run0.up = true ∧
    0 < warnLevel run0 0 ∧ run0.evr.ready = false ∧
    (let b := { run0 with evr := { run0.evr with ready := true } }
     b.t (rateAt 0x010) 7 = false ∧ b.t (rateAt 0x010) 6 = true ∧ b.evr.unlimited < 1000) ∧
    (let b := braced [.settings] (fun t => { t with deferred := true })
     b.supply.brace = true ∧ b.supply.waits = [.settings] ∧ b.settings.deferred = true ∧ b.settings.writing = none) ∧
    (let b := braced [.settings] (fun t => { t with deferred := true, writing := some {} })
     b.settings.deferred = true ∧ b.settings.writing = some {}) ∧
    (∀ i : Fin 5, 0 < resetLevel i) := by decide +kernel
/-- A margin just below 15 %, in the band, above 25 %, with the request one step from its bound; a reading 10 mV off and one 11 mV
above; 5 ms without; a retry after 1 s, with and without the regulator's format. -/
def avsWith (f : Supply → Supply) : Block := { run0 with supply := f { run0.supply with avsOn := true } }
theorem witness_AdaptiveVoltage :
    (let b := avsWith (fun p => { p with reqMv := 845 })
     b.supply.evalAt + gtMs 10 ≤ b.mono ∧ b.supply.busy = false ∧ b.supply.fault = false ∧ b.t (pg 0x01 0x040) 7 = false ∧
       (1295 : BitVec 16).toNat * 1000 < 11264 * 115 ∧ b.supply.reqMv < 850 ∧ b.f (pg 0x01 0x040) 27 16 < b.supply.reqMv ∧
       11264 * 125 < (1409 : BitVec 16).toNat * 1000 ∧ b.supply.brace = false ∧ 11264 * 115 ≤ (1296 : BitVec 16).toNat * 1000 ∧
       (1408 : BitVec 16).toNat * 1000 ≤ 11264 * 125) ∧
    (let b := avsWith (fun p => { p with busy := true, stepAt := run0.mono - gtMs 5, reqMv := 750 })
     b.supply.busy = true ∧ b.supply.polledAt + gtMs 1 ≤ b.mono ∧ b.supply.stepAt + gtMs 5 ≤ b.mono ∧ 760 ≤ b.supply.reqMv + 10 ∧
       b.supply.reqMv ≤ 760 + 10 ∧ b.supply.reqMv + 10 < 761) ∧
    (avsWith (fun p => { p with busy := true, stepAt := run0.mono })).mono < run0.mono + gtMs 5 ∧
    (∀ m ∈ [none, some 0x14], let b := avsWith (fun p => { p with fault := true, retryAt := run0.mono - gtSec, vmode := m })
     b.supply.fault = true ∧ b.supply.busy = false ∧ b.supply.retryAt + gtSec ≤ b.mono ∧ b.supply.vmode = m) := by decide +kernel
theorem witness_HostWatchdog : acc run0 .host 0x80 0x04C ∧ run0.aon = true ∧
    (let b := regs [(pg 0x80 0x048, 1000)] { run0 with wdogRuns := true, wdogKickAt := run0.mono - gtMs 1000 }
     b.wdogRuns = true ∧ b.r (pg 0x80 0x048) ≠ 0 ∧ b.wdogKickAt + gtMs (b.r (pg 0x80 0x048)).toNat ≤ b.mono) := by decide +kernel

/-! Self-test, recorder, keys, update. -/

/-- The first error of a row, below the limit; the limit's. -/
theorem witness_MemoryTests :
    (let n := (run0.bist.ce.filter fun e => e.1 == 1 && e.2.1 == 2).length + 1
     n < run0.f (pg 0x70 0x058) 7 0) ∧
    (let b := { run0 with bist := { run0.bist with ce := List.replicate 255 (1, 2, run0.now) } }
     let recent := b.bist.ce.filter fun e => b.now < e.2.2 + 86400 * gtSec
     b.f (pg 0x70 0x058) 7 0 ≤ (recent.filter fun e => e.1 == 1 && e.2.1 == 2).length + 1) ∧ run0.bist.usedRows 1 = 0 ∧
    run0.aon = true ∧ run0.up = true ∧ (EccResult.corrected ≠ .clean) ∧ run0.powered 0 = true ∧ State.reset.blk.aon = false := by decide +kernel
/-- An array whose spare rows are all used. -/
theorem witness_SpentArray : Config.spareRows 1 ≤ (Bist.usedRows { run0.bist with used := [(1, Config.spareRows 1)] } 1) := Nat.le_refl _
theorem witness_Health : (run0.bist.lanes[(0 : Fin 4)]).getLsbD 0 = true ∧ run0.up = true ∧ reportSecond run0 = run0.bist.reportAt ∧
    (let b := { run0 with time := { run0.time with valid := true } }
     b.up = true ∧ reportSecond b ≠ b.bist.reportAt) ∧
    ({ run0 with bist := { run0.bist with ueEnd := some run0.now, hsEnd := some (run0.now + 1) } } : Block).bist.ueEnd = some run0.now := by
  decide +kernel
/-- Rotation due; a step in progress; a request with and without its guard, of a spare. -/
theorem witness_Rotation :
    (let b := regs [(pg 0x70 0x04C, 0x80000000)] run0
     b.up = true ∧ b.inReset 0x70 = false ∧ b.t (pg 0x70 0x04C) 31 = true ∧ b.bist.rot = none ∧ b.bist.rotPause ≤ b.mono ∧
       rotDegraded b = none ∧ b.spareFree 24 = true ∧ b.spareFree 25 = true ∧ b.bist.rotNext < 24 ∧ (b.eng b.bist.rotNext).gone = false) ∧
    (let b := { run0 with bist := { run0.bist with rot := some ⟨3, 24, false⟩ } }
     b.up = true ∧ (b.eng 3).run = none) ∧
    (let b := { run0 with bist := { run0.bist with rot := some ⟨3, 24, true⟩ } }
     b.up = true ∧ b.bist.rot = some ⟨3, 24, true⟩ ∧ (b.eng 3).run = none) ∧ run0.spareFree 24 = true ∧ run0.serves 5 = some 5 ∧ 0x45 ∈ allPages ∧
    acc run0 .side 0x70 0x100 ∧ (0x42540003 : Word).toNat / 65536 = 0x4254 ∧ (0x42540003 : Word).toNat % 32 < 24 ∧
    24 ≤ (0x42540018 : Word).toNat % 32 ∧ (0x18 ∈ allPages ∧ 0x18 < 0x40) ∧ run0.t (pg 0x70 0x05C) 16 = true ∧
    (regs [(pg 0x70 0x05C, 0)] run0).t (pg 0x70 0x05C) 16 = false := by decide +kernel
/-- An occurrence of code 0x201; its rate entry as it stands, with its own bucket empty, dropped; the queue at its limit. -/
theorem witness_Recorder :
    (let b := { run0 with evr := { run0.evr with ready := true, occ := [⟨0x201, 0, 0⟩] } }
     b.evr.ready = true ∧ b.t (rateAt 0x201) 7 = false ∧ b.t (rateAt 0x201) 6 = false ∧ 1000000 ≤ bucketOf b 0x201 ∧
       b.evr.globalUsed + 1000000 ≤ 4096 * 1000000 ∧ b.evr.queue.length < 256) ∧
    (let b := { run0 with evr := { run0.evr with ready := true, occ := [⟨0x201, 0, 0⟩], tokens := [(0x201, 999999)] } }
     bucketOf b 0x201 < 1000000) ∧
    (let b := { run0 with evr := { run0.evr with ready := true, occ := [⟨0x201, 0, 0⟩], globalUsed := 4096 * 1000000 } }
     1000000 ≤ bucketOf b 0x201 ∧ 4096 * 1000000 < b.evr.globalUsed + 1000000) ∧
    (let b := regs [(rateAt 0x201, 0x40)] run0
     b.t (rateAt 0x201) 6 = true ∧ b.evr.unlimited < 1000) ∧
    (let r : EvrRec := ⟨0, 0x201, false, false, [], 0, false⟩
     let b := { run0 with evr := { run0.evr with ready := true, occ := [⟨0x010, 0, 0⟩], queue := List.replicate 256 r } }
     256 ≤ b.evr.queue.length ∧ b.evr.unlimited < 1000 ∧ b.t (rateAt 0x010) 6 = true) ∧
    (let b := regs [(rateAt 0x201, 0x80)] run0
     b.t (rateAt 0x201) 7 = true) ∧
    (let r : EvrRec := ⟨0, 0x201, false, false, [], 0, false⟩
     let b := { run0 with evr := { run0.evr with queue := List.replicate 256 r } }
     256 ≤ b.evr.queue.length ∧ b.supply.brace = false) := by decide +kernel
/-- An erased ring; a cursor at the head. -/
theorem witness_RecorderTimers : run0.dev.st ≠ .off ∧
    (let b := { run0 with evr := { run0.evr with aonMs := 1000 } }
     b.evr.secDone < b.evr.aonMs / 1000) ∧ run0.evr.aonMs / 1000 ≤ run0.evr.secDone ∧ run0.evr.ready = false ∧ run0.aon = true ∧ ringSeqs run0 = [] ∧ run0.agentUp .side = true ∧
    (run0.side.evrCur - run0.evr.tail).toNat < 2 ^ 31 ∧ (run0.side.evrCur - run0.evr.head).toNat < 2 ^ 31 := by decide +kernel
/-- A record of SEQ 0 that the ring holds and the cursor is at. -/
def ring1 : Block :=
  let l := padTo 124 [0, 0, 0, 0, 1]
  { run0 with mram := writeBytes [] 0x02C00000 (l ++ leBytes 4 (crc32c l)), evr := { run0.evr with ready := true, head := 1, next := 1 } }
set_option maxRecDepth 100000 in
theorem witness_RecorderWindow :
    (let l := readBytes ring1.mram 0x02C00000 128
     recGood l = true ∧ leAt l 0 4 = ring1.side.evrCur.toNat) ∧ (ring1.side.evrCur - ring1.evr.tail).toNat < 2 ^ 31 ∧
    2 ^ 31 ≤ (ring1.side.evrCur - ring1.evr.head).toNat ∧ ringSeqs ring1 = [0] ∧
    (let b := { ring1 with evr := { ring1.evr with full := true, head := 65546 } }
     2 ^ 31 ≤ (b.side.evrCur - b.evr.tail).toNat) ∧
    (let b := { ring1 with mram := [] }
     recGood (readBytes b.mram 0x02C00000 128) = false) := by decide +kernel
theorem witness_EvrAdv : (∀ ag ∈ [Agent.host, .side], acc run0 ag 0x64 0x084) ∧ (0xFFFF : Word).toNat % 65536 ≠ 0 ∧
    (0x10000 : Word).toNat % 65536 = 0 ∧ run0.aon = true ∧ run0.dev.warm = false ∧ run0.dev.link = false ∧ run0.up = true ∧ run0.dev.st ≠ .keep := by decide +kernel
/-- The tables of a full settings image come to the sum of R516's sizes. -/
theorem test_settings_tables : tablesLen = 1713824 := by decide +kernel

/-- A session, slot 5 selected, no write: a derived descriptor of use 1; without a session, of the root parent 0x100. -/
def keyed (d : Word) (k : Keys) : Block := regs [(pg 0x68 0x040, 5), (pg 0x68 0x054, d)] { run0 with keys := k }
theorem witness_KeySlots :
    (let b := keyed 0x01010100 { session := some 0, rootOk := true }
     accL b .host 0x68 0x058 ∧ b.keys.write = none ∧ (b.r (pg 0x68 0x040)).toNat % 256 ≠ 0 ∧ b.keys.session.isSome = true ∧
       b.keys.rootOk = true ∧ descOk (b.r (pg 0x68 0x054)) = true ∧ parentOk b.keys (b.r (pg 0x68 0x054)) = true ∧
       descKind (b.r (pg 0x68 0x054)) = 0 ∧ (0x4B52 : Half) ≠ 0x4B53) ∧
    (let b := keyed 0x01010100 {}
     accL b .host 0x68 0x058 ∧ b.keys.session = none ∧ descParent (b.r (pg 0x68 0x054)) = 0x100) ∧
    (let b := keyed 0 { write := some ⟨5, ⟨1, 0, [], []⟩, 0, 0, []⟩, slots := [(5, { commit := some ⟨0, 1, 0, 0, 0⟩ })] }
     b.keys.write.isSome = true ∧ b.keys.deferred = false ∧ b.supply.brace = false ∧ (b.keys.slot 5).commit = some ⟨0, 1, 0, 0, 0⟩ ∧
       accL b .host 0x68 0x058) ∧
    (let b := keyed 0 { slots := [(5, { desc := 0x01010100 })] }
     accL b .host 0x68 0x058 ∧ b.keys.write = none ∧ b.keys.session = none ∧ descUse (b.keys.slot 5).desc = 1) ∧
    (let b := { keyed 0 { write := some ⟨5, ⟨1, 0, [], []⟩, 0, 0, []⟩ } with supply := { run0.supply with brace := true } }
     b.keys.write.isSome = true ∧ b.keys.deferred = false ∧ b.supply.brace = true) ∧
    (let b := keyed 0x03210100 { session := some 0 }
     b.keys.rootOk = false ∧ descOk (b.r (pg 0x68 0x054)) = false) ∧
    (let b := keyed 0x01010003 { session := some 0, rootOk := true }
     descOk (b.r (pg 0x68 0x054)) = true ∧ parentOk b.keys (b.r (pg 0x68 0x054)) = false) ∧
    (let b := regs [(pg 0x68 0x040, 0)] run0
     accL b .host 0x68 0x058 ∧ (b.r (pg 0x68 0x040)).toNat % 256 = 0) := by decide +kernel
/-- A challenge and no session; a session that has ended, one that has not; an attempt of an open, with and without an anchor. -/
theorem witness_OwnerSessions :
    run0.hostUp = true ∧ run0.powered 0x68 = true ∧ run0.keys.chalFrom ≤ run0.mono ∧ acc run0 .host 0x68 0x068 ∧ run0.keys.chal = none ∧ run0.keys.verifying = none ∧
    (let b := { run0 with keys := { run0.keys with chal := some [1] } }
     acc b .host 0x68 0x068 ∧ b.keys.chal = some [1] ∧ b.keys.session = none) ∧
    (let b := { run0 with keys := { run0.keys with session := some run0.now, chal := some [1] } }
     b.keys.session.isSome = true ∧ run0.now ≤ b.mono) ∧
    (let b := { run0 with keys := { run0.keys with session := some 0, verifying := some ⟨3, [], [], []⟩, chalFrom := run0.mono + 1 } }
     b.keys.session.isSome = true ∧ b.keys.verifying = some ⟨3, [], [], []⟩ ∧ b.mono < b.keys.chalFrom) ∧
    (let b := { run0 with keys := { run0.keys with session := some (run0.mono + 1) } }
     b.mono < run0.mono + 1) ∧
    (let b := { run0 with keys := { run0.keys with verifying := some ⟨1, [], [], []⟩ } }
     b.keys.anchor = zeros 48 ∧ b.keys.verifying = some ⟨1, [], [], []⟩) ∧
    ({ run0.keys with anchor := 1 :: zeros 47 } : Keys).anchor ≠ zeros 48 := by decide +kernel
/-- An attempt whose key is the anchor's, whatever the digest is (R567). -/
theorem witness_OwnerAnchor : let k : Keys := { anchor := Config.sha384 [4] }
    ∃ t : OwnTry, t.op = 1 ∧ Config.sha384 t.point = k.anchor := ⟨⟨1, [4], [], []⟩, rfl, rfl⟩
/-- A root; a statement being signed; tamper source 0 enabled, source 2 armed 1 ms ago and not; a latch with a session. -/
theorem witness_Attestation :
    (let b := { run0 with keys := { run0.keys with rootOk := true } }
     acc b .side 0x68 0x120 ∧ b.keys.rootOk = true ∧ b.keys.signing = []) ∧ run0.keys.rootOk = false ∧
    (let b := { run0 with keys := { run0.keys with rootOk := true, signing := [(false, [])] } }
     acc b .side 0x68 0x120 ∧ b.keys.signing = [(false, [])] ∧ b.up = true ∧ b.inReset 0x68 = false) ∧
    (let b := { run0 with keys := { run0.keys with armedFrom := some (run0.mono - gtMs 1) } }
     tampCounts b 2 = true ∧ b.dev.st ≠ .off) ∧
    tampCounts { run0 with keys := { run0.keys with armedFrom := some (run0.mono - gtMs 1 + 1) } } 2 = false ∧
    (let b := regs [(pg 0x7C 0x040, 0x01000001)] run0
     tampCounts b 0 = true ∧ b.t (pg 0x7C 0x040) 24 = true ∧ b.keys.class2 = false) ∧
    (let b := { run0 with keys := { run0.keys with session := some 0, latched := true, erasePend := true } }
     acc b .host 0x7C 0x064 ∧ b.keys.session.isSome = true ∧ b.keys.latched = true ∧ b.keys.erasePend = true) ∧ run0.keys.session = none ∧
    ({ clearing := some 1 } : Keys).helper.any id = true ∧ ({ clearing := some 1 } : Keys).latched = false ∧
    (∃ r ∈ [PufRead.mk true 0], r.ok = true) := by decide +kernel

/-- Phases of the update, with the shadow run on a spare. -/
def updAt (u : UpdSt) : Block := { run0 with upd := u }
theorem witness_UpdateStaging :
    acc run0 .host 0x6C 0x05C ∧ acc run0 .side 0x6C 0x05C ∧ run0.upd.phase = 0 ∧ run0.f (pg 0x6C 0x058) 29 0 ≤ 0x20000000 ∧
    (0x55500000 : Word).toNat / 65536 = 0x5550 ∧ (0x55510000 : Word).toNat / 65536 ≠ 0x5550 ∧
    (updAt { phase := 1 }).inReset 0x6C = false ∧ 0 ≤ (updAt { phase := 1 }).f (pg 0x6C 0x058) 29 0 ∧
    acc run0 .side 0x6C 0x088 ∧ (0x44410004 : Word).toNat / 65536 = 0x4441 ∧ 4 ≤ (0x44410004 : Word).toNat % 4096 ∧
    (0x44410800 : Word).toNat % 4096 ≤ 2048 ∧ run0.side.updOfs + 2048 ≤ 0x20000000 ∧
    leAt (readBytes run0.ddr 0x3C0000000 64) 0 4 ≠ 0x53455031 ∧
    (let b := updAt { phase := 3 }
     b.upd.phase = 3 ∧ b.upd.phase ≠ 1 ∧ ¬(b.upd.phase = 0 ∨ b.upd.phase = 4) ∧ b.supply.brace = false ∧ b.up = true ∧ b.inReset 0x6C = false ∧ (buildParts [] none b.upd.pkg b).1.2 = 0) := by
  decide +kernel
/-- A build to come whose parts are all left out: all copied, and a staged slot to fill behind a brace. -/
theorem witness_UpdateBuild : (let b := updAt { phase := 2 }
     b.upd.phase = 2 ∧ b.supply.brace = false ∧ b.up = true ∧ b.inReset 0x6C = false) ∧
    ({ run0 with supply := { run0.supply with brace := true } } : Block).supply.brace = true ∧
    acc (updAt { phase := 4 }) .side 0x6C 0x05C ∧ (updAt { phase := 4 }).upd.phase = 4 ∧
    (0x44410003 : Word).toNat % 4096 < 4 ∧ ({ run0.side with updOfs := 0x20000000 } : AgentSt).updOfs + 4 > 0x20000000 := by decide +kernel
/-- A staged slot whose activation nothing refuses; shadow with its spare; T_h reached; probation over and failed. -/
theorem witness_UpdateActivation : updPins 3 (updAt { phase := 4 }) = updAt { phase := 4 } ∧ updPins 3 run0 = run0 ∧
    (let b := updAt { phase := 4 }
     acc b .host 0x6C 0x05C ∧ activateCheck b true = 0 ∧ b.member = false) ∧ run0.upd.phase ≠ 4 ∧
    (let b := regs [(pg 0x00 0x050, 1)] { updAt { phase := 4 } with pair := { run0.pair with linkUp := true } }
     acc b .host 0x6C 0x05C ∧ activateCheck b true = 0 ∧ b.member = true) ∧
    (let b := { updAt { phase := 4 } with balls := { run0.balls with backupN := false } }
     activateCheck b true = 0x2B ∧ activateCheck b false = 0x2B) ∧
    (∀ n ∈ [5, 6, 7], acc (updAt { phase := n }) .host 0x6C 0x05C ∧ (updAt { phase := n }).inReset 0x6C = false) ∧
    (let b := updAt { phase := 6, spare := some 24, slots := #v[{ st := 4 }, { st := 2, parts := [(8, {})] }] }
     b.upd.phase = 6 ∧ b.upd.th = none ∧ b.upd.shadowLeft = 0 ∧ b.upd.spare.isSome = true ∧
       b.settings.slots[b.settings.active].schema = (b.upd.slots[1 - b.upd.running]).version 8 ∧ activateCheck b false = 0 ∧
       b.upd.shadowAt + b.f (pg 0x6C 0x044) 7 0 * gtSec ≤ b.mono) ∧
    (let b := updAt { phase := 6, th := some run0.now }
     run0.now ≤ b.now ∧ b.inReset 0x6C = false) ∧
    (let b := regs [(pg 0x6C 0x040, 5)] (updAt { phase := 7, th := some (5 * gtSec) })
     5 * gtSec + b.f (pg 0x6C 0x040) 11 0 * gtSec ≤ b.now ∧ b.upd.failAt = none) ∧
    (let b := updAt { phase := 7, failAt := some (gtSec, 5) }
     leadAfter b (gtSec + gtMs 10) ≤ b.now) ∧
    (let b := updAt { phase := 7, failAt := some (10 * gtSec, 5) }
     b.now < leadAfter b (10 * gtSec + gtMs 10)) ∧
    run0.now < 11 * gtSec ∧
    (let b := updAt { phase := 6, slots := #v[{ st := 4 }, { st := 2, parts := [(8, { version := 1 })] }] }
     b.settings.slots[b.settings.active].schema ≠ (b.upd.slots[1 - b.upd.running]).version 8) := by
  decide +kernel

/-! Grid time. -/

/-- Source 0 with its state changed. -/
def src0 (f : Src → Src) (t : TimeSt → TimeSt) : Block :=
  { run0 with time := t { run0.time with srcs := run0.time.srcs.set 0 (f run0.time.srcs[0]) } }
/-- A reading of a source that has none, one that qualifies (before QUAL_S and behind it), one that is qualified and selected, steady with
a small and a large offset, and one 1 µs off; a slew that runs; no slave port. -/
def slave (b : Block) : Block := { b with time := { b.time with ptp := b.time.ptp.set 0 { b.time.ptp[0] with st := .slave } } }
theorem witness_TimeSources :
    run0.timeRuns = true ∧ srcUsable run0 0 = false ∧ srcUsable run0 1 = true ∧ srcUsable (slave run0) 0 = true ∧
    (run0.time.srcs[0]).st = .absent ∧ (run0.time.srcs[0]).last = none ∧
    (let b := slave (src0 (fun v => { v with st := .qualifying, last := some 0 }) id)
     b.time.slewEnd = none ∧ ((999 * 65536 : Int) - 0).natAbs < 1000 * 65536 ∧ 0 + b.f (pg 0x02 0x040) 15 8 * gtSec ≤ b.mono ∧
       b.f (pg 0x02 0x044) 3 0 = 1 ∧ srcIsUtc b 0 = false ∧ b.time.selected = 0) ∧
    (src0 id id).mono < run0.mono + run0.f (pg 0x02 0x040) 15 8 * gtSec ∧
    (let b := src0 (fun v => { v with st := .qualified, last := some 0 }) (fun t => { t with selected := 1, valid := true })
     bestSrc b = 1 ∧ 1000 * 65536 ≤ ((1000 * 65536 : Int) - 0).natAbs ∧ (b.time.srcs[0]).fresh = false ∧
       ((5 : Int)).natAbs ≤ (b.r (pg 0x02 0x04C)).toNat * 65536 ∧ (meanI [5]).natAbs ≤ 100 * 65536 ∧
       ((900 * 65536 : Int)).natAbs ≤ (b.r (pg 0x02 0x04C)).toNat * 65536 ∧ 100 * 65536 < (meanI [900 * 65536]).natAbs ∧
       -45035996273 ≤ b.time.heldAdj ∧ b.time.heldAdj ≤ 45035996273 ∧
       (b.time.srcs[0]).inputAt + 2 * gtSec ≤ b.mono ∧ (b.time.srcs[1]).st ≠ .qualified ∧ (b.time.srcs[2]).st ≠ .qualified) ∧
    (let b := src0 (fun v => { v with st := .qualified, last := some 0 }) (fun t => { t with selected := 1, slewEnd := some run0.mono })
     b.time.slewEnd.isSome = true ∧ bestSrc b = 1) ∧
    (let b := src0 (fun v => { v with above := some 0 }) (fun t => { t with selected := 1, valid := true })
     0 + 10 * gtSec ≤ b.mono ∧ b.t (pg 0x02 0x040) 3 = false ∧ (regs [(pg 0x02 0x040, 8)] b).t (pg 0x02 0x040) 3 = true ∧
       b.time.selected.val = 1 ∧ b.mono < b.mono + 10 * gtSec) := by decide +kernel
/-- The best Announce of a port is 3 s old, and qualified PTP with it; no Announce. -/
theorem witness_Announces : run0.aon = true ∧
    (let b := src0 (fun v => { v with st := .qualified }) (fun t => { t with ptp := t.ptp.set 0 { t.ptp[0] with best := some (ptpAnnounceOf ⟨0xB, 0, false, 0, 0, [], 0, []⟩) } })
     (b.time.ptp[0]).best.isSome = true ∧ (b.time.ptp[0]).heardAt + 3 * gtSec ≤ b.mono ∧ (b.time.ptp[1]).best = none ∧
       (b.time.srcs[0]).st = .qualified) ∧ (run0.time.ptp[0]).best = none := by decide +kernel
theorem witness_TimeSteps :
    ({ run0.time with stepWait := some 5 } : TimeSt).stepWait = some 5 ∧ run0.time.stepWait = none ∧
    (let b := { run0 with time := { run0.time with selected := 1 } }
     b.aon = true ∧ b.time.xo = true ∧ b.time.valid = false ∧ b.time.selected ≠ 0) ∧ acc run0 .host 0x02 0x084 ∧ run0.time.valid = false ∧
    run0.reach .side 0x02 = true ∧ run0.inReset 0x02 = false ∧ run0.time.xo = true ∧
    ({ run0.time with valid := true } : TimeSt).valid = true ∧ ({ run0.time with xo := false } : TimeSt).xo = false ∧
    (let b := { run0 with time := { run0.time with slewEnd := some run0.mono } }
     run0.mono ≤ b.mono ∧ b.mono < run0.mono + 1) ∧
    (let b := src0 (fun v => { v with lastAt := run0.mono - 2 * gtSec }) (fun t => { t with selected := 1, locked := true })
     b.time.selected.val = (0 : Fin 3).val + 1 ∧ b.time.locked = true ∧ (b.time.srcs[0]).lastAt + 2 * gtSec ≤ b.mono) := by decide +kernel

/-- A PTP frame of a type, with its FCS: one step, domain 0 (R130). -/
def ptpBytes (typ : Nat) : List Byte :=
  [0x01, 0x1B, 0x19, 0, 0, 0, 2, 0, 0, 0, 0, 1, 0x88, 0xF7, BitVec.ofNat 8 typ, 2] ++ beBytes 2 54 ++ zeros 54
def ptpWaits (l : List Byte) : Block :=
  { run0 with time := { run0.time with ptpIn := [(0, 0, l)], ptp := run0.time.ptp.set 0 { run0.time.ptp[0] with st := .slave } } }
/-- Frames of a port's link, on which a frame is being sent. -/
def frame0 : TxFrame := { kind := .sv, bytes := [1] }
def linkPort (p : Nat) (f : PortSt → PortSt) (b : Block) : Block := modPort p (fun t => f { t with link := true, sending := some frame0 }) b
/-- A Sync, a Delay_Req, a Pdelay_Req, and what is no message. -/
theorem witness_PtpMessages :
    (let b := ptpWaits (ptpBytes 0)
     ((ptpParse (outerTpid b 0) (ptpBytes 0)).any fun m => m.typ == 0 && !m.twoStep && m.domain == b.f (pg 0x02 0x090) 31 24) = true ∧
       ptpAt b 0 = some 0 ∧ b.t (pg 0x02 0x090) 3 = false ∧ (b.time.ptp[0]).st = .slave ∧ b.time.ptpActive = 0) ∧
    ((ptpParse (outerTpid run0 0) (ptpBytes 1)).any fun m => m.typ == 1 && m.domain == run0.f (pg 0x02 0x090) 31 24) = true ∧
    ptpParse (outerTpid run0 0) [] = none ∧
    (let b := linkPort 2 id { run0 with time := { run0.time with tcIn := [(2, 7, ptpBytes 2)] } }
     ((ptpParse (outerTpid b 2) (ptpBytes 2)).any fun m => m.typ == 2) = true ∧ (b.port 2).link = true ∧
       (b.port 2).sending.isSome = true ∧ queued (b.port 2).q0 ≤ 16000) ∧
    run0.running = true ∧ run0.inReset 0x02 = false ∧ ptpHas run0 0 = true ∧
    (regs [(pg 0x02 0x090, 0x80)] run0).f (pg 0x02 0x090) 7 6 = 2 ∧ passOn (regs [(pg 0x08 0x040, 2)] run0) = true ∧ run0.timeRuns = true ∧
    (run0.time.ptp[0]).best = none ∧
    ((ptpParse (outerTpid run0 0) (ptpBytes 0xB)).any fun m => m.typ == 0xB && (ptpAuth m run0).1 && m.domain == run0.f (pg 0x02 0x090) 31 24) = true ∧
    (let b := regs [(pg 0x02 0x090, 8)] run0
     ((ptpParse (outerTpid b 0) (ptpBytes 0xB)).any fun m => !(ptpAuth m b).1) = true) := by decide +kernel
/-- An edge 500 ms old; a leap at 23:59:58 of its UTC day, one a second early; a pulse that ends. -/
def edged (e : Gt) : Block := { run0 with time := { run0.time with ppsEdge := some e } }
def leaps (sec : Nat) : Block :=
  regs [(pg 0x02 0x088, 0x80020000)] { run0 with time := { run0.time with ctr := sec * gtSec * 2 ^ 32, valid := true } }
theorem witness_TimeInputs :
    run0.timeRuns = true ∧ State.reset.blk.timeRuns = false ∧ run0.time.xo = true ∧ run0.time.ppsEdge = none ∧ run0.delta = none ∧
    (let b := edged (run0.now - gtMs 500)
     b.now ≤ (run0.now - gtMs 500) + gtMs 500 ∧ b.t (pg 0x02 0x0DC) 8 = false ∧ (run0.now - gtMs 500) + gtMs 500 ≤ b.now) ∧
    (crc16 [] : Nat) ≠ 0 ∧
    (let b := regs [(pg 0x02 0x088, 0x80000025)] run0
     b.delta = some 37 ∧ b.t (pg 0x02 0x0E0) 31 = false) ∧
    (let b := regs [(pg 0x02 0x044, 0x10000)] run0
     b.t (pg 0x02 0x044) 16 = true ∧ b.time.holdover = false) ∧ run0.t (pg 0x02 0x044) 16 = false ∧ run0.aon = true ∧ run0.time.valid = false ∧
    ({ run0.time with holdover := true } : TimeSt).holdover = true ∧ (regs [(pg 0x02 0x0DC, 0x100)] run0).t (pg 0x02 0x0DC) 8 = true ∧
    zdaUtc [] = none ∧ (edged (run0.now - gtMs 500 - 1)).now > (run0.now - gtMs 500 - 1) + gtMs 500 ∧
    ({ run0.time with valid := true } : TimeSt).valid = true ∧
    ({ run0.time with ppsEnd := some run0.now } : TimeSt).ppsEnd = some run0.now ∧
    (leaps 86399).delta = some 0 ∧ leapPending (leaps 86399) = some true ∧ ((secOf (leaps 86399).now : Int) - 0) % 86400 = 86399 ∧
    leapPending (leaps 86398) = some true ∧ ((secOf (leaps 86398).now : Int) - 0) % 86400 ≠ 86399 ∧
    ({ run0.time with spgPend := some (run0.now, false, Vector.replicate 4 0) } : TimeSt).spgPend.isSome = true := by decide +kernel

/-! Acquisition, the Winnow chain, the estimator. -/

def sampling (src : Bool) : Block := { run0 with time := { run0.time with spgRun := true, spgSrc := src } }
theorem witness_Conversions :
    (let b := sampling false
     b.up = true ∧ b.time.spgRun = true ∧ b.time.spgSrc = false ∧ b.chain.conv = none ∧ b.inReset 0x20 = false ∧ b.inReset 0x22 = false ∧
       (b.chan 0).pend = []) ∧
    (sampling true).spgOn = true ∧ run0.spgOn = false ∧ codeOf (run0.chan 0).gain 0 = 0 ∧
    (let b : Block := { sampling false with chain := { run0.chain with chans := run0.chain.chans.set 0 { ctl := 0x80000000 } } }
     (b.chan 0).pend = [] ∧ (b.chan 0).ctl.getLsbD 31 = true) ∧
    (let b : Block := { sampling false with chain := { run0.chain with chans := run0.chain.chans.set 0 { pend := [(0, 0x80000000)], opened := true } } }
     (b.chan 0).pend = [(0, 0x80000000)] ∧ 0 + 65536000 ≤ (b.now * 2048000 / gtSec) * 32000000 ∧ (b.chan 0).opened = true) ∧
    (let b := { sampling false with dev := { run0.dev with blocks := [0x20, 0x22] } }
     b.inReset 0x20 = true ∧ b.inReset 0x22 = true) ∧
    ((sampling true).time.spgSrc = true ∧ (sampling true).time.spgRun = true ∧ nearEnough (sampling true).now = true) ∧
    nearEnough (10 * gtSec + gtNs 100) = false ∧
    accL run0 .host 0x20 0x100 ∧ fld ((0x300 : Word) &&& 0x80000337) 9 8 = 3 ∧
    (let v : Word := 0x80000010 &&& 0x80000337
     ¬ (fld v 9 8 = 3 ∨ fld v 5 4 = 3 ∨ fld v 1 0 = 3) ∧ fld v 5 4 ≠ 0 ∧ run0.f (pg 0x20 0x044) 27 16 * 2 ^ fld v 9 8 < 4096 ∧
       4096 ≤ (regs [(pg 0x20 0x044, 0x08000000)] run0).f (pg 0x20 0x044) 27 16 * 2 ^ fld (0x110 : Word) 9 8) := by decide +kernel
/-- A scan that is due with small sums, one that is not; Keep that cooled 10 s ago. -/
theorem witness_Housekeeping : hkDue run0 = true ∧ run0.inReset 0x21 = false ∧ run0.dev.st ≠ .keep ∧ 2 ^ min 8 (run0.f (pg 0x21 0x140) 3 0) ≠ 0 ∧
    hkDue { run0 with hk := { run0.hk with at_ := some 1000000 } } = false ∧ hkAlways ≠ 0 ∧
    (let b := { inState .keep with hk := { run0.hk with forced := true, coolFrom := some 990000 } }
     b.dev.st = .keep ∧ b.dev.warm = false ∧ 990000 + 10000 ≤ b.mono / gtMs 1 ∧ b.dev.keepFrom ≠ .keep ∧ b.mono / gtMs 1 < 990001 + 10000) ∧
    (let sums := Vector.replicate 24 (0xBD0#20)
     3024 ≤ min (sums.toList.getD 16 0).toNat 4095) ∧ run0.hk.hot = false ∧ (inState .starting).dev.st = .starting ∧ hkDue (inState .starting) = true := by
  decide +kernel
/-- Bank 1 of set 0 with one tap in each stage, and the instant of a swap. -/
def banked (sec m : Word) : Block :=
  { run0 with regs := [(pg 0x22 0x040, sec), (pg 0x22 0x048, m), (0x301000, 0x400000), (0x301400, 0x400000), (0x301800, 0x400000),
    (0x301C00, 1), (0x301C04, 1), (0x301C08, 1)] }
/-- 2,048,000 as a sample; 10 ms ahead and one sample less; a swap that is due. -/
theorem witness_Swaps :
    acc run0 .host 0x22 0x04C ∧ acc run0 .host 0x23 0x04C ∧ swapRefusal (banked 20 0) 0 = none ∧
    swapRefusal (banked 20 2048000) 0 = some 0x23 ∧ swapRefusal (banked 10 20479) 0 = some 0x24 ∧ swapRefusal (banked 10 20480) 0 = none ∧
    (run0.r (pg 0x23 0x048)).toNat < 12800 ∧ 12800 ≤ (regs [(pg 0x23 0x048, 12800)] run0 |>.r (pg 0x23 0x048)).toNat ∧
    run0.n64 (pg 0x23 0x040) * gtSec < run0.now + gtMs 10 ∧
    (let w : Swap := ⟨3, 9, 0, false⟩
     let b := { run0 with chain := { run0.chain with swaps := [w] } }
     b.up = true ∧ b.chain.rsSwaps = [] ∧ swapTime w ≤ b.now ∧ b.now < swapTime ⟨3, 11, 0, true⟩) ∧
    swapRefusal (banked 20 0) 0x100 ≠ none ∧ rsSwapTime ⟨1, 9, 0, false⟩ ≤ run0.now ∧
    (let b := { banked 20 0 with chain := { run0.chain with swaps := [⟨0, 20, 0, false⟩] } }
     swapRefusal b 0 = some 0x25) := by decide +kernel
theorem witness_Estimation :
    ({ run0.chain with rsAt := some 7 } : ChainSt).rsAt = some 7 ∧ run0.up = true ∧ run0.inReset 0x23 = false ∧ run0.chain.rsAt = none ∧ run0.inReset 0x24 = false ∧
    (regs [(pg 0x18 0x400, 0x80000000)] run0).t (pg 0x18 0x400) 31 = true ∧ (sliceDue run0).isSome = true ∧
    sliceDue { run0 with chain := { run0.chain with slice := some 200000 } } = none ∧ accL run0 .host 0x24 0x048 ∧
    (let b := regs [(pg 0x24 0x040, 16), (0x3000000 + 256, 0x3F800000)] run0
     b.f (pg 0x24 0x040) 9 0 = 16 ∧ (mget (b.r 0x3000100) b.staged 0x3000100).getLsbD 31 = false ∧
       fld (mget (b.r 0x3000100) b.staged 0x3000100) 30 23 = 127) ∧
    (regs [(pg 0x24 0x040, 15)] run0).f (pg 0x24 0x040) 9 0 < 16 ∧ fld (0x010000 : Word) 23 16 ≠ 0 ∧
    fld (mget (run0.r 0x3000000) run0.staged 0x3000000) 30 23 ≤ 254 := by decide +kernel

/-! Ports and silos. -/

/-- 64 bytes to the PAUSE address: MAC control, opcode 1, one quantum, and their FCS. -/
def pauseBytes : List Byte :=
  let l := beBytes 6 0x0180C2000001 ++ zeros 6 ++ [0x88, 0x08, 0, 1, 0, 1] ++ zeros 42
  l ++ leBytes 4 (crc32 l)
/-- A good frame of 64 bytes. -/
def plainBytes : List Byte :=
  let l := zeros 12 ++ [0x08, 0x00] ++ zeros 46
  l ++ leBytes 4 (crc32 l)
def port0 (f : PortSt → PortSt) : Block := linkPort 0 f run0
set_option maxRecDepth 100000 in
theorem witness_Pause : run0.up = true ∧ ((port0 id).port 0).link = true ∧ (regs [(pg 0x04 0x040, 0)] run0).t (pg 0x04 0x040) 4 = false ∧
    (4 ≤ pauseBytes.length ∧ crc32 (pauseBytes.take (pauseBytes.length - 4)) = leAt pauseBytes (pauseBytes.length - 4) 4) ∧
    (64 ≤ pauseBytes.length ∧ pauseBytes.length ≤ maxLen run0 0 ∧ beAt pauseBytes 12 2 = 0x8808 ∧ beAt pauseBytes 14 2 = 1 ∧
      beAt pauseBytes 0 6 = 0x0180C2000001) ∧ beAt pauseBytes 16 2 ≠ 0 ∧ beAt (pauseBytes.set 17 0) 16 2 = 0 ∧
    beAt (pauseBytes.set 15 2) 14 2 ≠ 1 := by decide +kernel
set_option maxRecDepth 100000 in
/-- 63 bytes; MAX_LEN and one more; a good frame, room for it and none; PAUSED until now; a repeat that is due. -/
theorem witness_Reception : (zeros 63).length < 64 ∧ maxLen run0 0 < (zeros 1523).length ∧ (zeros 1522).length ≤ maxLen run0 0 ∧
    (plainBytes.length = 64 ∧ crc32 (plainBytes.take 60) = leAt plainBytes 60 4 ∧ beAt plainBytes 12 2 ≠ 0x8808) ∧
    ((port0 id).port 0).fill + 64 ≤ 262144 ∧ run0.t (pg 0x04 0x040) 4 = true ∧ ((port0 id).port 0).pausedFrom = none ∧
    (let b := port0 fun t => { t with pausedFrom := some (9 * gtSec), pauseEnd := run0.mono }
     (b.port 0).pauseEnd ≤ b.mono ∧ b.mono < (b.port 0).pauseEnd + 1) ∧
    ((port0 fun t => { t with rx := List.replicate 4096 ⟨plainBytes, 0⟩ }).port 0).fill = 262144 := by decide +kernel
theorem witness_PauseRepeat :
    let b := regs [(pg 0x04 0x040, 0x20), (pg 0x04 0x05C, 1)] (port0 fun t => { t with ownPause := some (9 * gtSec) })
    b.t (pg 0x04 0x040) 5 = true ∧ b.f (pg 0x04 0x05C) 23 16 * 1024 ≤ (b.port 0).fill ∧
      9 * gtSec + quantaTime b 0 (b.f (pg 0x04 0x05C) 15 0) / 2 ≤ b.mono ∧ (b.port 0).sending.isSome = true ∧ (run0.port 0).ownPause = none := by decide +kernel
theorem witness_PortLinks : run0.up = true ∧ run0.inReset 0x04 = false ∧ (regs [(pg 0x04 0x008, 1)] run0).enabled 0x04 = true ∧
    ((port0 id).port 0).link = true ∧ (run0.port 0).link = false ∧ run0.reach .host 0x04 = true ∧ run0.sharedHeld 0x04 0x008 = false ∧
    run0.linesOn = true ∧ run0.reach .side 0x04 = true ∧ sbwAllows 0x04 0x008 = false ∧ prpOn run0 = false ∧
    ({ run0 with pair := { run0.pair with role := .standby } } : Block).sharedHeld 0x04 0x008 = true ∧ run0.enabled 0x04 = false ∧
    ((port0 fun t => { t with hiBer := false }).port 0).hiBer = false := by
  decide +kernel
/-- A frame waits; the classifier sends it to the Gleaner, to a silo, to PTP; entries with a bad and a good target. -/
def waitsAt (act tgt : Nat) : Block :=
  regs [(clsAddr 0 0, 0x80000000), (clsAddr 0 0 + 20, w32 (act + 256 * tgt))]
    (port0 fun t => { t with rx := [⟨plainBytes, 0⟩] })
theorem witness_PortDelivers :
    (waitsAt 1 0).inReset 0x04 = false ∧ prpOn (waitsAt 1 0) = false ∧ passOn (waitsAt 1 0) = false ∧
    ((waitsAt 1 0).port 0).atGlean = none ∧ ((waitsAt 1 0).port 0).rx = [⟨plainBytes, 0⟩] ∧
    (waitsAt 1 0).leads = true ∧ (waitsAt 1 0).pair.takeAt = none ∧ accL run0 .host 0x04 0 ∧ clsBad 1 3 = true ∧ clsBad 1 2 = false ∧ clsBad 2 16 = true ∧ clsBad 2 15 = false := by
  decide +kernel
/-- The entry of the duplicate-discard table is forgotten after its time; a LAN silent long enough; supervision due; PRP_EN. -/
def prp1 (p : PrpSt) : Block := regs [(pg 0x08 0x040, 0x00010001), (pg 0x08 0x044, 0x80000001), (pg 0x08 0x048, 1)]
  (linkPort 1 id (linkPort 0 id { run0 with prp := p }))
/-- A frame with its trailer of LAN A, that of the supervision, a PTP event message and another one; the table of the discard. -/
def rctFrame : List Byte := withRct 0 0xA 7 (plainBytes.take 60) ++ zeros 4
def supWaits : List Byte := beBytes 6 0x01154E000100 ++ zeros 6 ++ [0x88, 0xFB] ++ zeros 50
def prpFrame (p : PrpSt) (l : List Byte) : Block :=
  regs [(pg 0x08 0x040, 0x00010001)] (linkPort 0 (fun t => { t with rx := [⟨l, 9 * gtSec⟩] }) { run0 with prp := p })
set_option maxRecDepth 100000 in
theorem witness_PrpDelivers :
    (let b := prpFrame { alive := Vector.replicate 2 true, table := [⟨0, 7, 9 * gtSec⟩] } rctFrame
     prpOn b = true ∧ (b.port 1).rx = [] ∧ rctOf (outerTpid b 0) rctFrame = some (7, 0xA) ∧ (rxEth b 0 rctFrame).1 = 0x0800 ∧
       b.prp.alive[(1 : Fin 2)] = true ∧ beAt rctFrame 6 6 = 0 ∧ b.prp.table.find? (fun e => e.src = 0 ∧ e.seq = 7) = some ⟨0, 7, 9 * gtSec⟩ ∧
       ∀ e ∈ b.prp.table, ¬(e.src = 1 ∧ e.seq = 7)) ∧
    (let b := prpFrame { table := [⟨0, 7, 0⟩] } rctFrame
     b.prp.alive[(1 : Fin 2)] = false ∧ 0 + gtMs (b.f (pg 0x08 0x040) 25 16) < 9 * gtSec) ∧
    (rxEth run0 0 supWaits).1 = 0x88FB ∧ beAt supWaits 0 5 = 0x01154E0001 ∧ rctOf (outerTpid run0 0) plainBytes = none ∧
    (rxEth run0 0 (ptpBytes 2)).1 = 0x88F7 ∧ beAt (ptpBytes 2) (rxEth run0 0 (ptpBytes 2)).2 1 % 16 = 2 ∧
    beAt (ptpBytes 0xB) (rxEth run0 0 (ptpBytes 0xB)).2 1 % 16 = 0xB := by decide +kernel
theorem witness_PrpPair :
    (let b := prp1 { table := [⟨1, 2, 8 * gtSec⟩] }
     b.up = true ∧ prpOn b = true ∧ b.prp.table = [⟨1, 2, 8 * gtSec⟩] ∧ 8 * gtSec + gtMs (b.f (pg 0x08 0x040) 25 16) < b.now ∧
       b.now ≤ b.now + gtMs (b.f (pg 0x08 0x040) 25 16)) ∧
    (let b := prp1 { alive := Vector.replicate 2 true }
     b.prp.alive[0] = true ∧ b.prp.seen[0] + gtMs (b.f (pg 0x08 0x048) 15 0) ≤ b.mono ∧ b.t (pg 0x08 0x044) 31 = true ∧
       b.prp.supAt + gtMs (b.f (pg 0x08 0x044) 15 0) ≤ b.mono ∧
       ∀ p : Fin 2, (b.port p.val).link = true ∧ (b.port p.val).sending.isSome = true ∧ queued (b.port p.val).q2 + 60 ≤ 65536) ∧
    (run0.port 0).link = false ∧ State.reset.blk.up = false ∧
    accL run0 .host 0x08 0x040 ∧ prpOn run0 = false ∧
    (regs [(pg 0x04 0x040, 1), (pg 0x05 0x040, 0)] run0).t (pg 0x04 0x040) 0 = true ∧ run0.t (pg 0x04 0x040) 0 = run0.t (pg 0x05 0x040) 0 := by
  decide +kernel
/-- A ring with one descriptor to take and no space code; a checked one and one that is not; a finished one. -/
def ringed : Block := regs [(pg 0x04 0x06C, 1), (pg 0x04 0x068, 8)] (port0 id)
theorem witness_PortSends : (ringed.port 0).sending = some frame0 ∧ (run0.port 0).sending = none ∧ acc run0 .host 0x04 0x06C ∧
    ringed.hostUp = true ∧ ringed.inReset 0x04 = false ∧ ringed.r (pg 0x04 0x06C) ≠ ringed.r (pg 0x04 0x070) ∧ (ringed.port 0).d3 = [] ∧
    prpPeer ringed 0 = none ∧ (descOf (.host 0) (zeros 64)).space = 0 ∧ (descOf (.host 0) (zeros 64)).len = 0 ∧
    (let d := descOf (.host 0) (zeros 64)
     let b := port0 fun t => { t with d3 := [{ d with status := some 1 }], d4 := [d] }
     (b.port 0).d4 = [d] ∧ d.checked = false ∧ d.status = none ∧ ((b.port 0).d3.all fun e => e.status == some 1) = true) := by decide +kernel
/-- A silo at depth 16: with an item, full but the last entry, with a marker. -/
def siloAt (q : Nat) (l : List (Bool × List Byte)) : Block :=
  modSilo q (fun x => { x with q := l }) (regs [(sqCtl q, 0x80000004)] run0)
theorem witness_SiloPush : (siloAt 5 []).siloOn 5 = true ∧ (siloAt 5 []).up = true ∧ (siloAt 5 []).inReset (siloPage 5) = false ∧
    (let b := siloAt 5 (List.replicate 14 (false, zeros 64))
     ((b.silo 5).q.filter fun e => !e.1).length + ceilDiv 64 64 = 2 ^ b.f (sqCtl 5) 3 0 - 1 ∧ b.siloFits 5 1 = true ∧ b.siloFits 5 2 = false) := by
  decide +kernel
/-- An item in silo 5 fills it up to the last entry and no further. -/
theorem test_silo_full : ((siloPut 5 (zeros 64) (siloAt 5 (List.replicate 14 (false, zeros 64)))).silo 5).items = 15 ∧
    ((siloPut 5 (zeros 128) (siloAt 5 (List.replicate 14 (false, zeros 64)))).silo 5).items = 14 := by decide +kernel
theorem witness_Silos :
    (let b := siloAt 5 (List.replicate 15 (false, zeros 64))
     b.siloFits 5 (ceilDiv 64 64) = false ∧ b.siloOn 5 = true ∧ (b.silo 5).marker = false) ∧
    (let b := siloAt 5 ((true, zeros 64) :: List.replicate 15 (false, zeros 64))
     b.siloFits 5 1 = false ∧ (b.silo 5).marker = true ∧ (b.silo 5).newestMarker = false) ∧
    (let b := siloAt 5 (List.replicate 15 (false, zeros 64) ++ [(true, zeros 64)])
     b.siloFits 5 1 = false ∧ (b.silo 5).newestMarker = true) ∧ ((siloAt 63 []).silo 63).q = [] ∧ (siloAt 63 []).siloOn 63 = true ∧
    (siloAt 63 []).siloFits 63 1 = true ∧ (siloAt 48 []).siloFits 48 1 = true ∧
    (let b := regs [(sqCtl 5, 4)] run0
     b.siloOn 5 = false ∧ b.siloFits 5 1 = false ∧ poolUsed b + 2 ^ 4 ≤ 65536 ∧ 65536 < poolUsed b + 2 ^ 14) ∧ run0.hostUp = true ∧ (∃ q, q < 64 ∧ hostPops q = false) ∧ (∃ q, q < 64 ∧ hostPops q = true) ∧
    (∃ q, q < 64 ∧ hostPushes q = true ∧ (siloAt q []).siloFits q 1 = true) ∧ acc run0 .host (siloPage 5) 0x800 ∧
    hostPushes 5 = false ∧ accL run0 .host (siloPage 5) (0x100 + 0x20 * 5) ∧
    (siloAt 5 []).f (sqCtl 5) 3 0 = 4 := by decide +kernel

/-! The Gleaner and the Granary. -/

/-- A C37.118 data frame of ID 7 at grid second 9, with its IPv4 and UDP headers (R206). -/
def c37 : List Byte :=
  let m := [0xAA, 0x01] ++ beBytes 2 22 ++ beBytes 2 7 ++ beBytes 4 9 ++ zeros 4 ++ zeros 6
  let ip := [0x45, 0] ++ beBytes 2 50 ++ zeros 4 ++ [64, 17]
  let sum := 0xFFFF - (sum16 (ip ++ zeros 10)) % 65535
  zeros 12 ++ [0x08, 0x00] ++ ip ++ beBytes 2 sum ++ zeros 8 ++ zeros 4 ++ beBytes 2 30 ++ zeros 2 ++ m ++ beBytes 2 (crc16 m) ++ zeros 4
/-- A bale of one member, slot 3, at second 9. -/
def sec3 : Section := ⟨3, 64, 0, 0, 0, true⟩
def bale9 : Bale := { idx := 450, time := 9 * gtSec, pos := 0, size := 96, gen := 0, secs := [sec3], deadline := 10 * gtSec }
/-- Slot 3 enrolled for ID 7 at 50 a second, rate 0 at 50 with slot 3 in its range, an offset of 0 s. -/
def granary (bales : List Bale) (b : Block) : Block :=
  regs [(strAddr 3, 0x00328000), (strAddr 3 + 4, 7), (strAddr 3 + 12, 0x000E0000), (strAddr 3 + 16, 0xF4240), (strAddr 3 + 20, 22),
    (pg 0x02 0x088, 0x80000000), (brReg 0 0x080, 0x80000032), (brReg 0 0x08C, 0x400), (brReg 0 0x200, 0x00010003)]
   { b with gran := { b.gran with rates := b.gran.rates.set 0 { on := true, n := 4, bales := bales } } }
def gleans (l : List Byte) : Block :=
  granary [bale9] (port0 fun t => { t with atGlean := some ⟨0, 0, false, 0, l, 9 * gtSec + gtMs 10⟩ })
/-- What the Gleaner makes of the frame at port A. -/
def parsed (l : List Byte) : GlRes × Block :=
  gleanParse (modPort 0 (fun t => { t with atGlean := none }) (notePeak (gleans l))) 0 0 l (shortGrain (9 * gtSec + gtMs 10)) true
set_option maxRecDepth 100000 in
/-- The frame is accepted, its value's bale is open; one that is cut is rejected, one of a configuration forwarded. -/
theorem witness_GleanFrame : glRuns (gleans c37) = true ∧ (gleans c37).follows = false ∧
    nextFrame (gleans c37) = some (0, ⟨0, 0, false, 0, c37, 9 * gtSec + gtMs 10⟩) ∧
    (match (parsed c37).1 with | .ok [(slot, T, _)] [] => slot == 3 && T == 9 * gtSec | _ => false) = true ∧
    ratesOf (parsed c37).2 3 (9 * gtSec) = [0] ∧ baleAt (parsed c37).2 0 (9 * gtSec) = some bale9 ∧ bale9.closed = false ∧
    3 ∉ bale9.arrived ∧ 3 ∉ bale9.late ∧ secOfSlot bale9.secs 3 = some sec3 ∧ shortGrain (9 * gtSec + gtMs 10) < bale9.deadline ∧
    (match (parsed (c37.take 50)).1 with | .rej r => decide (r ≤ 13) | _ => false) = true ∧ nextFrame run0 = none := by decide +kernel
/-- A local entry waits; a mirrored record of a Gleaner's frame and one of a local entry. -/
def entry3 : LocalEntry := ⟨3, 9 * gtSec, 9 * gtSec + gtMs 10, 0, 0, 0, [], []⟩
def locals : Block := { run0 with glean := { run0.glean with locq := [entry3] } }
def follower (l : List Byte) : Block :=
  { run0 with pair := { run0.pair with role := .standby, inq := [(5, .mirror l)] } }
theorem witness_GleanLocal : glRuns locals = true ∧ locals.follows = false ∧ nextLocal locals = some entry3 ∧ entry3.ph.length ≤ 32 ∧
    entry3.dig.length ≤ 1 ∧ (streamAt locals entry3.inst entry3.slot).enrolled = false ∧ nextLocal run0 = none ∧
    (let b := { run0 with pair := { run0.pair with role := .standby } }
     b.follows = true ∧ nextMirror b = none) ∧ glRuns State.reset.blk = false ∧
    (let b := follower (shortForm (9 * gtSec) ++ zeros 54)
     b.pair.inq = [(5, .mirror (shortForm (9 * gtSec) ++ zeros 54))]) ∧
    (let b := follower (shortForm (9 * gtSec) ++ zeros 54)
     glRuns b = true ∧ b.leads = false ∧ ledgerFirst b (widen b.now (leAt (shortForm (9 * gtSec) ++ zeros 54) 0 10)) = false ∧
       (leAt (shortForm (9 * gtSec) ++ zeros 54) 10 1).testBit 3 = false ∧ (leAt (shortForm (9 * gtSec) ++ 8 :: zeros 53) 10 1).testBit 3 = true) := by
  decide +kernel
/-- An entry with a bad kind, one as it should be that fits and one whose bale grows beyond its slot; a source of 3 and a repeated one. -/
theorem witness_GleanTables : accL run0 .host 0x18 0 ∧ accL run0 .host 0x18 0x070 ∧ acc run0 .host 0x18 0x060 ∧ accL run0 .host 0x18 0x400 ∧
    streamCheck run0 5 (streamOf (0x00329000 :: List.replicate 31 0)) = 0 ∧ streamCheck run0 5 (streamOf ([0x00328000, 7, 0, 0x000E0000, 0xF4240, 22] ++ List.replicate 26 0)) = 0 ∧
    streamCheck run0 5 (streamOf (0x0033E000 :: List.replicate 31 0)) ≠ 0 ∧ (streamOf (0x00328000 :: List.replicate 31 0)).enrolled = true ∧
    (streamOf (List.replicate 32 0)).enrolled = false ∧
    (let b := regs [(brReg 0 0x08C, 64)] (granary [] run0)
     (b.rate 0).on = true ∧ b.n (brReg 0 0x08C) < baleSize (layoutNow b 0)) ∧ baleSize (layoutNow (granary [] run0) 0) = 96 ∧
    fld (0x30000000 : Word) 29 28 = 3 ∧ (regs [(pg 0x18 (0x400 + 16)  , 0x80000001)] run0).t (pg 0x18 (0x400 + 16)) 31 = true := by decide +kernel
/-- Rate 0 on since 9.98 s: its next instant is 10 s; a complete bale; one whose deadline the watermark has passed; none due. -/
def running1 (bales : List Bale) : Block :=
  let b := granary bales { run0 with time := { run0.time with valid := true } }
  modRate 0 (fun r => { r with from_ := run0.now - gtMs 20 }) b
theorem witness_BaleLife : earliest (openDue (running1 [])) = some (0, 10 * gtSec) ∧ openDue run0 = [] ∧ (running1 []).running = true ∧
    (running1 []).inReset 0x19 = false ∧
    (let x := { bale9 with arrived := [3] }
     pickBale (running1 [x]) (fun _ x => !x.closed && x.full) = some (0, x)) ∧ pickBale (running1 []) (fun _ x => !x.closed && x.full) = none ∧
    deadlineDue (running1 [bale9]) = some (0, bale9) ∧ deadlineDue (running1 [{ bale9 with deadline := 10 * gtSec + 1 }]) = none := by decide +kernel
/-- A closed bale for the export engine, a view of GBX form and one of C37.118; an amendment that is due, with a late value and without. -/
def ref9 : BaleRef := { rate := 0, idx := 450, time := 9 * gtSec, pos := 0, bytes := zeros 96 }
def views (w : Word) (b : Block) : Block := regs [(0x204000, w)] { b with gran := { b.gran with toExp := [ref9] } }
theorem witness_Exports : (views 0xC000 run0).up = true ∧ (views 0xC000 run0).inReset 0x19 = false ∧ run0.gran.toExp = [] ∧
    ({ views 0xC000 run0 with pair := { run0.pair with role := .standby } } : Block).leads = false ∧ (views 0xC000 run0).leads = true ∧ viewsOf (views 0 run0) 0 (fun _ => true) = [] ∧
    ((viewsOf (views 0xC000 run0) 0 fun _ => true).map fun e => (e.1, (leAt e.2 0 2).testBit 14)) = [(0, true)] ∧
    ((viewsOf (views 0x8000 run0) 0 fun _ => true).map fun e => (e.1, (leAt e.2 0 2).testBit 14)) = [(0, false)] ∧
    c37Frame run0 (zeros 256) ref9 [] = none ∧ run0.glean.utcSkipAt = none ∧
    ((c37Frame (granary [] run0) (zeros 256) ref9 []).any fun m => m.length == 16) = true ∧
    (let b := regs [(brReg 0 0x084, 0x00640064)] (running1 [{ bale9 with closed := true, late := [3], deadline := 9 * gtSec }])
     amendDue b = some (0, { bale9 with closed := true, late := [3], deadline := 9 * gtSec })) ∧
    (viewsOf (views 0xC800 run0) 0 fun c => c.testBit 14 && c.testBit 11) ≠ [] ∧ amendDue run0 = none := by decide +kernel
/-- A rate that may start, one that runs, an unknown one, a layout beyond the slot size; ranges that overlap and not. -/
theorem witness_Rates : accL run0 .host 0x19 0x080 ∧ accL run0 .host 0x19 0x200 ∧ run0.t (brReg 0 0x080) 31 = false ∧
    (rateList false).contains 50 = true ∧ (rateList false).contains 51 = false ∧ (granary [] run0).t (brReg 0 0x080) 31 = true ∧
    run0.f (brReg 0 0x084) 26 16 * 50 ≤ 1000 * run0.f (brReg 0 0x088) 15 0 ∧
    (let b := regs [(brReg 0 0x084, 0x07FF0000), (brReg 0 0x088, 1)] run0
     b.f (brReg 0 0x084) 26 16 ≠ 0 ∧ b.f (brReg 0 0x088) 15 0 ≤ ceilDiv (b.f (brReg 0 0x084) 26 16 * 50) 1000) ∧
    baleSize (layoutNow run0 0) ≤ 0x400 ∧ findFree run0 (4 * 0x400) = some 0 ∧ findFree run0 50331649 = none ∧
    rangesBad [(0, 2), (1, 1)] = true ∧ rangesBad [(0, 8192)] = false ∧ fld (0x80000032 : Word) 7 0 = 50 ∧
    fld (0x80000019 : Word) 7 0 ≠ (granary [] run0).f (brReg 0 0x080) 7 0 ∧ (rateList false).contains 25 = true ∧ acc run0 .host 0x19 0x060 ∧
    ({ run0 with pair := { run0.pair with role := .standby } } : Block).sharedHeld 0x19 0x200 = true := by decide +kernel
/-- A bale that no record reaches, one that is open, one that may be replayed; a replay with a record left and one at its end. -/
def rec9 : JrnRec := ⟨0, 64, 9 * gtSec, 0⟩
def replaying (p : Replay) (bales : List Bale) : Block :=
  let b := running1 bales
  { b with time := { b.time with valid := false }, gran := { b.gran with replay := some p } }
theorem witness_Replays : liveReady run0 = false ∧ acc run0 .host 0x19 0x070 ∧ (replaying ⟨0, bale9, 0, [], []⟩ []).gran.replay ≠ none ∧ run0.gran.replay = none ∧
    (run0.rate 0).bale 450 = none ∧ ((running1 [bale9]).rate 0).bale 450 = some bale9 ∧ bale9.closed = false ∧
    (let b := { running1 [{ bale9 with closed := true }] with glean := { run0.glean with recs := [rec9] } }
     b.glean.recs.head? = some rec9 ∧ rec9.stamp ≤ bale9.time ∧ b.glean.commitAt = none ∧
       (b.rate 0).bale 450 = some { bale9 with closed := true }) ∧
    ({ run0.glean with commitAt := some (9 * gtSec) } : GleanSt).commitAt = some bale9.time ∧
    (let b := replaying ⟨0, bale9, 0, [rec9], []⟩ [{ bale9 with closed := true }]
     glRuns b = true ∧ b.inReset 0x19 = false ∧ liveReady b = false ∧ bale9.full = false) ∧
    liveReady (gleans c37) = true ∧
    (let b := replaying ⟨0, bale9, 0, [], []⟩ [{ bale9 with closed := true }]
     (∃ y ∈ (b.rate 0).bales, y.idx = 450) ∧ b.pair.takeReplays = []) := by decide +kernel

/-! Oscillation watch, islanding, alarm composer, control outputs. -/

/-- A section of slot 3 with one phasor of 1 pu, at a frequency and a ROCOF. -/
def sect3 (freq : Nat) : List Byte :=
  leBytes 2 3 ++ leBytes 2 0x8000 ++ leBytes 4 freq ++ zeros 14 ++ [1, 0, 0] ++ zeros 7 ++ leBytes 4 (2 ^ 28) ++ leBytes 4 0
/-- A closed bale of rate 0 with that section. -/
def refOf (freq : Nat) : BaleRef := { ref9 with bytes := zeros 20 ++ leBytes 2 1 ++ zeros 42 ++ sect3 freq }
/-- Rate 0 holds the bale, whose reference stands at each reader. -/
def taken (freq : Nat) (b : Block) : Block :=
  let x := refOf freq
  let c := granary [{ bale9 with closed := true, size := 104 }] b
  { c with gran := { c.gran with toOsc := [x], toIsl := [x], toAlm := [x], toCo := [x] } }
/-- Signal 5: kind 2, slot 3, enabled. -/
def sig5 (b : Block) : Block := regs [(sigAddr 5, 0x0003A000), (sigAddr 5 + 8, 0x3F000000), (sigAddr 5 + 16, 0x00010000)] b
/-- A slice that is due with a bale and signal 5, one that is not. -/
theorem witness_OscSlices : State.reset.blk.running = false ∧ run0.running = true ∧ run0.inReset 0x28 = false ∧ oscDue run0 = some 127998 ∧
    oscDue { run0 with osc := { run0.osc with slice := some 128000 } } = none ∧
    (let b := sig5 (taken 60000000 run0)
     let c := sigCfg b 5
     oscDue b = some 127998 ∧ b.svIn = [] ∧ b.later = [] ∧ b.osc.trks = [] ∧ sigsOn b = [5] ∧ c.en = true ∧ c.kind < 5 ∧
       (b.sig 5).mismatch = false ∧ (∀ i < 8, (trkCfg b (8 * 5 + i)).en = false) ∧ b.gran.toOsc = [refOf 60000000] ∧
       (refOf 60000000).rate = c.rate ∧ ((0, 450) : Nat × Nat) ∉ b.osc.taken ∧ ((b.rate 0).bale 450).isSome = true ∧
       sigValue c (viewBale (refOf 60000000).bytes) = some (fmul (fInt 60000000) (fQ 1 1000000))) := by decide +kernel
/-- A signal of kind 7, one that is enabled and fits, one with EN at 0; a tracker without a design, and one with EN at 0 in alarm. -/
theorem witness_OscCommits : accL run0 .host 0x28 0 ∧
    sigCheck run0 5 (sigOf (entryWords run0 (sigAddr 5) 5 sigMask 0xF000)) = 0x20 ∧
    (let b := sig5 (taken 60000000 run0)
     (sigOf (entryWords b (sigAddr 5) 5 sigMask 0x0003A000)).en = true ∧ sigCheck b 5 (sigOf (entryWords b (sigAddr 5) 5 sigMask 0x0003A000)) = 0) ∧
    sigCheck run0 5 (sigOf (entryWords run0 (sigAddr 5) 5 sigMask 0)) = 0 ∧
    trkCheck run0 40 (trkOf (entryWords run0 (trkAddr 40) 9 trkMask 0x8000)) = 0x23 ∧
    trkCheck run0 40 (trkOf (entryWords run0 (trkAddr 40) 9 trkMask 0)) = 0 ∧
    (modTrk 40 (fun t => { t with alarm := true }) run0 |>.trk 40).alarm = true := by decide +kernel
/-- Groups 0 and 1, each of slot 3, phasor 0, weight 1; group 1 by criterion F with a threshold and a count of 1. -/
def grps (b : Block) : Block :=
  regs [(grpAddr 0, 0x00008000), (grpAddr 0 + 64, 0x00180001), (grpAddr 1, 0x01019000), (grpAddr 1 + 4, 1000), (grpAddr 1 + 8, 1000),
    (grpAddr 1 + 12, 1000), (grpAddr 1 + 24, 1), (grpAddr 1 + 64, 0x00180001)] b
/-- A bale of RATE and one of another rate; the reference and a group valid; a group with no member; no bale. -/
theorem witness_IslSlices : run0.inReset 0x29 = false ∧ run0.later = [] ∧ run0.gran.toIsl = [] ∧
    (let b := grps (taken 60000000 run0)
     let secs := viewBale (refOf 60000000).bytes
     b.running = true ∧ b.inReset 0x29 = false ∧ b.later = [] ∧ b.gran.toIsl = [refOf 60000000] ∧ (refOf 60000000).rate = islRate b ∧
       ((0, 450) : Nat × Nat) ∉ b.isl.taken ∧ islRef b = 0 ∧ (grpCfg b 0).en = true ∧ (grpCfg b 1).en = true ∧ (grpCfg b 2).en = false ∧
       (grpEval (grpCfg b 0) secs).val.isSome = true ∧ (grpEval (grpCfg b 1) secs).val.isSome = true ∧ b.isl.late = false ∧
       (b.grp 1).declared = false) ∧
    ({ refOf 60000000 with rate := 1 } : BaleRef).rate ≠ islRate run0 ∧
    (grpEval (grpCfg (grps run0) 1) (viewBale (zeros 64))).val = none ∧
    (let b := { grps (taken 60000000 run0) with isl := { run0.isl with taken := [(0, 450)] } }
     b.gran.toIsl = [refOf 60000000] ∧ ((refOf 60000000).rate, (refOf 60000000).idx) ∈ b.isl.taken) ∧
    ({ run0.isl with late := true } : IslSt).late = true ∧
    critOn (grpCfg (grps run0) 1) { cntF := 1 } = 3 ∧ critOn (grpCfg (grps run0) 1) {} = 0 := by decide +kernel
theorem witness_IslCommits : accL run0 .host 0x29 0 ∧ accL run0 .host 0x29 0x040 ∧
    grpCheck run0 1 (grpOf (List.replicate 304 0)) = 0 ∧ grpCheck run0 1 (grpOf (0x8000 :: List.replicate 303 0)) = 0x20 ∧
    run0.later = [] ∧ (run0.rate 0).on = false ∧ ((taken 60000000 run0).rate (islRate (taken 60000000 run0))).on = true ∧
    (let old := run0.r islCtl
     let n := (0x100 : Word) &&& 0x33F0B
     fld n 13 8 ≠ fld old 13 8 ∧ (grpNow run0 (fld n 13 8)).en = false ∧ (grpNow (grps run0) (fld n 13 8)).en = true ∧ fld n 17 8 ≠ fld old 17 8 ∧
       fld (old ^^^ 1) 17 8 = fld old 17 8) := by decide +kernel
/-- Source 9: a frequency above 59 Hz on rate 0, asserted after n reports. -/
def src9 (n : Nat) (b : Block) : Block :=
  regs [(srcAddr 9, 0x0003B100), (srcAddr 9 + 4, 0x01000020 + w32 (n * 65536)), (srcAddr 9 + 8, 0x426C0000)] b
theorem witness_Thresholds : almRuns run0 = true ∧ run0.gran.toAlm = [] ∧
    (∀ n ∈ [1, 2], let b := src9 n (taken 60000000 run0)
      let l := bytesInForce b (srcAddr 9) 6
      almRuns b = true ∧ b.gran.toAlm = [refOf 60000000] ∧ b.later = [] ∧ srcEn l = true ∧ srcOwner l = 3 ∧ srcRate l = 0 ∧ leAt l 6 1 = n ∧
        b.alm.thr.getLsbD 9 = false ∧ (leAt l 0 2).testBit 9 = false ∧
        (match quantity b ref9.time (viewBale (refOf 60000000).bytes) (leAt l 2 2 % 8192) (leAt l 4 1 / 32) (leAt l 4 1 % 32) (leAt l 5 1 % 16) with
         | some z => (leAt l 0 2).testBit 8 && flt (f32At l 8) z | none => false) = true ∧
        (match quantity b ref9.time (viewBale (refOf 50000000).bytes) (leAt l 2 2 % 8192) (leAt l 4 1 / 32) (leAt l 4 1 % 32) (leAt l 5 1 % 16) with
         | some z => !flt (f32At l 8) z && !(leAt l 0 2).testBit 7 | none => false) = true ∧
        quantity b ref9.time (viewBale (zeros 64)) (leAt l 2 2 % 8192) (leAt l 4 1 / 32) (leAt l 4 1 % 32) (leAt l 5 1 % 16) = none) := by decide +kernel
/-- The outputs take their levels. -/
def runs : Block := regs [(pg 0x2A 0x008, 1), (pg 0x2B 0x008, 1)] { run0 with balls := { run0.balls with inact := true } }
def ballIs (i : Fin 16) (x : BallSt) (b : Block) : Block := { b with alm := { b.alm with balls := b.alm.balls.set i x } }
/-- A request for source 9; a ball held, one that may change; one latched with logic 0; a ball forced by ALM_TEST. -/
theorem witness_BallDecisions : almRuns run0 = true ∧ accL run0 .host 0x2A 0x04C ∧ acc run0 .host 0x2A 0x048 ∧
    (run0.ball 3).latched = false ∧ (run0.ball 3).hold ≤ run0.mono ∧ run0.mono < (ballIs 3 { hold := run0.mono + 1 } run0 |>.ball 3).hold ∧
    almRuns State.reset.blk = false ∧ (run0.ball 3).ask = none ∧
    (let b := { run0 with alm := { run0.alm with reqs := [⟨9, true, run0.now, false⟩] } }
     almRuns b = true ∧ b.later = [] ∧ b.alm.active.getLsbD 9 ≠ true) ∧
    (let x : BallSt := { l := true, ask := some (9, run0.now, false) }
     (ballIs 3 x run0).ball 3 = x ∧ x.hold ≤ run0.mono ∧ (x.l || x.latched) ≠ x.out) ∧
    (let b := ballIs 3 { out := true, latched := true } run0
     (b.ball 3).latched = true ∧ (b.ball 3).l = false ∧ ballLogic b 3 = false ∧ (b.ball 3).hold ≤ b.mono ∧ (8 : Word).getLsbD 3 = true) ∧
    run0.r (pg 0x2A 0x04C) = 0 ∧ runs.balls.inact = true ∧ runs.running = true ∧ runs.enabled 0x2A = true ∧ runs.acts = true ∧
    (leAt (bytesInForce (regs [(ballAddr 3, 0x8000)] run0) (ballAddr 3) 6) 0 2).testBit 15 = true := by decide +kernel
def setDs (t : Gt) (b : Block) : Block := modDs 4 (fun _ => { on := true, sent := true, due := some t, ms := 2 }) b
/-- A dataset due and not; entries that fit and not, with and without a rate. -/
theorem witness_AlmEntries : (run0.ds 4).on = false ∧ accL run0 .host 0x2A 0 ∧ gooseCan (setDs run0.mono runs) = true ∧ gooseCan run0 = false ∧ run0.acts = true ∧
    ((modDs 4 (fun _ => { on := true }) runs).ds 4).sent = false ∧
    (∀ t ∈ [run0.mono, run0.mono + 1], ((setDs t run0).ds 4).on = true ∧ ((setDs t run0).ds 4).sent = true ∧ ((setDs t run0).ds 4).due = some t) ∧
    srcCheck run0 9 (bytesOfWords (entryWords run0 (srcAddr 9) 6 srcMask 0xD000)) = 0x06 ∧
    (let l := bytesOfWords (entryWords (src9 1 (taken 60000000 run0)) (srcAddr 9) 6 srcMask 0x0003B100)
     srcCheck (src9 1 (taken 60000000 run0)) 9 l = 0 ∧ srcEn l = true ∧ ((taken 60000000 run0).rate (srcRate l)).on = true) ∧
    (let l := bytesOfWords (entryWords run0 (srcAddr 9) 6 srcMask 0)
     srcCheck run0 9 l = 0 ∧ srcEn l = false ∧ (run0.rate (srcRate l)).on = false) ∧
    16 < fld (17 : Word) 4 0 ∧ fld (16 : Word) 4 0 ≤ 16 ∧ leadRate run0 = none ∧ leadRate (taken 60000000 run0) ≠ none ∧
    dsCheck (bytesOfWords (entryWords run0 (dsAddr 4) 62 dsMask 0x8000)) = 0x22 ∧
    (let b := regs [(dsAddr 4 + 16, 0x03E80002), (dsAddr 4 + 20, 2)] run0
     dsCheck (bytesOfWords (entryWords b (dsAddr 4) 62 dsMask 0x8000)) = 0) := by decide +kernel
/-- Rate 0 runs and publishes from 9 s on; the bale of 9 s is computed, late or not; a hold ends. -/
def outs (w : List (Gt × Nat × Bool)) (now : Gt) (b : Block) : Block :=
  let c := taken 60000000 b
  { c with
    time := { c.time with valid := true, ctr := now * 2 ^ 32 }
    gov := { c.gov with wait := w, pubT := some (9 * gtSec - 1), outs := c.gov.outs.set 2 { us := [(9 * gtSec, 5)] } } }
/-- Govern acts. -/
def gov1 : Block := { runs with mode := { run0.mode with govern := true, base := true } }
theorem witness_ControlOutputs :
    (let b := taken 60000000 run0
     govRuns b = true ∧ b.later = [] ∧ b.gran.toCo = [refOf 60000000] ∧ (refOf 60000000).rate = outRate b ∧ ((0, 450) : Nat × Nat) ∉ b.gov.taken ∧
       coReady b (refOf 60000000) = false ∧ b.gov.pubT = none) ∧
    (let b := modGran (fun g => { g with toOsc := [] }) (taken 60000000 run0)
     coReady b (refOf 60000000) = true) ∧
    modeAt run0 ref9.time = false ∧ govRuns State.reset.blk = false ∧ outRate run0 ≠ 3 ∧ (run0.co 2).us = [] ∧ modeAt gov1 ref9.time = true := by decide +kernel
/-- A member without a role. -/
def inRoleAlone (r : PairRole) (b : Block) : Block :=
  regs [(pg 0x00 0x050, 1)] { b with pair := { b.pair with role := r } }
/-- The publication of 9 s and its hypotheses, as a test. -/
def pubOk (late : Bool) : Bool :=
  let b := outs [(9 * gtSec, 450, late)] (10 * gtSec) gov1
  govRuns b && b.time.valid && decide (pubNext b = some (9 * gtSec)) && decide (9 * gtSec + gtNs (b.n (pg 0x2B 0x048) * 1000) ≤ b.now) &&
    publishes b && b.decides && modeAt b (9 * gtSec) &&
    decide ((b.gov.wait.find? fun e => e.1 = 9 * gtSec) = some (9 * gtSec, 450, late)) &&
    decide (((b.co 2).us.find? fun e => e.1 = 9 * gtSec) = some (9 * gtSec, 5))
theorem witness_Publication : modeAt gov1 ref9.time = true ∧ pubOk true = true ∧ pubOk false = true ∧
    (let b := outs [] (9 * gtSec) run0
     pubNext b = some (9 * gtSec) ∧ b.now < 9 * gtSec + gtNs (b.n (pg 0x2B 0x048) * 1000)) ∧ publishes run0 = false ∧ run0.time.valid = false ∧ pubNext run0 = none ∧
    (let b := modGov (fun g => { g with hold := true }) (inRoleAlone .noRole gov1)
     b.gov.hold = true ∧ b.decides = false ∧ modeAt b ref9.time = true ∧ b.gov.ramp = false) := by decide +kernel
theorem witness_GapHold : run0.gov.hold = false ∧
    (let b := modGov (fun g => { g with hold := true, holdFrom := run0.mono - gtSec * 90 }) run0
     b.gov.hold = true ∧ b.gov.ramp = false ∧ b.gov.holdFrom + gtMs (b.f (pg 0x2B 0x04C) 15 0) ≤ b.mono) ∧
    run0.mono < (modGov (fun g => { g with hold := true, holdFrom := run0.mono + 1 }) run0).gov.holdFrom := by decide +kernel
theorem witness_CoEntry : accL run0 .host 0x2B 0 ∧
    coCheck run0 (bytesOfWords (entryWords run0 (coAddr 2) 26 coMask 9)) = 0x06 ∧
    coCheck run0 (bytesOfWords (entryWords run0 (coAddr 2) 26 coMask 0)) = 0 ∧ ((taken 60000000 run0).rate (outRate run0)).on = true ∧
    (run0.rate (outRate run0)).on = false := by decide +kernel

/-! Capture. -/

/-- What awaits asks, as a test, and alone. -/
def awt (b : Block) (d : Nat) (t : Gt) (k : Nat) : Bool :=
  let c := capCfg b d
  let s := b.cdef d
  let g := rowFrom c (capFirst b s.rate (nth c.chans 0 0) t)
  c.en && s.ph == .armed && s.held.isNone && s.seq.isNone && decide (s.r0 ≤ g) && decide (k = (g - s.r0) / c.dec) && decide (c.pre ≤ k) &&
    decide (s.rows ≤ k + capL c s.rate ∨ s.rows = k + capL c s.rate + 1 ∧ capL c s.rate + 1 < c.post)
theorem awt_awaits {b : Block} {d : Nat} {t : Gt} {k : Nat} (h : awt b d t k = true) : awaits b d t k := by
  simp only [awt, Bool.and_eq_true, decide_eq_true_eq, beq_iff_eq, Option.isNone_iff_eq_none, and_assoc] at h
  exact h
def aln (b : Block) (d : Nat) : Bool := (List.range 32).all fun j => j == d || !(capCfg b j).en
theorem aln_alone {b : Block} {d : Nat} (h : aln b d = true) : alone b d := by
  simp only [aln, List.all_eq_true, List.mem_range, Bool.or_eq_true, beq_iff_eq, Bool.not_eq_true'] at h
  exact fun j hj hd => (h j hj).resolve_left hd
/-- Definition 2 in area 0 of 64 MiB: channel 0, every sample, 2 rows before and 100,000 after, 100 ms; a trigger slot; one tap in each stage. -/
def def2 (ctl slot : Word) (b : Block) : Block :=
  let c := { b with chain := { b.chain with conv := some 20480100 }, regs := [(0x300C00, 1), (0x300C04, 1), (0x300C08, 1)] }
  regs [(capAddr 2, 0x00018000 ||| ctl), (capAddr 2 + 4, 2), (capAddr 2 + 8, 100000), (capAddr 2 + 12, 100), (pg 0x30 0x080, 0x80000100),
    (capAddr 2 + 64, slot)] c
/-- It is in a state. -/
def inPh (s : CapDef) (b : Block) : Block := modCap (fun c => { c with defs := c.defs.set 2 s }) b
def armed2 : CapDef := { ph := .armed, nx := some 640000, rate := (64000, 1), r0 := 630000 }
/-- The row at the present time. -/
def kNow (b : Block) : Nat := rowFrom (capCfg b 2) (capFirst b (64000, 1) 0 b.now) - 630000
def capOk (b : Block) (t : Gt) : Bool := awt b 2 t (kNow b) && aln b 2 && capRuns b && b.up
def trig2 (t : Gt) : CapTrig := { t := t, rank := 0, slot := 0, type := 5, frac := 0, index := 0, gov := false, tq := 0, row := 5, gains := [] }
theorem witness_CaptureRows : capRuns State.reset.blk = false ∧ capRuns run0 = true ∧ (capCfg run0 2).en = false ∧
    (let b := inPh armed2 (def2 0 0 run0)
     let c := capCfg b 2
     let s := b.cdef 2
     capRuns b = true ∧ c.en = true ∧ s.ph = .armed ∧ s.held = none ∧ (∀ q ∈ c.slots, q.type = 0) ∧ capRate b c = some (64000, 1) ∧
       s.rate = (64000, 1) ∧ s.nx = some 640000 ∧ capNow b (64000, 1) (nth c.chans 0 0) = 640004 ∧ capAvail b c (64000, 1) 640000 = true ∧
       s.r0 ≤ 640000 ∧ 640000 % (c.dec * s.mul) = 0 ∧ b.cap.fill + rowBytes c ≤ 0x200000 ∧ s.last = none) ∧
    640000 < ({ armed2 with r0 := 640001 } : CapDef).r0 ∧
    0x200000 < (modCap (fun s => { s with fill := 0x200000 }) (inPh armed2 (def2 0 0 run0))).cap.fill + rowBytes (capCfg (def2 0 0 run0) 2) ∧
    ({ armed2 with last := some (zeros 8), rows := 1 } : CapDef).last = some (zeros 8) ∧
    (capSamp { run0 with chain := { run0.chain with wrec := [(0, [⟨640000, 0, 5, true, false⟩])] } } (64000, 1) 0 640000).isSome = true ∧
    capSamp run0 (64000, 1) 0 640000 = none ∧
    (let b := inPh { armed2 with ph := .uneven } (def2 0 0 run0)
     capRate b (capCfg b 2) = some (64000, 1) ∧ (b.cdef 2).ph = .uneven) ∧
    (let b := inPh { armed2 with rate := (12800, 1) } (def2 0 0 run0)
     capRate b (capCfg b 2) = some (64000, 1) ∧ (64000, 1) ≠ (b.cdef 2).rate ∧ (b.cdef 2).ph = .armed) ∧
    (let b := inPh { armed2 with ph := .recording, held := some (trig2 5), rows := 100005 } (def2 0 0 run0)
     (b.cdef 2).mulTo = none ∧ (capCfg b 2).autoDbl = false ∧ (b.cdef 2).live = true ∧ b.cap.fill + rowBytes (capCfg b 2) ≤ 0x200000) := by decide +kernel
/-- A rising crossing of 10 between 6 and 12: placed at ⌈256 · 4 / 6⌉ = 171. -/
def slotLevel : CapSlot := ⟨1, 0, false, 0, 0, 0, 0, 0, 0, 10, 0, 2, 0⟩
theorem witness_CrossingPlacement :
    (let x := fun (n : Nat) => if n = 4 then some (6 : Int) else if n = 5 then some 12 else none
     slotLevel.type = 1 ∧ slotLevel.cubic = false ∧ x 4 = some 6 ∧ x 5 = some 12 ∧ (6 : Int) < slotLevel.a ∧ slotLevel.a ≤ 12 ∧
       slotLevel.edge ≠ 1 ∧ slotFires slotLevel 0 x 5 = (some 171, 1)) ∧
    ({ slotLevel with edge := 1 } : CapSlot).edge ≠ 0 ∧ slotLevel.a - slotLevel.hyst < 11 ∧ (11 : Int) < slotLevel.a + slotLevel.hyst := by
  decide +kernel
/-- Bit 2 alone is set. -/
theorem four_onlyBit (p : Nat → Prop) : onlyBit 4 2 p :=
  ⟨by decide, fun k hk h hne => absurd ((by decide : ∀ k < 32, (4 : Word).getLsbD k = true → k = 2) k hk h) hne⟩
theorem witness_HostTriggers : acc run0 .host 0x30 0x050 ∧ (capCfg run0 2).en = false ∧ (capCfg (def2 0 0 run0) 2).en = true ∧
    capOk (inPh armed2 (def2 0 0 run0)) run0.now = true ∧ (capCfg (def2 0x0800 0 run0) 2).holdMode = 1 ∧
    (inPh { ph := .hold, holdN := 3 } (def2 0x0800 0 run0) |>.cdef 2).holdN = 3 ∧ (inPh { ph := .wait } run0 |>.cdef 2).ph = .wait ∧
    (let b := inPh armed2 (def2 0 0 run0)
     let c := capCfg b 2
     let g := rowFrom c (capFirst b (64000, 1) (nth c.chans 0 0) b.now)
     let k := (g - 630000) / c.dec
     630000 ≤ g ∧ g < 650000 ∧ c.pre ≤ k ∧ k + capL c (64000, 1) + 1 < 70000 ∧ capL c (64000, 1) + 1 < c.post ∧ 0 ≤ k + capL c (64000, 1) + 1) ∧
    (trig2 0).t < run0.now := by decide +kernel
/-- A slot for source 9's rise in definition 2; an event of it, a bale for a frequency slot, an edge of TRIG_IN. -/
theorem witness_SourceTriggers : capRuns run0 = true ∧ run0.cap.evs = [] ∧ run0.gran.toCap = [] ∧ (∀ d < 32, (capCfg run0 d).en = false) ∧
    (let b := modCap (fun s => { s with evs := [⟨5, 9, true, run0.now⟩] }) (inPh armed2 (def2 0 0x00090005 run0))
     capOk b b.now = true ∧ b.cap.evs = [⟨5, 9, true, run0.now⟩] ∧ ((capCfg b 2).slots.map fun q => (q.type, q.num, q.edge)) =
       [(5, 9, 0), (0, 0, 0), (0, 0, 0), (0, 0, 0)]) ∧
    (let b := inPh armed2 (def2 0 7 run0)
     capOk b (b.now / 65536 * 65536) = true ∧ ((capCfg b 2).slots.map fun q => (q.type, q.edge)) = [(7, 0), (0, 0), (0, 0), (0, 0)]) ∧
    ((modCap (fun s => { s with outEnd := some (run0.mono, 2) }) run0).cap.outEnd = some (run0.mono, 2)) ∧ run0.cap.outEnd = none ∧ run0.dev.st ≠ .keep ∧ run0.dev.st ≠ .off := by decide +kernel
/-- A slot for a frequency of at least 59 Hz of slot 3. -/
def baleSlot : Block :=
  regs [(capAddr 2 + 68, 0x08), (capAddr 2 + 72, 0x426C0000)]
    (granary [{ bale9 with closed := true }] (inPh { armed2 with met := [some false, none, none, none] } (def2 0 0x00030004 run0)))
def refNow : BaleRef := { refOf 60000000 with time := run0.now }
theorem witness_BaleTrigger :
    (let b := modGran (fun g => { g with toCap := [refNow] }) baleSlot
     let q := nth (capCfg b 2).slots 0 slotLevel
     capOk b refNow.time = true ∧ b.cap.evs = [] ∧ b.gran.toCap = [refNow] ∧ ((0, 450) : Nat × Nat) ∉ b.cap.taken ∧
       ((capCfg b 2).slots.map (·.type)) = [4, 0, 0, 0] ∧ q.rate = 0 ∧ (b.cdef 2).met.length = 4 ∧ nth (b.cdef 2).met 0 none = some false ∧
       (quantity b refNow.time (viewBale refNow.bytes) (q.num % 8192) q.kind q.idx q.bit).any (fun z => fle q.aF z) = true ∧
       q.edge ≠ 1 ∧ q.edge ≠ 2) := by decide +kernel
theorem witness_Definitions : acc run0 .host 0x30 0x054 ∧ acc run0 .host 0x30 0x058 ∧ acc run0 .host 0x30 0x088 ∧ accL run0 .host 0x30 0 ∧
    (run0.cdef 2).ph = .off ∧ (inPh { ph := .stopped } run0 |>.cdef 2).ph = .stopped ∧ (capCfg (def2 0x1000 0 run0) 2).holdMode = 2 ∧
    (inPh armed2 run0 |>.cdef 2).live = true ∧ (inPh { armed2 with held := some (trig2 5) } run0 |>.cdef 2).held = some (trig2 5) ∧
    (let b := def2 0 0 run0
     let c := capCfg b 2
     capRate b c = some (64000, 1) ∧ areaFind b c.area (capExtent c) = some (0, []) ∧ areaStop b 0 = true ∧
       capCheck b c = 0 ∧ (0 : Word).toNat = (b.carea 0).head ∧ (5 : Word).toNat ≠ (b.carea 0).head ∧ (b.carea 0).exts = []) ∧
    areaFind run0 0 4096 = none ∧ (inPh { ph := .hold } (def2 0 0 run0) |>.cdef 2).holdEnd ≤ run0.now ∧
    (capCfg (def2 0 0 run0) 2).holdMode = 0 ∧
    (let ws := entryWords (def2 0 0 run0) (capAddr 2) 48 capMask 0x00018000
     capCheck (def2 0 0 run0) (capOf ws) = 0 ∧ (capOf ws).en = true) ∧
    (let ws := entryWords run0 (capAddr 2) 48 capMask 0x00018000
     capCheck run0 (capOf ws) = 0x22) ∧
    capCheck run0 (capOf (entryWords run0 (capAddr 2) 48 capMask 0)) = 0 := by decide +kernel
def stook (fails : Nat) (left : Option Nat) : CapExport := ⟨2, 0, 7, 0, 4096, 0, 5, 0, 0, fails, left⟩
def queued (x : CapExport) (done : List (Nat × Nat × Nat)) (b : Block) : Block := modCap (fun s => { s with queue := [x], done := done }) b
theorem witness_Stooks : capRuns run0 = true ∧ run0.cap.queue = [] ∧ (queued (stook 0 none) [] run0).cap.queue = [stook 0 none] ∧
    (let b := regs [(pg 0x30 0x060, 0x10000000)] (queued (stook 1 none) [] run0)
     stookPorts b = [0] ∧ (b.port 0).link = false ∧ (port0 id).port 0 = { (port0 id).port 0 with link := true }) ∧
    (let b := queued (stook 1 (some 2)) [(7, 1, 0), (7, 1, 1)] run0
     ∃ e ∈ (b.cap.done.filter fun e => e.1 = 7 && e.2.1 = 1), e.2.2 ≠ 0) ∧
    (let b := queued (stook 1 (some 2)) [(7, 1, 0), (7, 1, 0)] run0
     (¬ ∃ e ∈ (b.cap.done.filter fun e => e.1 = 7 && e.2.1 = 1), e.2.2 ≠ 0) ∧
       2 ≤ (b.cap.done.filter fun e => e.1 = 7 && e.2.1 = 1).length) ∧
    (let b := queued (stook 1 (some 2)) [(7, 1, 0)] run0
     (¬ ∃ e ∈ (b.cap.done.filter fun e => e.1 = 7 && e.2.1 = 1), e.2.2 ≠ 0) ∧
       (b.cap.done.filter fun e => e.1 = 7 && e.2.1 = 1).length < 2) := by decide +kernel

/-! The Thresher. -/

/-- Task 7: flags 0 of rate 0 (source 1) and 1 of a source; MASK, every engine, program at 0x400, BUDGET 1,000. -/
def task7 (ctl mask srcs : Word) (b : Block) : Block :=
  regs [(taskAt 7, ctl), (taskAt 7 + 4, mask), (taskAt 7 + 8, 0xFFFFFF), (taskAt 7 + 12, 0x400), (taskAt 7 + 16, 1000), (taskAt 7 + 32, srcs)] b
def ev (src : Nat) : ThrEvent := { src := src, t := 9 * gtSec, bale := 450 }
def raise (l h : List ThrEvent) (b : Block) : Block := modThr (fun x => { x with raised := l, held := h }) b
/-- A free task on source 1 alone, an ordered one, one that waits for two flags; events accepted, held, merged, counted. -/
theorem witness_Events : run0.thr.raised = [] ∧ run0.thr.held = [] ∧ run0.running = true ∧ run0.inReset 0x38 = false ∧
    (let b := raise [ev 1] [] (task7 0x8000 1 0x01 run0)
     hasRoom b 1 = true ∧ tasksFor b 1 false = [7] ∧ (b.task 7).flags ||| flagsOf (taskWords b 7) 1 = 1 ∧ (nth (taskWords b 7) 1 0) = 1) ∧
    (let b := raise [ev 1] [] (task7 0xA000 3 0x0901 run0)
     tasksFor b 1 true = [7] ∧ tasksFor b 1 false = [] ∧ ((b.task 7).flags ||| flagsOf (taskWords b 7) 1) &&& 3 ≠ 3 ∧ (srcKinds 1).2 = true) ∧
    (let b := raise [ev 1] [] { run0 with dev := { run0.dev with blocks := [0x38] } }
     b.running = true ∧ b.inReset 0x38 = true ∧ (b.thr.held.filter fun x => x.src = 1) = []) ∧
    (let b := raise [ev 0x10] [ev 0x10] run0
     (b.thr.held.filter fun x => x.src = 0x10) ≠ [] ∧ 0x10 ≤ (ev 0x10).src ∧ (ev 0x10).src ≤ 0x17) ∧
    (let b := raise [] [ev 1] run0
     b.running = true ∧ b.inReset 0x38 = false ∧ hasRoom b 1 = true ∧ quiet b.thr.heldAt b = true) ∧
    quiet (some run0.mono) run0 = false ∧
    hasRoom run0 0x0C = true ∧ (run0.thr.held.filter fun x => x.src = 1) = [] ∧ (raise [ev 0x0C] [ev 0x0C] run0).thr.held ≠ [] ∧
    (let mine := (raise [] [ev 0x21] run0).thr.held.filter fun x => x.src = 0x21
     mine ≠ [] ∧ 0x20 ≤ 0x21 ∧ 0x21 ≤ 0x3F) ∧ run0.thr.heldAt = none ∧
    (let mine := (raise [] (List.replicate 64 (ev 0x0C)) run0).thr.held.filter fun x => x.src = 0x0C
     64 ≤ mine.length ∧ mine.head?.map (·.ovr) = some false ∧ ¬ (1 ≤ 0x0C ∧ 0x0C ≤ 4)) ∧
    (let mine := (raise [] ({ ev 0x0C with ovr := true } :: List.replicate 63 (ev 0x0C)) run0).thr.held.filter fun x => x.src = 0x0C
     64 ≤ mine.length ∧ mine.head?.map (·.ovr) = some true) ∧
    (let mine := (raise [] (List.replicate 64 (ev 4)) run0).thr.held.filter fun x => x.src = 4
     64 ≤ mine.length ∧ mine.head?.map (·.ovr) = some false) := by decide +kernel
/-- An event of rate 0 up to the watermark, one beyond it; the ordered task names source 1. -/
def relOf (l : List ThrEvent) (b : Block) : Block := modThr (fun x => { x with rel := l }) (task7 0xA000 1 0x01 b)
theorem witness_Releases : thrRuns run0 = true ∧ run0.thr.rel = [] ∧ 1 ∈ orderedSrcs (relOf [] run0) ∧
    (frontier (relOf [] run0) 1).isSome = true ∧
    (let b := relOf [ev 1, ev 2] run0
     thrRuns b = true ∧ b.thr.rel.count (ev 1) = 1 ∧ (ev 1).t ≤ releaseMark b ∧ (ev 1).t = (ev 2).t ∧ (ev 1).src < (ev 2).src ∧
       tasksFor b 1 true = [7] ∧ tasksFor b 2 true = []) ∧
    (let x : ThrEvent := { ev 1 with t := 11 * gtSec }
     releaseMark (relOf [x] run0) < x.t) := by decide +kernel
/-- An item of task 7. -/
def item7 (ctl : Word) : Item :=
  { task := 7, words := [ctl, 1, 0xFFFFFF, 0x400, 1000] ++ List.replicate 11 0, t := 9 * gtSec, d := 0, cons := 1, w4 := 0, replayed := false,
    ovr := false, seq := 1, oseq := 1, pseq := 1 }
/-- Every engine runs an item. -/
def engines26 : Block := modThr (fun x => { x with engs := Vector.replicate 26 { run := some { item := item7 0x8300, addr := 0, started := 0 } } }) run0
def pending (l : List Item) (b : Block) : Block := modThr (fun x => { x with pend := l }) b
/-- A free item beside one of lower priority; an ordered one whose task runs; none. -/
theorem witness_Dispatches : run0.upd.reloadAt = none ∧ thrRuns run0 = true ∧ run0.thr.pend = [] ∧
    (let it := item7 0x8300
     let b := pending [it, { item7 0x8100 with pseq := 2 }] run0
     thrRuns b = true ∧ it.ordered = false ∧ engFor b it = (false, some (0, 0)) ∧ it.avoid = none ∧ b.thr.pend.count it = 1 ∧
       ({ item7 0x8100 with pseq := 2 } : Item).priority < it.priority) ∧
    (let it := item7 0xA000
     let b := modThr (fun x => { x with done := [{ it with pseq := 0 }] }) (pending [it] run0)
     it.ordered = true ∧ taskActive b it.task = true) ∧
    (let it := { item7 0x8300 with words := [0x8300, 1, 0] ++ List.replicate 13 0 }
     engFor (pending [it] run0) it = (true, some (0, 0))) ∧
    (let b := modUpd (fun u => { u with reloadAt := some (11 * gtSec) }) (pending [item7 0x8300] run0)
     (∃ it ∈ b.thr.pend, it.t < 11 * gtSec) ∧ thrRuns b = true) ∧
    (let b := modUpd (fun u => { u with reloadAt := some (5 * gtSec) }) (pending [item7 0x8300] run0)
     (¬ ∃ it ∈ b.thr.pend, it.t < 5 * gtSec) ∧ b.thr.done = [] ∧ (∀ p : Fin 26, (b.eng p.val).run = none) ∧ 5 * gtSec ≤ orderMark b) ∧
    (let b := modUpd (fun u => { u with reloadAt := some (9 * gtSec) }) (pending [{ item7 0x8300 with t := 8 * gtSec }, item7 0x8300] run0)
     (∃ it ∈ b.thr.pend, it.t < 9 * gtSec) ∧ 9 * gtSec ≤ (item7 0x8300).t) ∧
    engFor (pending [item7 0x8300] engines26) (item7 0x8300) = (false, none) := by decide +kernel
def finished (l : List LogEntry) (b : Block) : Block := modThr (fun x => { x with done := [{ item7 0xA000 with log := l }] }) b
def logOf (kind target : Nat) (d : List Byte) : List LogEntry := [⟨kind, target, d⟩]
/-- An item at DONE before the watermark with each log entry, and one after it. -/
theorem witness_Commits : thrRuns run0 = true ∧ run0.thr.done = [] ∧ run0.mirrors = false ∧ run0.pair.role ≠ .standby ∧
    run0.pair.role ≠ .converging ∧ (item7 0xA000).ordered = true ∧ (item7 0xA000).t ≤ orderMark run0 ∧
    (∀ l ∈ [[], logOf 4 0x710 (zeros 8), logOf 5 0 (zeros 16), logOf 2 17 [], logOf 2 3 []],
      nextCommit (finished l run0) = some { item7 0xA000 with log := l }) ∧
    tasksFor (task7 0xA000 1 0x43 run0) (0x40 + 3) true = [7] ∧
    orderMark run0 < ({ item7 0xA000 with t := 11 * gtSec } : Item).t := by decide +kernel
def fast : Block := { run0 with supply := { run0.supply with speed := 1024 } }
def busy (r : Run) (b : Block) : Block := modThr (fun x => { x with engs := x.engs.set 5 { run := some r } }) b
/-- A run within its time, and past it, with a try left and with none. -/
theorem witness_Overtime :
    (let r : Run := { item := item7 0x8300, addr := 5, started := 0 }
     (fast.eng 5).run = none ∧ ((busy r fast).eng 5).run = some r ∧
       2 * r.item.budget * 1024 * 65536 + 10000 * 65536 * fast.supply.speed < (fast.mono - r.started) * fast.supply.speed ∧
       r.item.tries < (regs [(pg 0x38 0x040, 0x10000)] fast).f (pg 0x38 0x040) 17 16 ∧
       (regs [(pg 0x38 0x040, 0)] fast).f (pg 0x38 0x040) 17 16 ≤ r.item.tries) ∧
    ¬ (2 * 1000 * 1024 * 65536 + 10000 * 65536 * fast.supply.speed < (fast.mono - fast.mono) * fast.supply.speed) := by decide +kernel
/-- A timer of 1 s that is due; task entries in order and not; an engine with and without a spare. -/
theorem witness_TimersTasksEngines :
    (let b := regs [(pg 0x38 0x104, 0x800F4240)] run0
     b.running = true ∧ b.t (pg 0x38 0x104) 31 = true ∧ b.f (pg 0x38 0x104) 25 0 = 1000000 ∧ mget 0 b.thr.timers 1 = 0 ∧
       b.now / (1000000 * 1000 * 65536) * (1000000 * 1000 * 65536) = b.now) ∧ run0.t (pg 0x38 0x104) 31 = false ∧
    accL run0 .host 0x38 0 ∧ accL run0 .host (0x40 + 5) 0x040 ∧
    (let b := task7 0x8000 1 0x01 run0
     taskCheck b 7 (entryWords b (taskAt 7) 16 taskMask 0x8000) = 0 ∧ b.t (taskAt 7) 15 = true ∧
       taskCheck b 7 (entryWords b (taskAt 7) 16 taskMask 0) = 0) ∧ run0.t (taskAt 7) 15 = false ∧
    (let ws := entryWords (task7 0x8000 1 0x40 run0) (taskAt 7) 16 taskMask 0x8000
     taskCheck run0 7 ws = 0x20 ∧ flagSrc ws 0 ≠ 0 ∧ (srcKinds (flagSrc ws 0)).1 = false) ∧
    (run0.eng 5).gone = false ∧ run0.bist.rot = none ∧ run0.spareFree 24 = true ∧
    (let b := modThr (fun x => { x with engs := (x.engs.set 24 { covers := some 1 }).set 25 { covers := some 2 } }) run0
     b.spareFree 24 = false ∧ b.spareFree 25 = false ∧ b.upd.spare = none ∧ ∀ p, p = 24 ∨ p = 25 → (b.eng p).covers ≠ some 5) ∧
    (let b := modThr (fun x => { x with engs := x.engs.set 5 { out := true } }) run0
     (b.eng 5).out = true ∧ (b.eng 5).degraded = false ∧ (b.eng 5).retired = false ∧ (b.eng 5).gone = true) ∧
    (∀ e : Fin 24, accL run0 .host (0x40 + e.val) 0x040) ∧
    (let b := modUpd (fun u => { u with spare := some 24 }) (modThr (fun x => { x with engs := x.engs.set 25 { covers := some 2 } }) run0)
     b.bist.rot = none ∧ b.spareFree 24 = false ∧ b.spareFree 25 = false ∧ b.upd.spare = some 24) ∧
    (let b := modThr (fun x => { x with engs := x.engs.set 24 { covers := some 1 } }) run0
     b.bist.rot = none ∧ b.spareFree 24 = false ∧ b.spareFree 25 = true) ∧
    (let b := { run0 with bist := { run0.bist with rot := some ⟨5, 24, false⟩ } }
     (b.eng 5).gone = false ∧ b.bist.rot = some ⟨5, 24, false⟩ ∧ (⟨5, 24, false⟩ : RotStep).engine ≠ 6 ∧ (b.eng 6).gone = false) ∧
    (let b := modThr (fun x => { x with engs := x.engs.set 5 { out := true, degraded := true } }) run0
     (b.eng 5).out = true ∧ (b.eng 5).degraded = true) ∧
    (let b := modThr (fun x => { x with engs := x.engs.set 5 { out := true, retired := true } }) run0
     (b.eng 5).out = true ∧ (b.eng 5).retired = true) := by
  and_intros <;> first | decide +kernel | (rintro p (rfl | rfl) <;> decide +kernel)

/-! Paired operation. -/

/-- A member, strapped senior where asked, with its pair link up on lane 0; the period P is 50 ms. -/
def plink (straps : Word) (b : Block) : Block :=
  modPair (fun p => { p with lanes := 1, linkUp := true }) (regs [(pg 0x00 0x050, straps), (pg 0x60 0x040, 0x00320001)] b)
def inRole (r : PairRole) (b : Block) : Block := modPair (fun p => { p with role := r }) b
def hd1 : PlHead := ⟨1, 0, false, true⟩
/-- What inOrder asks, as a test. -/
def ord (b : Block) (hd : PlHead) : Bool :=
  linkTrained b && hd.good && decide (b.pair.rxSeq < 2 ^ 32) && decide (hd.seq = (b.pair.rxSeq + 1) % 2 ^ 32)
theorem ord_inOrder {b : Block} {hd : PlHead} (h : ord b hd = true) : inOrder b hd := by
  simpa [ord, inOrder, linked, and_assoc] using h
/-- What maySend asks but for the room, as a test. -/
def snd (b : Block) : Bool := b.member && b.up && !b.inReset 0x09 && b.pair.formed && decide (rtxFill b = 0)
theorem snd_maySend {b : Block} {m : PlMsg} (h : snd b = true) (hm : plLen m ≤ 4194304) : maySend b m := by
  simp only [snd, Bool.and_eq_true, decide_eq_true_eq, Bool.not_eq_true'] at h
  obtain ⟨⟨⟨⟨h1, h2⟩, h3⟩, h4⟩, h5⟩ := h
  exact ⟨h1, h2, h3, h4, by omega⟩
def beatOf (holding inStep ready : Bool) : PlBeat := ⟨0, holding, inStep, false, 0, false, ready, 0⟩
theorem witness_LinkSends : linkTrained run0 = false ∧ linkTrained (plink 1 run0) = true ∧ (plink 1 run0).pair.beatAt = none ∧
    (plink 1 run0).pair.helloAt = none ∧ (plink 1 run0).pair.formed = false ∧ rtxFill (plink 1 run0) + 112 ≤ 4194304 ∧
    run0.mono < run0.mono + 250000 * 65536 ∧
    (let b := modPair (fun p => { p with formed := true, helloSent := true }) (plink 1 run0)
     b.pair.formed = true ∧ b.pair.helloSent = true) ∧
    (let b := modPair (fun p => { p with beatAt := some 5, lanes := 2 }) (inRole .detached (plink 1 run0))
     b.pair.beatAt = some 5 ∧ 5 + 250000 * 65536 ≤ b.mono ∧ linkTrained b = true ∧ b.pair.lanes.getLsbD 0 = false ∧ b.pair.role = .detached) ∧
    (let b := modPair (fun p => { p with helloAt := some run0.mono }) (plink 1 run0)
     b.pair.helloAt = some run0.mono ∧ b.mono < run0.mono + 10 * 1000000 * 65536) := by decide +kernel
theorem rtxFill_mirror (n : Nat) (b : Block) : rtxFill (modPair (fun p => { p with rtx := [(1, 0, .mirror (zeros n))] }) b) = 20 + n := by
  simp [rtxFill, modPair, sumN, plLen, plPayload, zeros]
/-- The retransmit buffer full. -/
theorem witness_HelloFindsTheBufferFull : let b := modPair (fun p => { p with rtx := [(1, 0, .mirror (zeros 4194304))] }) (plink 1 run0)
    linkTrained b = true ∧ b.pair.helloAt = none ∧ b.pair.formed = false ∧ 4194304 < rtxFill b + 112 := by
  and_intros
  · decide +kernel
  · decide +kernel
  · decide +kernel
  · show 4194304 < rtxFill _ + 112
    rw [rtxFill_mirror]
    omega
/-- Frames in order, ahead, bad; an acknowledged frame, a named one; old and new entries; a link that has been silent; a lane. -/
def rtx2 (t : Gt) : List (Nat × Gt × PlMsg) := [(1, t, .ack), (2, t, .ack)]
theorem witness_LinkKeeps : linkTrained run0 = false ∧ ord (plink 1 run0) hd1 = true ∧ (⟨1, 0, false, false⟩ : PlHead).good = false ∧
    (let b := plink 1 run0
     let next := (b.pair.rxSeq + 1) % 2 ^ 32
     3 ≠ next ∧ (3 + 2 ^ 32 - next) % 2 ^ 32 < 2 ^ 31 ∧ b.pair.nakSent ≠ some next) ∧
    (let b := modPair (fun p => { p with rtx := rtx2 0 }) (plink 1 run0)
     b.pair.rtx = [] ++ (1, 0, .ack) :: [(2, 0, .ack)] ∧ b.pair.rtx = [(1, 0, .ack)] ++ [(2, 0, .ack)] ∧ (1 : Nat) ≠ 0 ∧ (2 : Nat) ≠ 0 ∧
       (1 : Nat) ≠ (2 : BitVec 32).toNat ∧ b.member = true ∧ 0 + 1000000 * 65536 ≤ b.mono ∧ b.mono < b.mono + 1000000 * 65536) ∧
    run0.pair.rtx = [] ∧ run0.pair.linkUp = false ∧
    (let b := plink 1 run0
     b.pair.lastRx + b.f (pg 0x09 0x048) 16 0 * 1000 * 65536 ≤ b.mono ∧ b.pair.linkUp = true ∧ b.pair.lanes.getLsbD 0 = true ∧ b.pair.lanes.getLsbD 1 = false ∧
       b.mono < (modPair (fun p => { p with lastRx := b.mono + 1 }) b).pair.lastRx) ∧
    (let b := modPair (fun p => { p with rtx := rtx2 0 }) (plink 1 run0)
     linkTrained b = true ∧ b.pair.linkUp = true ∧ rtxDrop hd1.ack b.pair.rtx = [(1, 0, .ack)] ++ [(2, 0, .ack)] ∧ (1 : Nat) ≠ (2 : BitVec 32).toNat ∧
       [((2, 0, .ack) : Nat × Gt × PlMsg)].head? = some (2, 0, .ack)) ∧
    (∀ r ∈ [PairRole.standby, .converging, .active], let b := inRole r (modPair (fun p => { p with rtx := rtx2 0 }) (plink 1 run0))
      b.member = true ∧ 0 + 1000000 * 65536 ≤ b.mono ∧ b.pair.role = r) ∧
    (let b := modPair (fun p => { p with nakSent := some 1 }) (plink 1 run0)
     (3 : Nat) ≠ (b.pair.rxSeq + 1) % 2 ^ 32 ∧ b.pair.nakSent = some ((b.pair.rxSeq + 1) % 2 ^ 32)) ∧
    (let b := regs [(pg 0x09 0x040, 3)] (plink 1 run0)
     b.t (pg 0x09 0x040) 0 = true ∧ b.t (pg 0x09 0x040) 1 = true ∧ b.member = true ∧ b.linesOn = true ∧ b.inReset 0x09 = false ∧
       b.pair.lanes = 1) := by and_intros <;> decide +kernel
theorem witness_HelloAndHeartbeat : ord (plink 1 run0) hd1 = true ∧ (plink 1 run0).pair.formed = false ∧ (plink 1 run0).pair.holding = false ∧
    (plink 1 run0).pair.acting = false ∧ leaseOut (plink 1 run0) = true ∧ (beatOf true false false).holding = true ∧
    (plink 1 run0).pair.lease.released = false ∧ (plink 1 run0).pair.lease.wireFault = false ∧ (plink 1 run0).pair.role = .noRole ∧
    (let h : PlHello := ⟨5, 3, false, 60, false, [], []⟩
     h.straps.getLsbD 1 ≠ (ownStraps (plink 1 run0)).getLsbD 1 ∧ h.straps.getLsbD 2 = (ownStraps (plink 1 run0)).getLsbD 2 ∧
       h.leaseMs ≠ (plink 1 run0).f (pg 0x60 0x040) 22 16) ∧
    (let h : PlHello := ⟨5, 1, false, 50, false, [], []⟩
     h.straps.getLsbD 1 = (ownStraps (plink 1 run0)).getLsbD 1 ∧ h.leaseMs = (plink 1 run0).f (pg 0x60 0x040) 22 16) := by decide +kernel
/-- A formed pair whose member holds gets a HELLO that agrees with its settings. -/
theorem witness_HelloAgrees :
    (let b := modPair (fun p => { p with formed := true, holding := true, helloSent := true }) (plink 1 run0)
     let h : PlHello := ⟨5, 3, b.mode.govern, 50, true, sharedDigest b, []⟩
     ord b hd1 = true ∧ b.pair.formed = true ∧ b.pair.holding = true ∧ b.pair.helloSent = true ∧ h.digest = sharedDigest b ∧
       b.mode.pend = none ∧ h.govern = b.mode.govern ∧ h.rejoin = true) ∧
    (let b := { modPair (fun p => { p with formed := true, holding := true, helloSent := true }) (plink 1 run0) with mode := { run0.mode with pend := some (true, 5) } }
     ord b hd1 = true ∧ snd b = true ∧ plLen (.mode true 5) ≤ 4194304 ∧ b.mode.pend = some (true, 5)) ∧
    (let b := modPair (fun p => { p with formed := true, holding := true, helloSent := true }) (plink 1 run0)
     snd b = true ∧ b.mode.pend = none ∧ (true : Bool) ≠ b.mode.govern ∧ plLen (.mode b.mode.govern (modeTime b)) ≤ 4194304) := by
  and_intros <;> first | decide +kernel | rfl
/-- Silos 58, 59 and 5 of 32 entries. -/
def silos3 (b : Block) : Block := regs [(sqCtl 5, 0x80000005), (sqCtl 58, 0x80000005), (sqCtl 59, 0x80000005)] b
theorem witness_Messages : (let b := plink 1 (silos3 run0)
      ord b hd1 = true ∧ b.siloFits 59 2 = true ∧ b.siloFits 58 3 = true ∧ b.siloFits 5 (ceilDiv 64 64) = true) ∧
    (let b := plink 1 (inPh armed2 (def2 0 8 run0))
     ord b hd1 = true ∧ capOk b b.now = true ∧ ((capCfg b 2).slots.map (·.type)) = [8, 0, 0, 0]) ∧
    (∀ d < 32, (capCfg run0 d).en = false) ∧ acc run0 .host 0x60 0x400 ∧ acc (plink 1 run0) .host 0x60 0x400 ∧ run0.pair.linkUp = false ∧
    (let b := modPair (fun p => { p with formed := true }) (plink 1 run0)
     snd b = true ∧ b.pair.linkUp = true ∧ plLen (.hostmsg (zeros 64)) ≤ 4194304) ∧ capRuns State.reset.blk = false ∧ capRuns run0 = true ∧
    (let b := { plink 1 run0 with upd := { run0.upd with phase := 5 } }
     ord b hd1 = true ∧ b.upd.phase = 5 ∧ b.senior = false ∧ (leAt [2] 0 1).testBit 1 = true ∧ (leAt [0] 0 1).testBit 1 = false) ∧
    (let b := { plink 3 run0 with upd := { run0.upd with phase := 5 } }
     ord b hd1 = true ∧ b.upd.phase = 5 ∧ b.senior = true) ∧ (plink 1 run0).upd.phase = 0 := by decide +kernel
/-- A linked standby; one with a record waiting beyond LAG_MAX_MS; the holder; one that has no role and another mode. -/
theorem witness_Mirror : (let b := inRole .standby (plink 1 run0)
      ord b hd1 = true ∧ b.pair.role = .standby ∧ b.pair.inq = [] ∧ replayRefusal b 0 450 false = 0x27) ∧
    (plink 1 run0).pair.role ≠ .standby ∧ (plink 1 run0).pair.role ≠ .converging ∧ (plink 1 run0).pair.rejoinAt = none ∧
    (plink 1 run0).pair.holding = false ∧ (plink 1 run0).running = true ∧ (zeros 8192).length = 8192 ∧ (zeros 64).length ≠ 8192 ∧
    (let b := modPair (fun p => { p with rejoinAt := some 0 }) (inRole .detached (plink 1 run0))
     ord b hd1 = true ∧ b.pair.rejoinAt = some 0 ∧ b.pair.role = .detached ∧ b.running = true ∧ 0 ≤ widen b.now (leAt (zeros 64) 0 10)) ∧
    (let b := inRole .standby (plink 1 (running1 [bale9]))
     ord b hd1 = true ∧ b.pair.inq = [] ∧ (b.rate 0).bale 450 = some bale9 ∧ bale9.closed = false) ∧
    (let b := modPair (fun p => { p with inq := [(1, .mirror [])] }) (inRole .converging (plink 1 run0))
     ord b hd1 = true ∧ b.pair.inq = [(1, .mirror [])] ∧ b.mark - b.mark ≤ leaseP b ∧ leaseP b < b.mark + leaseP b + 1 - b.mark ∧
       leaseP b + 1 ≤ b.f (pg 0x60 0x044) 26 16 * 1000000 * 65536 ∧ quiet b.pair.lagOverAt b = true) ∧
    0x19000 ≤ (0x19FFC : BitVec 32).toNat ∧ (0x19FFC : BitVec 32).toNat + 4 * 1 ≤ 0x1A000 ∧ 0x400000 ≤ (0x401000 : BitVec 32).toNat ∧
    (let b := modPair (fun p => { p with inq := [(1, .mirror [])] }) (inRole .standby (plink 1 run0))
     ord b hd1 = true ∧ b.f (pg 0x60 0x044) 26 16 * 1000000 * 65536 < 100 * gtSec - b.mark) ∧
    (let b := modPair (fun p => { p with holding := true }) (plink 1 run0)
     ord b hd1 = true ∧ b.pair.holding = true ∧ b.pair.role ≠ .standby) ∧
    0x100000 ≤ (0x100000 : BitVec 32).toNat ∧ (0x100000 : BitVec 32).toNat + 4 * 3 ≤ 0x200000 ∧ (plink 1 run0).up = true ∧
    (let b := modPair (fun p => { p with partner := some ⟨5, 3, true, 50, false, [], []⟩ }) (plink 1 run0)
     ord b hd1 = true ∧ b.pair.holding = false ∧ (∃ h, b.pair.partner = some h ∧ h.govern = true) ∧ b.mode.govern ≠ true) := by
  and_intros <;> decide +kernel
/-- A standby's bale that may be replayed. -/
theorem witness_MirrorReplay :
    (let b := inRole .standby (plink 1 { running1 [{ bale9 with closed := true }] with glean := { run0.glean with recs := [rec9] } })
     ord b hd1 = true ∧ b.pair.inq = [] ∧ replayRefusal b 0 450 false = 0) := by decide +kernel
theorem witness_Rejoins : run0.pair.rejoinAt = none ∧ (let b := modPair (fun p => { p with rejoinAt := some 5 }) (inRole .detached (plink 1 run0))
      b.pair.rejoinAt = some 5 ∧ b.pair.role = .detached ∧ b.pair.linkUp = true ∧ b.running = true ∧ 5 ≤ b.now) ∧ run0.now < 11 * gtSec := by
  decide +kernel
def arb1 (a c rs : Nat) : ArbSt := { rate := 0, idx := 450, a := a, s := c, rs := some rs }
/-- A standby, in step and converging, with its digest of bale 450 of rate 0 and of commit 7 of task 7; arbitrations; the holder. -/
theorem witness_Digests : comparesBales (plink 1 run0) 5 = false ∧
    (let b := modPair (fun p => { p with ownBale := [(0, 450, 9)], ownCommit := [(7, 7, 5, 9)] }) (inRole .standby (plink 1 run0))
     ord b hd1 = true ∧ comparesBales b (idxTime b 0 450) = true ∧ b.pair.ownBale = [(0, 450, (9 : DWord).toNat)] ∧
       (9 : Nat) ≠ (8 : DWord).toNat ∧ orderedOn b = [] ∧ orderedOn (relOf [] b) ≠ [] ∧ b.upd.noCompare = none ∧
       b.pair.ownCommit = [(7, (7 : BitVec 32).toNat, 5, 9)]) ∧
    (let b := inRole .converging (plink 1 run0)
     ord b hd1 = true ∧ b.pair.ownCommit = [] ∧ b.pair.theirCommit.length < 4096 ∧ b.pair.theirBale.length < 4096 ∧
       b.pair.matches_ + 1 < (regs [(pg 0x60 0x044, 2)] b).f (pg 0x60 0x044) 7 0 ∧
       (regs [(pg 0x60 0x044, 1)] b).f (pg 0x60 0x044) 7 0 ≤ b.pair.matches_ + 1) ∧
    (let b := modPair (fun p => { p with theirCommit := List.replicate 4096 (0, 0, 0, 0) }) (inRole .standby (plink 1 run0))
     ord b hd1 = true ∧ b.pair.ownCommit = [] ∧ b.pair.ownBale = [] ∧ b.digestsFull = true ∧ comparesBales b 5 = true) ∧
    (inRole .standby (plink 1 run0)).digestsFull = false ∧
    (let b := { inRole .standby (plink 1 run0) with upd := { run0.upd with noCompare := some 5 } }
     ord b hd1 = true ∧ b.upd.noCompare = some 5 ∧ comparesBales b 5 = false ∧ comparesBales b 4 = true) ∧
    (let b := modPair (fun p => { p with holding := true, formed := true }) (plink 1 run0)
     ord b hd1 = true ∧ b.pair.holding = true ∧ replayRefusal b 0 450 false = 0x27 ∧ snd b = true ∧ plLen (.arb 0 4 450 0) ≤ 4194304) ∧
    (let b := modPair (fun p => { p with holding := true }) (plink 1 (running1 [bale9]))
     ord b hd1 = true ∧ b.pair.holding = true ∧ (b.rate 0).bale 450 = some bale9 ∧ bale9.closed = false) ∧
    (plink 1 run0).pair.holding = false ∧ (plink 1 run0).pair.role ≠ .standby ∧
    4096 ≤ (List.replicate 4096 ((0, 0, 0) : Nat × Nat × Nat)).length ∧ 4096 ≤ (List.replicate 4096 ((0, 0, 0, 0) : Nat × Nat × Nat × Nat)).length ∧
    (let b := modPair (fun p => { p with holding := true })
      (plink 1 { running1 [{ bale9 with closed := true }] with glean := { run0.glean with recs := [rec9] } })
     ord b hd1 = true ∧ b.pair.holding = true ∧ replayRefusal b 0 450 false = 0) ∧
    (∀ x ∈ [arb1 5 6 5, arb1 5 6 6, arb1 5 6 7], let b := modPair (fun p => { p with arbs := [x] }) (inRole .standby (plink 1 run0))
      ord b hd1 = true ∧ b.pair.holding = false ∧ b.pair.arbs = [x] ∧ x.rate = 0 ∧ x.idx = 450 ∧ x.refused = false ∧ x.rs.isSome = true) := by
  decide +kernel
/-- HOLD and CLAIM pulses and those of neither width; the holder's renewal; a lease live and out. -/
def holder (b : Block) : Block := modPair (fun p => { p with holding := true, role := .active }) b
def leaseIs (l : LeaseSt) (b : Block) : Block := modPair (fun p => { p with lease := l }) b
theorem witness_LeaseLine : run0.member = false ∧ (plink 1 run0).member = true ∧ (plink 1 run0).aon = true ∧
    leaseMs (plink 1 run0) * 1000000 * 65536 = 50 * 1000000 * 65536 ∧ (holder (plink 1 run0)).pair.holding = true ∧
    (holder (plink 1 run0)).pair.lease.holdFrom = none ∧ (plink 1 run0).pair.lease.claimAt = none ∧
    (let b := leaseIs { claimAt := some 5 } (plink 1 run0)
     b.pair.holding = false ∧ b.pair.lease.claimAt = some 5) ∧
    (let b := leaseIs { pulseAt := some (run0.mono - 12500 * 1000 * 65536) } (holder (plink 1 { run0 with time := { run0.time with valid := true } }))
     b.pair.holding = true ∧ claimReady b = true ∧ run0.mono - 12500 * 1000 * 65536 + 50 * 1000000 * 65536 / 4 = b.mono ∧
       claimReady (holder (plink 1 run0)) = false) ∧
    (plink 1 run0).pair.lease.startAt + 50 * 1000000 * 65536 + 2 * 1000000 * 65536 ≤ run0.mono ∧
    run0.mono < (leaseIs { holdAt := some run0.mono } (plink 1 run0)).pair.lease.holdAt.getD 0 + 52 * 1000000 * 65536 ∧
    partnerHolds (modPair (fun p => { p with beat := some (beatOf true false false) }) (plink 1 run0)) = true ∧
    partnerHolds (plink 1 run0) = false ∧ (plink 1 run0).pair.lease.expired = false ∧ (plink 1 run0).pair.lease.lost = false ∧
    max ((plink 1 run0).pair.lease.holdAt.getD (plink 1 run0).pair.lease.startAt) ((plink 1 run0).pair.lease.ownAt.getD 0) +
      50 * 1000000 * 65536 + 2 * 1000000 * 65536 ≤ run0.mono ∧
    (let l : LeaseSt := { expired := true, lost := true }
     (leaseIs l (plink 1 run0)).pair.lease.expired = true ∧ (leaseIs l (plink 1 run0)).pair.lease.lost = true) ∧
    run0.mono < max ((leaseIs { ownAt := some run0.mono } (plink 1 run0)).pair.lease.holdAt.getD 0)
      ((leaseIs { ownAt := some run0.mono } (plink 1 run0)).pair.lease.ownAt.getD 0) + 52 * 1000000 * 65536 ∧
    (let b := modPair (fun p => { p with acting := true, formed := true }) (plink 1 run0)
     b.pair.holding = false ∧ b.pair.acting = true ∧ b.pair.linkUp = true ∧ b.pair.formed = true) := by decide +kernel
def twoHolders (straps : Word) : Block := leaseIs { holdFrom := some 0, holdAt := some run0.mono } (holder (plink straps run0))
/-- Two holders, which of them yields; a part that is not up; one that is, in each role. -/
theorem witness_HoldPulses :
    (twoHolders 1).pair.holding = true ∧ (twoHolders 1).pair.lease.holdFrom = some 0 ∧ leaseP (twoHolders 1) ≤ (twoHolders 1).mono ∧
    (twoHolders 1).pair.lease.holdAt = some run0.mono ∧ (twoHolders 1).mono ≤ run0.mono + leaseP (twoHolders 1) ∧
    bothYield (twoHolders 1) = true ∧ (twoHolders 3).pair.holding = true ∧ bothYield (twoHolders 3) = false ∧
    (let b := { plink 1 run0 with dev := { run0.dev with st := .keep } }
     b.member = true ∧ b.aon = true ∧ b.up = false ∧ b.pair.holding = false) ∧
    (plink 1 run0).up = true ∧ (plink 1 run0).pair.acting = false ∧ (plink 1 run0).pair.role = .noRole ∧ (inRole .standby (plink 1 run0)).pair.role ≠ .noRole ∧
    (let b := modPair (fun p => { p with acting := true, linkUp := false }) (plink 1 run0)
     b.pair.holding = false ∧ b.up = true ∧ b.pair.acting = true ∧ b.pair.linkUp = false) := by decide +kernel
/-- What claims asks, as a test. -/
def clm (b : Block) : Bool := b.member && !b.pair.holding && claimReady b && !partnerHolds b && !b.witness
theorem clm_claims {b : Block} (h : clm b = true) : claims b := by simpa [clm, claims, and_assoc] using h
/-- A member ready to claim: senior, or junior; with a witness. -/
def claimer (straps : Word) (l : LeaseSt) : Block := leaseIs l (plink straps { run0 with time := { run0.time with valid := true } })
theorem witness_Claiming : clm (claimer 3 {}) = true ∧ clm run0 = false ∧ (claimer 3 {}).senior = true ∧ (claimer 1 {}).senior = false ∧
    claimFrom (claimer 3 {}) ≤ run0.mono ∧ claimFrom (claimer 1 {}) ≤ run0.mono ∧
    run0.mono + 2 * 1000000 * 65536 < claimFrom (claimer 3 { holdAt := some run0.mono }) ∧
    (let l : LeaseSt := { claimAt := some (run0.mono - 2 * 1000000 * 65536) }
     let b := claimer 3 l
     clm b = true ∧ b.pair.lease.claimAt = some (run0.mono - 2 * 1000000 * 65536) ∧ leaseOut b = true ∧ b.pair.inq = [] ∧ b.pair.arbs = [] ∧
       (run0.mono - 2 * 1000000 * 65536) + 2 * 1000000 * 65536 ≤ b.mono) ∧
    leaseOut (claimer 3 { holdAt := some run0.mono }) = false ∧
    (claimer 3 { backoff := some 5 }).pair.lease.backoff = some 5 ∧ 5 ≤ run0.mono ∧
    (claimer 1 {}).member = true ∧ (claimer 1 {}).pair.lease.seen = false ∧
    (claimer 7 {}).witness = true ∧ (claimer 7 {}).aon = true ∧ claimReady (claimer 7 {}) = true ∧ (holder (claimer 7 {})).pair.holding = true ∧
    (let b := { claimer 7 { witAt := some 5 } with balls := { run0.balls with witN := false } }
     b.witness = true ∧ b.balls.witN = false ∧ claimReady b = true ∧ b.pair.holding = false ∧ 5 + 2 * 1000000 * 65536 ≤ b.mono ∧
       b.pair.inq = [] ∧ b.pair.arbs = [] ∧ b.pair.lease.witAt = some 5) ∧
    (let b := claimer 3 { released := true, relAt := 5 }
     clm b = true ∧ leaseOut b = true ∧ claimFrom b = 5) ∧
    (let l : LeaseSt := { holdAt := some (run0.mono - 50 * 1000000 * 65536) }
     clm (claimer 3 l) = true ∧ claimFrom (claimer 3 l) = run0.mono + 2 * 1000000 * 65536 ∧ leaseOut (claimer 3 l) = false) ∧
    (ownStraps (holder (claimer 7 {}))).getLsbD 2 = true ∧ (claimer 7 {}).pair.partner = none ∧ (ownStraps (claimer 3 {})).getLsbD 2 = false ∧
    (claimer 7 { witAt := some run0.mono }).pair.lease.witAt = some run0.mono ∧
    ({ claimer 7 { witAt := some 5 } with balls := { run0.balls with witN := true } } : Block).balls.witN = true := by decide +kernel
theorem witness_Requests : acc run0 .host 0x60 0x080 ∧ run0.pair.holding = false ∧ (2 : Word).getLsbD 0 = false ∧ (1 : Word).getLsbD 1 = false ∧
    (4 : Word).getLsbD 2 = true ∧ (3 : Word).getLsbD 0 = true ∧ (3 : Word).getLsbD 1 = true ∧ (holder (plink 1 run0)).pair.holding = true ∧ acc (holder (plink 1 run0)) .host 0x60 0x080 ∧
    (∃ h, (modPair (fun p => { p with beat := some (beatOf false true true) }) (plink 1 run0)).pair.beat = some h ∧ h.inStep = true ∧ h.ready = true) ∧
    (plink 1 run0).pair.beat = none ∧ run0.pair.role ≠ .detached ∧
    (let b := modPair (fun p => { p with formed := true }) (inRole .detached (plink 1 run0))
     acc b .host 0x60 0x080 ∧ b.pair.role = .detached ∧ b.pair.linkUp = true ∧ b.pair.formed = true ∧ snd b = true ∧ rtxFill b + 112 ≤ 4194304) ∧
    (inRole .detached (plink 1 run0)).pair.formed = false := by
  and_intros <;> decide +kernel
/-- R501: both lanes off with the pair enabled, and without. -/
theorem witness_PairLinkKeepsALane : accL run0 .host 0x09 0x040 ∧ accL (regs [(pg 0x60 0x040, 1)] run0) .host 0x09 0x040 ∧
    (regs [(pg 0x60 0x040, 1)] run0).t (pg 0x60 0x040) 0 = true ∧ (regs [(pg 0x60 0x040, 1)] run0).reach .host 0x09 = true ∧
    (regs [(pg 0x60 0x040, 0)] run0).t (pg 0x60 0x040) 0 = false ∧ (0 : DWord).getLsbD 0 = false ∧ (2 : DWord).getLsbD 1 = true := by decide +kernel

end Sys2Proof.Tests
end

/-! PROOF. The counters of a port (R178), and a valid PAUSE frame while PAUSE_RX_EN is 0 (R157). -/

namespace Sys2Proof.Claim
open Sys2Proof Sys2Proof.Machine

/-! 64-bit counters. -/

/-- A pair of words reads as the number written to it, modulo 2^64. -/
theorem w32_pair_toNat (v : Nat) : (w32 v).toNat + (w32 (v / 2 ^ 32)).toNat * 2 ^ 32 = v % 2 ^ 64 := by
  simp only [w32, BitVec.toNat_ofNat]
  omega

/-- A write of a pair changes the register map alone. -/
theorem withRegs_wn64 (a v : Nat) (b : Block) : { wn64 a v b with regs := b.regs } = b := by
  rw [wn64, wn_eq, wn_eq, wr, wr]

theorem n64_cntBy_same (a n : Nat) (b : Block) : (cntBy a n b).n64 a = (b.n64 a + n) % 2 ^ 64 := by
  rw [cntBy, Block.n64, Block.n, Block.n, r_wn64_lo, r_wn64_hi, w32_pair_toNat]

/-! One counter of a port. -/

@[simp] theorem n64_pcntBy_same (p i n : Nat) (b : Block) :
    (pcntBy p i n b).n64 (portCnt p i) = (b.n64 (portCnt p i) + n) % 2 ^ 64 := n64_cntBy_same ..

/-- Counting in a port's counter leaves every word but the counter's own two. -/
theorem r_pcntBy_ne {p i a : Nat} (n : Nat) (b : Block) (hlo : a ≠ portCnt p i) (hhi : a ≠ portCnt p i + 4) :
    (pcntBy p i n b).r a = b.r a := r_wn64_ne _ _ hlo hhi

/-- Two counters of a port share no word. -/
theorem n64_pcntBy_ne {p i j : Nat} (n : Nat) (b : Block) (h : i ≠ j) :
    (pcntBy p j n b).n64 (portCnt p i) = b.n64 (portCnt p i) := by
  have hlo : (pcntBy p j n b).r (portCnt p i) = b.r (portCnt p i) :=
    r_pcntBy_ne n b (by simp only [portCnt, pg]; omega) (by simp only [portCnt, pg]; omega)
  have hhi : (pcntBy p j n b).r (portCnt p i + 4) = b.r (portCnt p i + 4) :=
    r_pcntBy_ne n b (by simp only [portCnt, pg]; omega) (by simp only [portCnt, pg]; omega)
  simp only [Block.n64, Block.n, hlo, hhi]

/-! Counting alone: what a block keeps when no more than some counters of one port changed. -/

/-- The words of the counters listed. -/
def counterWords (p : Nat) (l : List Nat) : List Nat := l.flatMap fun i => [portCnt p i, portCnt p i + 4]

/-- From b to c no more than the counters listed of port p changed. -/
def onlyCounts (p : Nat) (l : List Nat) (b c : Block) : Prop :=
  regsKeptBut (counterWords p l) b c ∧ { c with regs := b.regs } = b

theorem mem_counterWords {p a : Nat} {l : List Nat} :
    a ∈ counterWords p l ↔ ∃ i ∈ l, a = portCnt p i ∨ a = portCnt p i + 4 := by
  simp [counterWords]

theorem onlyCounts_refl (p : Nat) (l : List Nat) (b : Block) : onlyCounts p l b b := ⟨fun _ _ => rfl, rfl⟩

theorem onlyCounts_trans {p : Nat} {l : List Nat} {b c d : Block} (h : onlyCounts p l b c) (k : onlyCounts p l c d) :
    onlyCounts p l b d := by
  obtain ⟨hregs, hrest⟩ := h
  obtain ⟨kregs, krest⟩ := k
  refine ⟨fun a ha => (kregs a ha).trans (hregs a ha), ?_⟩
  calc { d with regs := b.regs } = { { d with regs := c.regs } with regs := b.regs } := rfl
    _ = { c with regs := b.regs } := by rw [krest]
    _ = b := hrest

theorem onlyCounts_pcntBy {p i : Nat} {l : List Nat} (n : Nat) (b : Block) (h : i ∈ l) : onlyCounts p l b (pcntBy p i n b) :=
  ⟨fun _ ha => r_pcntBy_ne n b (fun e => ha (mem_counterWords.2 ⟨i, h, .inl e⟩)) (fun e => ha (mem_counterWords.2 ⟨i, h, .inr e⟩)),
    withRegs_wn64 ..⟩

/-- The settings of the port lie below its counters. -/
theorem r_of_onlyCounts {p o : Nat} {l : List Nat} {b c : Block} (h : onlyCounts p l b c) (ho : o < 0x200) :
    c.r (pg (4 + p) o) = b.r (pg (4 + p) o) := by
  refine h.1 _ fun ha => ?_
  obtain ⟨i, -, hi⟩ := mem_counterWords.1 ha
  simp only [portCnt, pg] at hi
  omega

theorem t_of_onlyCounts {p o i : Nat} {l : List Nat} {b c : Block} (h : onlyCounts p l b c) (ho : o < 0x200) :
    c.t (pg (4 + p) o) i = b.t (pg (4 + p) o) i := congrArg (bitAt · i) (r_of_onlyCounts h ho)

/-! The FEC blocks of a frame. -/

/-- Its FEC blocks are counted in counters 16 and 17, or nowhere. -/
theorem fecCount_cases (p corr uncorr : Nat) (b : Block) :
    fecCount p corr uncorr b = pcntBy p 17 uncorr (pcntBy p 16 corr b) ∨ fecCount p corr uncorr b = b := by
  unfold fecCount
  dsimp only
  split
  · exact .inl rfl
  · exact .inr rfl

theorem onlyCounts_fecCount {p : Nat} {l : List Nat} (corr uncorr : Nat) (b : Block) (h16 : 16 ∈ l) (h17 : 17 ∈ l) :
    onlyCounts p l b (fecCount p corr uncorr b) := by
  rcases fecCount_cases p corr uncorr b with h | h <;> rw [h]
  · exact onlyCounts_trans (onlyCounts_pcntBy _ _ h16) (onlyCounts_pcntBy _ _ h17)
  · exact onlyCounts_refl ..

theorem n64_fecCount_ne {p i : Nat} (corr uncorr : Nat) (b : Block) (h : i < 16) :
    (fecCount p corr uncorr b).n64 (portCnt p i) = b.n64 (portCnt p i) := by
  rcases fecCount_cases p corr uncorr b with e | e <;> rw [e]
  rw [n64_pcntBy_ne _ _ (by omega), n64_pcntBy_ne _ _ (by omega)]

/-! A valid PAUSE frame (R155, R157). -/

/-- The counter of a frame's kind of destination: broadcast, multicast or unicast. -/
def destKind (l : List Byte) : Nat := if beAt l 0 6 = 0xFFFFFFFFFFFF then 4 else if beAt l 0 1 % 2 = 1 then 3 else 2

theorem destKind_bounds (l : List Byte) : 2 ≤ destKind l ∧ destKind l ≤ 4 := by
  unfold destKind
  split
  · omega
  · split <;> omega

/-- A frame that passes: its count, its bytes and its kind. -/
def passCount (p : Nat) (l : List Byte) (b : Block) : Block :=
  pcntBy p (destKind l) 1 (pcntBy p 1 l.length (pcntBy p 0 1 b))

/-- What makes a frame a valid PAUSE frame stands in settings, which counting leaves. -/
theorem isPause_of_onlyCounts {p : Nat} {l : List Nat} {b c : Block} (h : onlyCounts p l b c) (f : List Byte) :
    isPause c p f ↔ isPause b p f := by
  have hctl : c.r (pg (4 + p) 0x040) = b.r (pg (4 + p) 0x040) := r_of_onlyCounts h (by omega)
  have hhi : c.r (pg (4 + p) 0x04C) = b.r (pg (4 + p) 0x04C) := r_of_onlyCounts h (by omega)
  have hlo : c.r (pg (4 + p) 0x048) = b.r (pg (4 + p) 0x048) := r_of_onlyCounts h (by omega)
  simp only [isPause, maxLen, macOf, Block.n, hctl, hhi, hlo]

/-- A good frame of a length in range passes the checks of length and FCS; a MAC control frame then goes to its own judgement. -/
theorem frameIn_macControl {p ago : Nat} {l : List Byte} {b : Block} (hfcs : fcsGood l false) (hmin : 64 ≤ l.length)
    (hmax : l.length ≤ maxLen b p) (htype : beAt l 12 2 = 0x8808) :
    frameIn p l false ago b = macControl p l (passCount p l b) := by
  obtain ⟨-, hlen, hcrc⟩ := hfcs
  have hgood : (!false && decide (4 ≤ l.length) && crc32 (l.take (l.length - 4)) == leAt l (l.length - 4) 4) = true := by
    simp [hlen, hcrc]
  simp only [frameIn, onlyIf, hgood, htype, Nat.not_lt.2 hmin, Nat.not_lt.2 hmax, Bool.not_true, Bool.false_eq_true, if_false,
    if_true]
  rfl

/-- A valid PAUSE frame while PAUSE_RX_EN is 0. -/
theorem macControl_disabled {p : Nat} {l : List Byte} {b : Block} (h : isPause b p l)
    (hen : b.t (pg (4 + p) 0x040) 4 = false) : macControl p l b = pcntBy p 13 1 b := by
  obtain ⟨-, -, -, hop, hdest⟩ := h
  have hown : (slice l 0 6 == macOf b p || beAt l 0 6 == 0x0180C2000001) = true := by
    rcases hdest with hd | hd <;> simp [hd]
  simp only [macControl, hop, hown, hen, decide_true, Bool.and_self, if_true]
  rfl

/-- A frame that passes changes the counts of passing frames alone. -/
theorem onlyCounts_passCount {p : Nat} {is : List Nat} (l : List Byte) (b : Block) (h0 : 0 ∈ is) (h1 : 1 ∈ is)
    (hkind : destKind l ∈ is) : onlyCounts p is b (passCount p l b) :=
  onlyCounts_trans (onlyCounts_trans (onlyCounts_pcntBy _ _ h0) (onlyCounts_pcntBy _ _ h1)) (onlyCounts_pcntBy _ _ hkind)

theorem n64_passCount_frames (p : Nat) (l : List Byte) (b : Block) :
    (passCount p l b).n64 (portCnt p 0) = (b.n64 (portCnt p 0) + 1) % 2 ^ 64 := by
  have := destKind_bounds l
  rw [passCount, n64_pcntBy_ne _ _ (by omega), n64_pcntBy_ne _ _ (by omega), n64_pcntBy_same]

theorem n64_passCount_bytes (p : Nat) (l : List Byte) (b : Block) :
    (passCount p l b).n64 (portCnt p 1) = (b.n64 (portCnt p 1) + l.length) % 2 ^ 64 := by
  have := destKind_bounds l
  rw [passCount, n64_pcntBy_ne _ _ (by omega), n64_pcntBy_same, n64_pcntBy_ne _ _ (by omega)]

theorem n64_passCount_kind (p : Nat) (l : List Byte) (b : Block) :
    (passCount p l b).n64 (portCnt p (destKind l)) = (b.n64 (portCnt p (destKind l)) + 1) % 2 ^ 64 := by
  have := destKind_bounds l
  rw [passCount, n64_pcntBy_same, n64_pcntBy_ne _ _ (by omega), n64_pcntBy_ne _ _ (by omega)]

theorem n64_passCount_ne {p i : Nat} (l : List Byte) (b : Block) (h : 4 < i) :
    (passCount p l b).n64 (portCnt p i) = b.n64 (portCnt p i) := by
  have := destKind_bounds l
  rw [passCount, n64_pcntBy_ne _ _ (by omega), n64_pcntBy_ne _ _ (by omega), n64_pcntBy_ne _ _ (by omega)]

/-- What a valid PAUSE frame does to a part whose PAUSE_RX_EN is 0. -/
def pauseCount (p : Nat) (l : List Byte) (b : Block) : Block := pcntBy p 13 1 (passCount p l b)

theorem frameIn_pause_disabled {p ago : Nat} {l : List Byte} {b : Block} (hfcs : fcsGood l false) (hpause : isPause b p l)
    (hen : b.t (pg (4 + p) 0x040) 4 = false) : frameIn p l false ago b = pauseCount p l b := by
  have hpass : onlyCounts p [0, 1, destKind l] b (passCount p l b) := onlyCounts_passCount l b (by simp) (by simp) (by simp)
  have ⟨hmin, hmax, htype, _, _⟩ := hpause
  rw [frameIn_macControl hfcs hmin hmax htype, macControl_disabled ((isPause_of_onlyCounts hpass l).2 hpause)
    (by rw [t_of_onlyCounts hpass (by omega), hen]), pauseCount]

/-- A frame on a port whose link is up: its FEC blocks, then the frame (R152). -/
theorem exec_frameReceive_linkUp {s : State} {port : Fin 4} (l : List Byte) (eb : Bool) (ago corr uncorr : Nat)
    (hup : s.blk.up = true) (hlink : (s.blk.port port.val).link = true) :
    exec (.frameReceive port l eb ago corr uncorr) s =
      .next (put s (frameIn port.val l eb ago (fecCount port.val corr uncorr s.blk))) := by
  change execFrameReceive port l eb ago corr uncorr s = _
  simp only [execFrameReceive, State.run, put, hup, hlink, Bool.and_self, if_true]

/-- Settles O43: the frame passes the checks, so that what it does is a run of counts in counters of its port, of which each leaves
the settings and the other counters. -/
theorem pauseWithoutPauseRxEnOnlyCounts : Obligations.PauseWithoutPauseRxEnOnlyCounts := by
  unfold Obligations.PauseWithoutPauseRxEnOnlyCounts
  intro s port l ago corr uncorr p kind hup hlink hen hfcs hpause
  have hkind : kind = destKind l := rfl
  clear_value kind
  subst hkind
  have hbounds := destKind_bounds l
  have hfec : onlyCounts p [13, 0, destKind l, 1, 16, 17] s.blk (fecCount p corr uncorr s.blk) :=
    onlyCounts_fecCount corr uncorr s.blk (by simp) (by simp)
  have hfecN {i : Nat} (hi : i < 16) := n64_fecCount_ne (p := p) corr uncorr s.blk hi
  have hframe : frameIn p l false ago (fecCount p corr uncorr s.blk) = pauseCount p l (fecCount p corr uncorr s.blk) :=
    frameIn_pause_disabled hfcs ((isPause_of_onlyCounts hfec l).2 hpause) (by rw [t_of_onlyCounts hfec (by omega), hen])
  have honly : onlyCounts p [13, 0, destKind l, 1, 16, 17] s.blk (pauseCount p l (fecCount p corr uncorr s.blk)) :=
    onlyCounts_trans (onlyCounts_trans hfec (onlyCounts_passCount l _ (by simp) (by simp) (by simp)))
      (onlyCounts_pcntBy _ _ (by simp))
  refine ⟨pauseCount p l (fecCount p corr uncorr s.blk), ?_, ?_, ?_, ?_, ?_, honly⟩
  · rw [exec_frameReceive_linkUp l false ago corr uncorr hup hlink, hframe]
  · rw [counted, pauseCount, n64_pcntBy_same, n64_passCount_ne _ _ (by omega), hfecN (by omega)]
  · rw [counted, pauseCount, n64_pcntBy_ne _ _ (by omega), n64_passCount_frames, hfecN (by omega)]
  · rw [counted, pauseCount, n64_pcntBy_ne _ _ (by omega), n64_passCount_kind, hfecN (by omega)]
  · rw [pauseCount, n64_pcntBy_ne _ _ (by omega), n64_passCount_bytes, hfecN (by omega)]

end Sys2Proof.Claim

/-! PROOF. The entries of a silo (R190–R192), its status word (R204), and a push to it (R191). -/

namespace Sys2Proof.Claim
open Sys2Proof Sys2Proof.Machine

/-! What a silo holds depends on the silos alone. -/

theorem silo_congr {b c : Block} (h : c.silos = b.silos) (q : Nat) : c.silo q = b.silo q := by
  rw [Block.silo, Block.silo, h]

@[simp] theorem silo_modSilo_same {q : Nat} (f : Silo → Silo) (b : Block) (hq : q < 64) :
    (modSilo q f b).silo q = f (b.silo q) := by
  simp [modSilo, Block.silo, hq]

@[simp] theorem silo_cnt32 (a q : Nat) (b : Block) : (cnt32 a b).silo q = b.silo q := silo_congr rfl q
@[simp] theorem silo_wbit (a i q : Nat) (p : Bool) (b : Block) : (wbit a i p b).silo q = b.silo q := silo_congr rfl q
@[simp] theorem silo_irq (p i q : Nat) (b : Block) : (irq p i b).silo q = b.silo q := silo_congr (irq_silos ..) q
@[simp] theorem silo_sbAlert (i q : Nat) (b : Block) : (sbAlert i b).silo q = b.silo q := silo_congr rfl q
@[simp] theorem silo_thrRaise (src : Nat) (t : Gt) (bale q : Nat) (b : Block) : (thrRaise src t bale b).silo q = b.silo q :=
  silo_congr rfl q

@[simp] theorem silo_siloPeak (p q : Nat) (b : Block) : (siloPeak p b).silo q = b.silo q := by
  unfold siloPeak wmax
  split <;> rfl

/-- A part of an operation that leaves a silo leaves it too where it is not carried out. -/
theorem silo_onlyIf {f : Block → Block} {b : Block} {q : Nat} (p : Bool) (h : (f b).silo q = b.silo q) :
    (onlyIf p f b).silo q = b.silo q := by
  cases p
  · rfl
  · exact h

/-! The entries of an item. -/

@[simp] theorem length_padTo (n : Nat) (l : List Byte) : (padTo n l).length = n := by
  simp only [padTo, slice, List.length_append, List.length_replicate, List.length_take]
  omega

@[simp] theorem length_entriesOf (n : Nat) (l : List Byte) : (entriesOf n l).length = n := by
  induction n generalizing l with
  | zero => rfl
  | succ n ih => rw [entriesOf, List.length_cons, ih]

theorem length_of_mem_entriesOf {n : Nat} {l e : List Byte} (h : e ∈ entriesOf n l) : e.length = 64 := by
  induction n generalizing l with
  | zero => cases h
  | succ n ih =>
    rcases List.mem_cons.1 h with rfl | h
    · exact length_padTo ..
    · exact ih h

theorem padTo_of_le {n : Nat} {l : List Byte} (h : n ≤ l.length) : padTo n l = l.take n := by
  simp [padTo, slice, h]

theorem padTo_of_ge {n : Nat} {l : List Byte} (h : l.length ≤ n) : padTo n l = l ++ zeros (n - l.length) := by
  simp [padTo, slice, zeros, h, List.take_of_length_le]

/-- Entries enough for an item hold its bytes, then zeros. -/
theorem flatten_entriesOf {n : Nat} {l : List Byte} (h : l.length ≤ 64 * n) :
    (entriesOf n l).flatten = l ++ zeros (64 * n - l.length) := by
  induction n generalizing l with
  | zero =>
    obtain rfl : l = [] := List.length_eq_zero_iff.1 (by omega)
    rfl
  | succ n ih =>
    rw [entriesOf, List.flatten_cons, ih (by rw [List.length_drop]; omega), List.length_drop]
    rcases Nat.le_total 64 l.length with hl | hl
    · rw [padTo_of_le hl, ← List.append_assoc, List.take_append_drop]
      congr 2
      omega
    · rw [padTo_of_ge hl, List.drop_eq_nil_of_le hl, List.nil_append, List.append_assoc, zeros, zeros, List.replicate_append_replicate]
      congr 2
      omega

/-- The entries an item of that length needs hold it, with less than one entry to spare. -/
theorem ceilDiv_bounds (n : Nat) : n ≤ 64 * ceilDiv n 64 ∧ 64 * ceilDiv n 64 - n < 64 := by
  unfold ceilDiv
  omega

/-- What a push of an item that fits puts into the silo: its entries, none of them a marker (R191). -/
def itemEntries (item : List Byte) : List (Bool × List Byte) :=
  (entriesOf (ceilDiv item.length 64) item).map fun e => (false, e)

@[simp] theorem length_itemEntries (item : List Byte) : (itemEntries item).length = ceilDiv item.length 64 := by
  rw [itemEntries, List.length_map, length_entriesOf]

theorem of_mem_itemEntries {item : List Byte} {e : Bool × List Byte} (h : e ∈ itemEntries item) :
    e.1 = false ∧ e.2.length = 64 := by
  obtain ⟨l, hl, rfl⟩ := List.mem_map.1 h
  exact ⟨rfl, length_of_mem_entriesOf hl⟩

theorem flatten_itemEntries (item : List Byte) :
    ((itemEntries item).map fun e => e.2).flatten = item ++ zeros (64 * ceilDiv item.length 64 - item.length) := by
  have hbytes : ((itemEntries item).map fun e => e.2) = entriesOf (ceilDiv item.length 64) item := by
    simp [itemEntries, Function.comp_def]
  rw [hbytes, flatten_entriesOf (ceilDiv_bounds _).1]

theorem filter_itemEntries (item : List Byte) : ((itemEntries item).filter fun e => !e.1) = itemEntries item :=
  List.filter_eq_self.2 fun e he => by simp [of_mem_itemEntries he]

/-! SQ_STS (R191, R204). -/

theorem b01_le (p : Bool) : b01 p ≤ 1 := by cases p <;> decide

theorem b01_eq_one (p : Bool) : b01 p = 1 ↔ p = true := by cases p <;> decide

/-- Where FULL and EMPTY stand in SQ_STS. -/
theorem sqSts_flags (b : Block) (q : Nat) :
    sqSts b q / 2 ^ 30 % 2 = b01 (b.siloOn q && (b.silo q).items == b.siloDepth q - 1) ∧
    sqSts b q / 2 ^ 31 % 2 = b01 (b.silo q).q.isEmpty := by
  have hempty := b01_le (b.silo q).q.isEmpty
  have hfull := b01_le (b.siloOn q && (b.silo q).items == b.siloDepth q - 1)
  have hmarker := b01_le (b.silo q).marker
  have hnewest := b01_le (b.silo q).newestMarker
  rw [sqSts]
  omega

theorem testBit_sqSts_full (b : Block) (q : Nat) :
    (sqSts b q).testBit 30 = true ↔ b.siloOn q = true ∧ (b.silo q).items = b.siloDepth q - 1 := by
  rw [Nat.testBit_eq_decide_div_mod_eq, decide_eq_true_eq, (sqSts_flags b q).1, b01_eq_one, Bool.and_eq_true, beq_iff_eq]

theorem testBit_sqSts_empty (b : Block) (q : Nat) : (sqSts b q).testBit 31 = true ↔ (b.silo q).q = [] := by
  rw [Nat.testBit_eq_decide_div_mod_eq, decide_eq_true_eq, (sqSts_flags b q).2, b01_eq_one, List.isEmpty_iff]

/-! A push that succeeds, and one that does not. -/

theorem siloFits_iff {b : Block} {q n : Nat} (hon : b.siloOn q = true) :
    b.siloFits q n = true ↔ (b.silo q).items + n ≤ b.siloDepth q - 1 := by
  simp [Block.siloFits, hon]

@[simp] theorem silo_siloPush (q : Nat) (item : List Byte) (b : Block) :
    (siloPush q item b).silo q = (siloPut q item b).silo q := silo_onlyIf _ (silo_thrRaise ..)

theorem queue_siloPut_fits {q : Nat} {item : List Byte} {b : Block} (hq : q < 64)
    (hfits : b.siloFits q (ceilDiv item.length 64) = true) :
    ((siloPut q item b).silo q).q = (b.silo q).q ++ itemEntries item := by
  simp only [siloPut, hfits, if_true]
  split <;> simp [hq, itemEntries]

theorem silo_siloPut_dropped {q : Nat} {item : List Byte} {b : Block}
    (hfits : b.siloFits q (ceilDiv item.length 64) = false) : (siloPut q item b).silo q = (siloDrop q b).silo q := by
  simp [siloPut, hfits]

/-- The entries after a drop (R187, R192): as they were, or the newest marker brought up to date, or a new marker behind them. -/
theorem queue_siloDrop_cases {q : Nat} (b : Block) (hq : q < 64) :
    ((siloDrop q b).silo q).q = (b.silo q).q ∨
    ((siloDrop q b).silo q).q = modLast (chaffMore b.now) (b.silo q).q ∨
    ((siloDrop q b).silo q).q = (b.silo q).q ++ [(true, chaff 1 b.now b.now)] := by
  unfold siloDrop
  dsimp only
  split
  · simp
  · split
    · simp [hq]
    · split
      · refine .inr (.inr ?_)
        rw [silo_onlyIf _ (silo_sbAlert ..)]
        simp [hq]
      · simp [hq]

/-- A change of the newest entry keeps which entries are items' and which are markers. -/
theorem map_fst_modLast (f : List Byte → List Byte) (l : List (Bool × List Byte)) :
    (modLast f l).map Prod.fst = l.map Prod.fst := by
  induction l using modLast.induct with
  | case1 => rfl
  | case2 e => rfl
  | case3 e l hl ih =>
    rw [modLast]
    · rw [List.map_cons, ih, List.map_cons]
    · exact hl

theorem length_modLast (f : List Byte → List Byte) (l : List (Bool × List Byte)) : (modLast f l).length = l.length := by
  simpa using congrArg List.length (map_fst_modLast f l)

theorem items_modLast (f : List Byte → List Byte) (l : List (Bool × List Byte)) :
    ((modLast f l).filter fun e => !e.1).length = (l.filter fun e => !e.1).length := by
  simpa [List.filter_map, Function.comp_def] using congrArg (fun m => (m.filter (!·)).length) (map_fst_modLast f l)

/-- A drop adds no item's entry, and one marker at most (R192). -/
theorem siloDrop_adds_no_item {q : Nat} (b : Block) (hq : q < 64) :
    ((siloDrop q b).silo q).items = (b.silo q).items ∧ ((siloDrop q b).silo q).q.length ≤ (b.silo q).q.length + 1 := by
  unfold Silo.items
  rcases queue_siloDrop_cases b hq with h | h | h <;> rw [h]
  · exact ⟨rfl, Nat.le_succ _⟩
  · exact ⟨items_modLast .., Nat.le_trans (Nat.le_of_eq (length_modLast ..)) (Nat.le_succ _)⟩
  · exact ⟨by simp, by simp⟩

/-- A push that succeeds puts as many items' entries into the silo as the item has. -/
theorem items_siloPut_fits {q : Nat} {item : List Byte} {b : Block} (hq : q < 64)
    (hfits : b.siloFits q (ceilDiv item.length 64) = true) :
    ((siloPut q item b).silo q).items = (b.silo q).items + ceilDiv item.length 64 := by
  rw [Silo.items, queue_siloPut_fits hq hfits, List.filter_append, List.length_append, filter_itemEntries, length_itemEntries,
    Silo.items]

/-! The command (R191). -/

theorem exec_siloPush_idle {s : State} {q : Fin 64} (item : List Byte)
    (h : s.blk.up = false ∨ s.blk.inReset (siloPage q.val) = true) : exec (.siloPush q item) s = .next s := by
  change execSiloPush q item s = _
  rcases h with h | h <;> simp [execSiloPush, State.run, h]

theorem exec_siloPush_working {s : State} {q : Fin 64} (item : List Byte) (hup : s.blk.up = true)
    (hreset : s.blk.inReset (siloPage q.val) = false) :
    exec (.siloPush q item) s = .next (put s (siloPush q.val item s.blk)) := by
  change execSiloPush q item s = _
  simp [execSiloPush, State.run, put, hup, hreset]

/-- Settles O47: a push that fits appends the item's entries, each an item's, so that O grows by n and stays at most D − 1; a drop
adds a marker at most. -/
theorem siloPushNeedsRoomBelowTheLastEntry : Obligations.SiloPushNeedsRoomBelowTheLastEntry := by
  unfold Obligations.SiloPushNeedsRoomBelowTheLastEntry
  intro s q item hon n old items depth
  refine ⟨(testBit_sqSts_full ..).trans (and_iff_right hon), testBit_sqSts_empty .., exec_siloPush_idle item,
    fun hup hreset => ⟨_, exec_siloPush_working item hup hreset, fun hroom => ?_, fun hover => ?_⟩⟩
  · have hfits : s.blk.siloFits q.val n = true := (siloFits_iff hon).2 hroom
    rw [silo_siloPush]
    exact ⟨itemEntries item, queue_siloPut_fits q.isLt hfits, length_itemEntries item, fun _ => of_mem_itemEntries,
      ⟨_, flatten_itemEntries item, by simpa [zeros] using (ceilDiv_bounds item.length).2⟩,
      Nat.le_trans (Nat.le_of_eq (items_siloPut_fits q.isLt hfits)) hroom⟩
  · have hfits : s.blk.siloFits q.val n = false :=
      Bool.eq_false_iff.2 fun h => Nat.not_le.2 hover ((siloFits_iff hon).1 h)
    rw [silo_siloPush, silo_siloPut_dropped hfits]
    exact siloDrop_adds_no_item s.blk q.isLt

end Sys2Proof.Claim

/-! PROOF. How an engine carries out an instruction that it can fetch and pay for (R467, R468), and the dividing operations
(R447, R448). -/

namespace Sys2Proof.Claim
open Sys2Proof Sys2Proof.Machine

/-! An instruction of an item that is ready for it. -/

section Carrying
variable {b c : Block} {e : Fin 26} {r r' : Run} {i : Idrik} {cost : Run → Nat} {f : Run → Block → IdRes}

/-- Nothing before the instruction's own checks and execution stops it. -/
theorem idGo_of_ready (h : Ready b e r i (cost r)) :
    idGo e i cost f b = match f (advanced r (cost r)) b with
      | .ok t d => withItem d e t
      | .fault code d => itemFault e.val r code r.pc d := by
  obtain ⟨hrun, hup, hrange, halign, hdec, hbudget⟩ := h
  simp only [idGo, hrun, hup, fetchOk, hrange, halign, hdec, Nat.not_lt.2 hbudget, decide_true, Bool.and_self, Bool.not_true,
    bne_self_eq_false, Bool.or_self, Bool.false_eq_true, if_false]
  rfl

theorem idGo_of_ok (h : Ready b e r i (cost r)) (hf : f (advanced r (cost r)) b = .ok r' c) :
    idGo e i cost f b = withItem c e r' := by
  rw [idGo_of_ready h, hf]

/-- A fault is that of the item as it was before the instruction. -/
theorem idGo_of_fault {code : Nat} (h : Ready b e r i (cost r)) (hf : f (advanced r (cost r)) b = .fault code c) :
    idGo e i cost f b = itemFault e.val r code r.pc c := by
  rw [idGo_of_ready h, hf]

end Carrying

@[simp] theorem checked_nil (b : Block) (res : IdRes) : checked b [] res = res := rfl

@[simp] theorem checked_chk (b : Block) (bad : Bool) (code : Nat) (l : List Chk) (res : IdRes) :
    checked b (chk bad code :: l) res = if bad then .fault code b else checked b l res := by
  cases bad <;> rfl

/-! Three-register operations. -/

theorem exec_aluInstr (s : State) (op : AluOp) (e : Fin 26) (rd ra rb : BitVec 5) :
    exec (aluInstr op e rd ra rb) s = .next (put s (idAlu e op rd ra rb s.blk)) := by
  cases op <;> rfl

theorem mem_dividing_iff {op : AluOp} : op ∈ [AluOp.div, .divu, .rem, .remu] ↔ aluDivides op = true := by
  cases op <;> decide

theorem flagsL_eq_flagL (v : DWord) (r : Run) : r.flagsL v = flagL v r := by
  rw [Run.flagsL, flagL, BitVec.msb_eq_toInt, Bool.beq_eq_decide_eq]

/-- A dividing operation sets flag group L of its result. -/
theorem aluFlags_of_divides {op : AluOp} (h : aluDivides op = true) (r : Run) (x y : DWord) :
    aluFlags op r x y = flagL (aluVal op x y) r := by
  rw [← flagsL_eq_flagL]
  cases op with
  | div | divu | rem | remu => rfl
  | _ => cases h

/-! The results: the machine's division of words is the division of numbers, modulo 2^64. -/

theorem sdiv_eq_ofInt (x y : DWord) : x.sdiv y = BitVec.ofInt 64 (x.toInt.tdiv y.toInt) :=
  BitVec.eq_of_toInt_eq (by rw [BitVec.toInt_sdiv, BitVec.toInt_ofInt])

theorem srem_eq_ofInt (x y : DWord) : x.srem y = BitVec.ofInt 64 (x.toInt - x.toInt.tdiv y.toInt * y.toInt) := by
  rw [Int.mul_comm, ← Int.tmod_def, ← BitVec.toInt_srem, BitVec.ofInt_toInt]

theorem udiv_eq_ofInt (x y : DWord) : x / y = BitVec.ofInt 64 ((x.toNat : Int) / y.toNat) := by
  rw [← Int.natCast_ediv, ← BitVec.toNat_udiv, BitVec.ofInt_natCast, BitVec.ofNat_toNat, BitVec.setWidth_eq]

theorem umod_eq_ofInt (x y : DWord) : x % y = BitVec.ofInt 64 ((x.toNat : Int) % y.toNat) := by
  rw [← Int.natCast_emod, ← BitVec.toNat_umod, BitVec.ofInt_natCast, BitVec.ofNat_toNat, BitVec.setWidth_eq]

theorem aluVal_of_divides {op : AluOp} (h : aluDivides op = true) (x y : DWord) :
    aluVal op x y = BitVec.ofInt 64 (aluExact op x y) := by
  cases op with
  | div => exact sdiv_eq_ofInt x y
  | divu => exact udiv_eq_ofInt x y
  | rem => exact srem_eq_ofInt x y
  | remu => exact umod_eq_ofInt x y
  | _ => cases h

/-! The dividing operations. -/

section Dividing
variable {b : Block} {op : AluOp} {e : Fin 26} {r : Run} {rd ra rb : BitVec 5}

theorem idAlu_divisor_zero (h : Ready b e r (.alu op rd ra rb) 1) (hop : aluDivides op = true) (hy : r.reg rb = 0) :
    idAlu e op rd ra rb b = itemFault e.val r 0x06 r.pc b := by
  have hreg : (advanced r 1).reg rb = 0 := hy
  exact idGo_of_fault h (by simp [one, hop, hreg])

theorem idAlu_divisor_ne_zero (h : Ready b e r (.alu op rd ra rb) 1) (hop : aluDivides op = true) (hy : r.reg rb ≠ 0) :
    idAlu e op rd ra rb b =
      withItem b e (flagL (aluVal op (r.reg ra) (r.reg rb)) (advancedW r rd (aluVal op (r.reg ra) (r.reg rb)))) := by
  have hreg : (advanced r 1).reg rb ≠ 0 := hy
  refine idGo_of_ok h ?_
  rw [checked_chk, checked_nil, if_neg (by simpa [one] using fun _ => hreg), aluFlags_of_divides hop]
  rfl

end Dividing

/-- Settles O6: the machine's one check of a dividing operation is the divisor's; past it the result is the quotient or the remainder
of the numbers, taken modulo 2^64. -/
theorem divisionGivesQuotientAndRemainder : Obligations.DivisionGivesQuotientAndRemainder := by
  unfold Obligations.DivisionGivesQuotientAndRemainder
  refine ⟨fun s op e r rd ra rb hready hop hzero => ?_, ?_, ?_, ?_, ?_⟩
  · rw [exec_aluInstr, idAlu_divisor_zero hready (mem_dividing_iff.1 hop) hzero]
  · intro s op e r rd ra rb x y v hready hop hy
    have hdiv := mem_dividing_iff.1 hop
    rw [exec_aluInstr, idAlu_divisor_ne_zero hready hdiv hy, aluVal_of_divides hdiv]
    rfl
  · decide
  · decide
  · decide

end Sys2Proof.Claim

/-! PROOF. A write of one word of a page's register past the owner lock and the sharing of settings (R39, R52, R473), what an error
leaves unchanged (R46, R57), and PL_CTL (R500, R501). -/

namespace Sys2Proof.Claim
open Sys2Proof Sys2Proof.Machine

/-! A word written to a register. -/

/-- A word write of an aligned register address is one access of the bus. -/
theorem exec_regWrite_word {s : State} {ag : Agent} {p o : Nat} (v : DWord) (hp : p ∈ allPages) (ho : o < 0x1000) (halign : o % 4 = 0)
    (hreach : s.blk.reach ag p = true) :
    exec (.regWrite ag (BitVec.ofNat 24 (pg p o)) .word v) s = .next (put s (busWrite ag (pg p o) (v.setWidth 32) s.blk)) := by
  have haligned : pg p o % 4 = 0 := by simp only [pg]; omega
  change execRegWrite ag _ .word v s = _
  simp only [execRegWrite, State.run, put, toNat_pg hp ho, regAccess, haligned, bne_self_eq_false, Bool.false_eq_true, if_false,
    accessWord, onlyIf, reaches_pg hp ho, hreach, if_true]

/-- The offset and the page of a register address. -/
theorem pg_div_mod {p o : Nat} (ho : o < 0x1000) : pg p o / 0x1000 = p ∧ pg p o % 0x1000 = o := by
  simp only [pg]
  omega

section Guarded
variable {b : Block} {ag : Agent} {p o : Nat} {r : RegRow}

/-- Nothing refuses a write of a register that the owner lock guards while the lock is open. -/
theorem writeCode_of_acceptsL (v : Word) (h : acceptsL b ag p o) (hp : p ∈ allPages) (ho : o < 0x1000) (hhdr : 0x40 ≤ o)
    (hrow : rowOf (pg p o) = some r) (hacc : r.acc = .rwl) : writeCode ag (pg p o) v b = some 0 := by
  obtain ⟨⟨-, hagent, hreset⟩, hlock, hshared⟩ := h
  obtain ⟨hdiv, hmod⟩ := pg_div_mod (p := p) ho
  have hbar : ¬ 0x100000 ≤ pg p o := by have := page_lt hp; simp only [pg]; omega
  have h18 : o ≠ 0x018 := by omega
  have h20 : o ≠ 0x020 := by omega
  have h28 : o ≠ 0x028 := by omega
  have hside : (ag == .side && !sbwAllows p o) = false := by
    rcases hagent with rfl | hsbw
    · rfl
    · simp [hsbw]
  simp [writeCode, hbar, hdiv, hmod, hp, h18, h20, h28, hside, hrow, hacc, Nat.not_lt.2 hhdr, hreset, hlock, hshared]

/-- The write of such a register, where it is no half of a pair, is its page's own. -/
theorem busWrite_of_acceptsL (v : Word) (h : acceptsL b ag p o) (hp : p ∈ allPages) (ho : o < 0x1000) (hhdr : 0x40 ≤ o)
    (hrow : rowOf (pg p o) = some r) (hacc : r.acc = .rwl) (hpair : rwPair (pg p o) = none) :
    busWrite ag (pg p o) v b = writePage ag p (pg p o) (v &&& w32 r.mask) b := by
  obtain ⟨hdiv, hmod⟩ := pg_div_mod (p := p) ho
  have hbar : ¬ 0x100000 ≤ pg p o := by have := page_lt hp; simp only [pg]; omega
  simp [busWrite, writeCode_of_acceptsL v h hp ho hhdr hrow hacc, writeDo, hbar, hdiv, hmod, Nat.not_lt.2 hhdr, hpair, hrow, hacc]

end Guarded

/-! An error (R46). -/

/-- PG_ERR's count is the word above its code. -/
theorem f_err_count (b : Block) (a : Nat) : b.f a 31 8 = (b.r a).toNat / 256 := by
  have := (b.r a).isLt
  simp only [Block.f, fld, bits]
  omega

theorem errorCounted_err {p code : Nat} (b : Block) (hcode : code < 256) : errorCounted p code b (err p code b) := by
  have := (b.r (pg p 0x01C)).isLt
  have hlow : b.f (pg p 0x01C) 7 0 = (b.r (pg p 0x01C)).toNat % 256 := by simp [Block.f, fld, bits]
  simp only [errorCounted, r_err_same, f_err_count, hlow, w32, BitVec.toNat_ofNat]
  split
  · omega
  · split <;> omega

theorem onlyError_err {p code : Nat} (b : Block) (hcode : code < 256) : onlyError p code b (err p code b) := by
  refine ⟨errorCounted_err b hcode, fun a ha => ?_⟩
  simp only [List.mem_cons, List.not_mem_nil, or_false, not_or] at ha
  exact r_err_ne code b ha.1 ha.2

/-! A message, a cause and an error change registers, the outward record and the pending messages alone. -/

section Frame
variable (b : Block) (regs : List (Nat × Word)) (out : List Output) (pend : BitVec 64)

theorem withRegsOutPend_msixSend (k : Nat) : { msixSend k b with regs := regs, out := out, msixPend := pend } =
    { b with regs := regs, out := out, msixPend := pend } := by
  unfold msixSend
  split <;> rfl

theorem withRegsOutPend_irq (p i : Nat) : { irq p i b with regs := regs, out := out, msixPend := pend } =
    { b with regs := regs, out := out, msixPend := pend } := by
  unfold irq withIrq
  split
  · rfl
  · dsimp only
    split
    · rw [withRegsOutPend_msixSend]
      rfl
    · rfl

theorem withRegsOutPend_err (p code : Nat) : { err p code b with regs := regs, out := out, msixPend := pend } =
    { b with regs := regs, out := out, msixPend := pend } := by
  unfold err
  dsimp only
  split
  · rw [withRegsOutPend_irq]
    rfl
  · rfl

end Frame

/-! PL_CTL (R500, R501). -/

/-- What a write of PL_CTL does to lane i: one that it takes out of service loses its lock. -/
def laneOff (v : Word) (i : Nat) (b : Block) : Block :=
  if !bitAt v i && b.pair.lanes.getLsbD i then
    b |> modPair (fun s => { s with lanes := s.lanes &&& ~~~(1#2 <<< i) }) |> cnt (pg 0x09 0x230) |> irq 0x09 1
  else b

/-- A lane out of service counts its loss and raises its cause; every other register reads as before. -/
theorem r_laneOff_ne {a : Nat} (v : Word) (i : Nat) (b : Block) (hlo : a ≠ pg 0x09 0x230) (hhi : a ≠ pg 0x09 0x234)
    (hirq : a ≠ pg 0x09 0x018) : (laneOff v i b).r a = b.r a := by
  unfold laneOff
  split
  · rw [r_irq_ne _ _ hirq, cnt, cntBy, r_wn64_ne _ _ hlo hhi, r_modPair]
  · rfl

theorem rowOf_plCtl : rowOf (pg 0x09 0x040) = some (rr 0x040 .rwl .n 0x3 0x3) := by decide

/-- PL_CTL's check: the value keeps a lane in service, or the pair is not enabled. -/
def keepsALane (w : Word) (b : Block) : Bool := fld w 1 0 != 0 || !b.t (pg 0x60 0x040) 0

/-- A write of PL_CTL past admission. -/
theorem exec_regWrite_plCtl {s : State} {ag : Agent} (v : DWord) (h : acceptsL s.blk ag 0x09 0x040) :
    exec (.regWrite ag (BitVec.ofNat 24 (pg 0x09 0x040)) .word v) s =
      let w := v.setWidth 32 &&& 3
      .next (put s (permit (keepsALane w s.blk) 0x09 0x20
        (fun b => b |> wr (pg 0x09 0x040) w |> laneOff w 0 |> laneOff w 1) s.blk)) := by
  have hpage : 0x09 ∈ allPages := by decide
  rw [exec_regWrite_word v hpage (by decide) (by decide) h.1.1,
    busWrite_of_acceptsL _ h hpage (by decide) (by decide) rowOf_plCtl rfl (by decide)]
  rfl

/-- The lanes field of what PL_CTL stores. -/
theorem fld_plCtl_eq_zero_iff (v : DWord) : fld (v.setWidth 32 &&& 3) 1 0 = 0 ↔ v.getLsbD 0 = false ∧ v.getLsbD 1 = false := by
  have hmask : (v.setWidth 32 &&& (3 : Word)).toNat = v.toNat % 2 ^ 32 % 2 ^ 2 := by
    rw [BitVec.toNat_and, BitVec.toNat_setWidth]
    exact Nat.and_two_pow_sub_one_eq_mod _ 2
  rw [fld, bits, hmask]
  simp only [BitVec.getLsbD, Nat.testBit_eq_decide_div_mod_eq, decide_eq_false_iff_not]
  omega

theorem keepsALane_iff (v : DWord) (b : Block) : keepsALane (v.setWidth 32 &&& 3) b = true ↔
    ¬ (v.getLsbD 0 = false ∧ v.getLsbD 1 = false) ∨ b.t (pg 0x60 0x040) 0 = false := by
  rw [keepsALane, Bool.or_eq_true, bne_iff_ne, Bool.not_eq_true', ne_eq, fld_plCtl_eq_zero_iff]

/-- Settles O60: past admission PL_CTL's own check decides; the error leaves all but its record, and a lane that goes out of service
leaves PL_CTL and PG_ERR. -/
theorem pairLinkKeepsALaneWhileThePairIsEnabled : Obligations.PairLinkKeepsALaneWhileThePairIsEnabled := by
  unfold Obligations.PairLinkKeepsALaneWhileThePairIsEnabled
  intro s ag v h both en
  refine ⟨fun hboth hen => ⟨_, exec_regWrite_plCtl v h, ?_⟩, fun hkeep => ⟨_, exec_regWrite_plCtl v h, ?_⟩⟩
  · have hrefused : ¬ keepsALane (v.setWidth 32 &&& 3) s.blk = true := fun hkeep =>
      ((keepsALane_iff v s.blk).1 hkeep).elim (· hboth) (Bool.eq_false_iff.1 · hen)
    rw [permit, if_neg hrefused]
    exact ⟨onlyError_err s.blk (by decide), withRegsOutPend_err ..⟩
  · rw [permit, if_pos ((keepsALane_iff v s.blk).2 hkeep)]
    constructor
    · rw [r_laneOff_ne _ _ _ (by decide) (by decide) (by decide), r_laneOff_ne _ _ _ (by decide) (by decide) (by decide), r_wr_same]
    · rw [r_laneOff_ne _ _ _ (by decide) (by decide) (by decide), r_laneOff_ne _ _ _ (by decide) (by decide) (by decide),
        r_wr_ne _ _ (by decide)]

end Sys2Proof.Claim

/-! PROOF. What the agents hold while the data path stops (R507-R509): one frame lemma for each operation on the way of a link reset
and of a warm reset. None of them but the reset of HOST touches what an agent holds for itself. -/

namespace Sys2Proof.Claim
open Sys2Proof Sys2Proof.Machine

/-- The two agents hold what they held. -/
abbrev sameAgents (b c : Block) : Prop := c.host = b.host ∧ c.side = b.side

theorem sameAgents.trans {b c d : Block} (h : sameAgents b c) (k : sameAgents c d) : sameAgents b d := ⟨k.1.trans h.1, k.2.trans h.2⟩

/-! Combinators. -/

@[simp] theorem sameAgents_onlyIf (p : Bool) {f : Block → Block} {b : Block} (hf : sameAgents b (f b)) : sameAgents b (onlyIf p f b) := by
  cases p
  · exact ⟨rfl, rfl⟩
  · exact hf

@[simp] theorem sameAgents_forEach {α : Type} {f : α → Block → Block} (hf : ∀ x b, sameAgents b (f x b)) (l : List α) (b : Block) :
    sameAgents b (forEach l f b) := by
  induction l generalizing b with
  | nil => exact ⟨rfl, rfl⟩
  | cons x l ih =>
    obtain ⟨hhost, hside⟩ := ih (f x b)
    exact ⟨hhost.trans (hf x b).1, hside.trans (hf x b).2⟩

/-! Registers, counters and alerts. -/

section
variable (a v i n : Nat) (b : Block)

@[simp] theorem sameAgents_wn : sameAgents b (wn a v b) := ⟨rfl, rfl⟩
@[simp] theorem sameAgents_wf (hi lo : Nat) : sameAgents b (wf a hi lo v b) := ⟨rfl, rfl⟩
@[simp] theorem sameAgents_wbit (p : Bool) : sameAgents b (wbit a i p b) := ⟨rfl, rfl⟩
@[simp] theorem sameAgents_cnt32 : sameAgents b (cnt32 a b) := ⟨rfl, rfl⟩
theorem sameAgents_wn64 : sameAgents b (wn64 a v b) := (sameAgents_wn a v b).trans (sameAgents_wn ..)
@[simp] theorem sameAgents_cntBy : sameAgents b (cntBy a n b) := sameAgents_wn64 ..
@[simp] theorem sameAgents_cnt : sameAgents b (cnt a b) := sameAgents_cntBy ..
@[simp] theorem sameAgents_sbAlert : sameAgents b (sbAlert i b) := ⟨rfl, rfl⟩
@[simp] theorem sameAgents_wmax : sameAgents b (wmax a v b) := by
  unfold wmax
  split <;> simp [sameAgents]

end

/-! Silos and events for the Thresher. -/

@[simp] theorem sameAgents_siloDrop (q : Nat) (b : Block) : sameAgents b (siloDrop q b) := by
  unfold siloDrop
  dsimp only
  split
  · simp [sameAgents]
  · split
    · simp [sameAgents]
    · split <;> simp [sameAgents]

@[simp] theorem sameAgents_siloPut (q : Nat) (item : List Byte) (b : Block) : sameAgents b (siloPut q item b) := by
  unfold siloPut siloPeak
  dsimp only
  split
  · split <;> simp [sameAgents]
  · simp [sameAgents]

@[simp] theorem sameAgents_thrRaise (src : Nat) (t : Gt) (bale : Nat) (b : Block) : sameAgents b (thrRaise src t bale b) := ⟨rfl, rfl⟩

@[simp] theorem sameAgents_siloPush (q : Nat) (item : List Byte) (b : Block) : sameAgents b (siloPush q item b) := by
  simp [sameAgents, siloPush]

@[simp] theorem sameAgents_siloReset (q : Nat) (b : Block) : sameAgents b (siloReset q b) := by simp [sameAgents, siloReset, siloEmpty]

/-! The pair. -/

@[simp] theorem sameAgents_pairEvr (code a1 a2 : Nat) (b : Block) : sameAgents b (pairEvr code a1 a2 b) := by simp [sameAgents, pairEvr]

@[simp] theorem sameAgents_setRole (r : PairRole) (b : Block) : sameAgents b (setRole r b) := by
  unfold setRole
  split <;> simp [sameAgents]

@[simp] theorem sameAgents_plLost (b : Block) : sameAgents b (plLost b) := by
  unfold plLost pairDetach plRestart dropDigests
  split <;> simp [sameAgents]

@[simp] theorem sameAgents_plEmit (seq : Nat) (again : Bool) (m : PlMsg) (b : Block) : sameAgents b (plEmit seq again m b) := by
  simp [sameAgents, plEmit]

@[simp] theorem sameAgents_plSend (m : PlMsg) (b : Block) : sameAgents b (plSend m b) := by
  unfold plSend
  split
  · exact ⟨rfl, rfl⟩
  · split
    · simp [sameAgents]
    · split
      · simp [sameAgents]
      · extract_lets seq isMirror c k
        have hc : sameAgents b c := ⟨rfl, rfl⟩
        clear_value c k
        refine sameAgents.trans ?_ (sameAgents_plEmit ..)
        dsimp only
        split <;> simp [sameAgents, hc]

@[simp] theorem sameAgents_release (cause : Nat) (b : Block) : sameAgents b (release cause b) := by
  unfold release modLease govHold
  split <;> simp [sameAgents]

@[simp] theorem sameAgents_pairStop (rejoin : Bool) (b : Block) : sameAgents b (pairStop rejoin b) := by
  simp [sameAgents, pairStop, modLease, govUnhold]

/-! Health and the engines. -/

@[simp] theorem sameAgents_updFail (cause : Nat) (b : Block) : sameAgents b (updFail cause b) := by
  unfold updFail
  split <;> simp [sameAgents]

@[simp] theorem sameAgents_healthRefresh (b : Block) : sameAgents b (healthRefresh b) := by
  unfold healthRefresh
  dsimp only
  split <;> simp [sameAgents]

@[simp] theorem sameAgents_healthCond (i : Nat) (p : Bool) (b : Block) : sameAgents b (healthCond i p b) := by simp [sameAgents, healthCond]

@[simp] theorem sameAgents_shadowSpare (b : Block) : sameAgents b (shadowSpare b) := by
  unfold shadowSpare
  split
  · exact ⟨rfl, rfl⟩
  · split <;> simp [sameAgents]

@[simp] theorem sameAgents_engRefresh (b : Block) : sameAgents b (engRefresh b) := by simp [sameAgents, engRefresh, stsBit]

@[simp] theorem sameAgents_statusRegs (b : Block) : sameAgents b (statusRegs b) := by simp [sameAgents, statusRegs, rmapRegs, lanesReg]

/-! Field update. -/

@[simp] theorem sameAgents_setPhase (p : Nat) (b : Block) : sameAgents b (setPhase p b) := by
  unfold setPhase progress updState
  split <;> simp [sameAgents]

@[simp] theorem sameAgents_updRefuse (c : Nat) (b : Block) : sameAgents b (updRefuse c b) := by simp [sameAgents, updRefuse, setResult]

@[simp] theorem sameAgents_updAbandon (code : Nat) (b : Block) : sameAgents b (updAbandon code b) := by
  unfold updAbandon modImg setResult
  dsimp only
  split <;> simp [sameAgents]

@[simp] theorem sameAgents_updStop (b : Block) : sameAgents b (updStop b) := by
  unfold updStop
  split
  · simp [sameAgents]
  · split <;> simp [sameAgents]

@[simp] theorem sameAgents_updLinkReset (b : Block) : sameAgents b (updLinkReset b) := by
  unfold updLinkReset
  split <;> simp [sameAgents]

/-! The owner session and the keys. -/

@[simp] theorem sameAgents_endSession (cause : Nat) (b : Block) : sameAgents b (endSession cause b) := by
  have hlock : ∀ (p : Nat) (c : Block), sameAgents c (if c.locked p then c else wbit (pg p 0x028) 0 true c) := fun p c => by
    split <;> simp [sameAgents]
  unfold endSession
  split
  · exact ⟨rfl, rfl⟩
  · simp [sameAgents, hlock]

theorem sameAgents_keyUse (slot use : Nat) (b : Block) : sameAgents b (keyUse slot use b).2 := by
  unfold keyUse
  extract_lets t ok
  split <;> simp [sameAgents]

/-- Signing uses a key and leaves the rest, with or without a signed message. -/
theorem sameAgents_of_ptpSigned {msg : List Byte} {b c : Block} {r : Option (List Byte)} (h : ptpSigned msg b = (r, c)) :
    sameAgents b c := by
  have huse := sameAgents_keyUse (b.f (pg 0x02 0x094) 7 0) 5 b
  unfold ptpSigned at h
  split at h
  · cases h
    exact ⟨rfl, rfl⟩
  · split at h
    case h_1 huses =>
      cases h
      rwa [huses] at huse
    case h_2 huses =>
      cases h
      rwa [huses] at huse

/-! The ports. -/

@[simp] theorem sameAgents_lineStart (p : Nat) (f : TxFrame) (egress : Gt) (b : Block) : sameAgents b (lineStart p f egress b) := by
  simp [sameAgents, lineStart]

@[simp] theorem sameAgents_pdReqSent (p seq : Nat) (egress : Gt) (b : Block) : sameAgents b (pdReqSent p seq egress b) := by
  unfold pdReqSent modPtp
  dsimp only
  split
  · simp [sameAgents]
  · split
    · simp [sameAgents]
    · split <;> simp [sameAgents]

@[simp] theorem sameAgents_modDesc (p cls : Nat) (f : Desc → Desc) (b : Block) : sameAgents b (modDesc p cls f b) := by
  simp [sameAgents, modDesc]

/-- The frame that goes first decides what the port sends; the fuel bounds frames passed over and the partner's copies. -/
@[simp] theorem sameAgents_txStartN (n p : Nat) (b : Block) : sameAgents b (txStartN n p b) := by
  induction n generalizing p b with
  | zero => exact ⟨rfl, rfl⟩
  | succ n ih =>
    unfold txStartN
    dsimp only
    split
    · exact ⟨rfl, rfl⟩
    · split
      case h_1 => exact ⟨rfl, rfl⟩
      case h_2 => simp [sameAgents]
      case h_3 =>
        split
        · simp [sameAgents, ih]
        · split
          · simp [sameAgents]
          · split
            · split
              case h_1 hsigned => simp [sameAgents, sameAgents_of_ptpSigned hsigned]
              case h_2 hsigned => simp [sameAgents, ih, sameAgents_of_ptpSigned hsigned]
            · simp [sameAgents]
      case h_4 => simp [sameAgents]
      case h_5 =>
        split
        · simp [sameAgents]
        · split
          · simp [sameAgents]
          · split <;> simp [sameAgents, ih]

@[simp] theorem sameAgents_txStart (p : Nat) (b : Block) : sameAgents b (txStart p b) := sameAgents_txStartN ..

@[simp] theorem sameAgents_portDown (p cause : Nat) (b : Block) : sameAgents b (portDown p cause b) := by
  unfold portDown dropQueued txKick pcnt pcntBy
  split
  · exact ⟨rfl, rfl⟩
  · split <;> simp [sameAgents]

@[simp] theorem sameAgents_pauseOver (p : Nat) (t : Gt) (b : Block) : sameAgents b (pauseOver p t b) := by
  unfold pauseOver pcntBy
  split <;> simp [sameAgents]

@[simp] theorem sameAgents_descDone (p : Nat) (host : Bool) (d : Desc) (code : Nat) (b : Block) :
    sameAgents b (descDone p host d code b) := by
  unfold descDone pcnt
  extract_lets size base counted c
  have hcounted : sameAgents b counted := by
    simp only [counted]
    split <;> simp [sameAgents]
  clear_value counted
  have hc : sameAgents b c := by
    simp only [c]
    split <;> simp [sameAgents, hcounted]
  clear_value c
  split <;> simp [sameAgents, hc]

@[simp] theorem sameAgents_portStop (host : Bool) (f : Desc → Bool) (p : Nat) (b : Block) : sameAgents b (portStop host f p b) := by
  simp [sameAgents, portStop, descsEnd]

/-! Grid time. -/

@[simp] theorem sameAgents_enterHoldover (b : Block) : sameAgents b (enterHoldover b) := ⟨rfl, rfl⟩

@[simp] theorem sameAgents_reselectBy (told : Bool) (b : Block) : sameAgents b (reselectBy told b) := by
  unfold reselectBy relock
  dsimp only
  split
  · exact ⟨rfl, rfl⟩
  · split
    · split <;> simp [sameAgents]
    · split <;> simp [sameAgents]

@[simp] theorem sameAgents_ptpRestart (b : Block) : sameAgents b (ptpRestart b) := by
  simp [sameAgents, ptpRestart, disqualify, modSrc]

/-! Acquisition, the chain and housekeeping. -/

@[simp] theorem sameAgents_modChan (c : Nat) (f : ChanSt → ChanSt) (b : Block) : sameAgents b (modChan c f b) := by
  unfold modChan
  split <;> simp [sameAgents]

@[simp] theorem sameAgents_chainDisturbAll (b : Block) : sameAgents b (chainDisturbAll b) := by
  simp [sameAgents, chainDisturbAll, disturbField, disturb, disturbSv, modSv]

@[simp] theorem sameAgents_chainStop (b : Block) : sameAgents b (chainStop b) := by simp [sameAgents, chainStop, chanFresh]

@[simp] theorem sameAgents_swapsCancel (field sv : Bool) (b : Block) : sameAgents b (swapsCancel field sv b) := by
  simp [sameAgents, swapsCancel]

@[simp] theorem sameAgents_hkStop (b : Block) : sameAgents b (hkStop b) := by simp [sameAgents, hkStop]

/-! The Gleaner and the Granary. -/

@[simp] theorem sameAgents_gleanStop (b : Block) : sameAgents b (gleanStop b) := ⟨rfl, rfl⟩
@[simp] theorem sameAgents_granStop (warm : Bool) (b : Block) : sameAgents b (granStop warm b) := by
  simp [sameAgents, granStop]
@[simp] theorem sameAgents_granLost (b : Block) : sameAgents b (granLost b) := ⟨rfl, rfl⟩
@[simp] theorem sameAgents_scratchLost (b : Block) : sameAgents b (scratchLost b) := ⟨rfl, rfl⟩

/-! Detectors and alarms. -/

@[simp] theorem sameAgents_oscReset (b : Block) : sameAgents b (oscReset b) := by simp [sameAgents, oscReset]

@[simp] theorem sameAgents_srcReq (owner src : Nat) (on : Bool) (t : Gt) (replayed : Bool) (b : Block) :
    sameAgents b (srcReq owner src on t replayed b) := by
  unfold srcReq
  dsimp only
  split <;> simp [sameAgents]

@[simp] theorem sameAgents_islNotice (g ev cause crit : Nat) (x : IslCtx) (b : Block) : sameAgents b (islNotice g ev cause crit x b) := by
  unfold islNotice
  extract_lets s silo
  generalize (!b.t islCtl (if ev = 5 then 3 else 0)) = silent
  split <;> simp [sameAgents]

@[simp] theorem sameAgents_alarmEnded (b : Block) : sameAgents b (alarmEnded b) := ⟨rfl, rfl⟩

@[simp] theorem sameAgents_islTell (g : Nat) (on : Bool) (cause crit : Nat) (x : IslCtx) (b : Block) :
    sameAgents b (islTell g on cause crit x b) := by
  cases on <;> simp [sameAgents, islTell]

@[simp] theorem sameAgents_grpRestart (g cause : Nat) (x : IslCtx) (tell : Bool) (b : Block) :
    sameAgents b (grpRestart g cause x tell b) := by
  simp [sameAgents, grpRestart, modGrp]

@[simp] theorem sameAgents_islReset (block : Bool) (b : Block) : sameAgents b (islReset block b) := by
  unfold islReset
  refine sameAgents.trans ⟨rfl, rfl⟩ (sameAgents_forEach (fun g c => ?_) _ _)
  refine sameAgents.trans ?_ (sameAgents_grpRestart ..)
  split <;> simp [sameAgents]

@[simp] theorem sameAgents_almPins (b : Block) : sameAgents b (almPins b) := ⟨rfl, rfl⟩

@[simp] theorem sameAgents_modBall (i : Nat) (f : BallSt → BallSt) (b : Block) : sameAgents b (modBall i f b) := by
  unfold modBall
  split <;> simp [sameAgents]

@[simp] theorem sameAgents_almClear (b : Block) : sameAgents b (almClear b) := by simp [sameAgents, almClear, srcShow]

@[simp] theorem sameAgents_gooseFresh (b : Block) : sameAgents b (gooseFresh b) := by simp [sameAgents, gooseFresh, modDs]

theorem sameAgents_modAlm (f : AlmSt → AlmSt) (b : Block) : sameAgents b (modAlm f b) := ⟨rfl, rfl⟩

/-- Step by step: a rewrite by the law of modAlm would have the kernel evaluate what almClear answers. -/
@[simp] theorem sameAgents_almReset (b : Block) : sameAgents b (almReset b) := by
  have hclear : sameAgents b (almClear (almForce b)) := sameAgents_almClear (almForce b)
  exact (hclear.trans (sameAgents_modAlm ..)).trans (sameAgents_gooseFresh _)

/-! Control outputs, capture and the Thresher. -/

@[simp] theorem sameAgents_modCo (c : Nat) (f : CoSt → CoSt) (b : Block) : sameAgents b (modCo c f b) := by
  unfold modCo
  split <;> simp [sameAgents]

@[simp] theorem sameAgents_govReset (b : Block) : sameAgents b (govReset b) := by simp [sameAgents, govReset]

@[simp] theorem sameAgents_modDef (d : Nat) (f : CapDef → CapDef) (b : Block) : sameAgents b (modDef d f b) := by
  unfold modDef
  split <;> simp [sameAgents]

@[simp] theorem sameAgents_capFreeExt (d : Nat) (seq : Option Nat) (b : Block) : sameAgents b (capFreeExt d seq b) := by
  unfold capFreeExt modArea
  dsimp only
  split <;> simp [sameAgents]

@[simp] theorem sameAgents_capPins (b : Block) : sameAgents b (capPins b) := ⟨rfl, rfl⟩

@[simp] theorem sameAgents_capAbandon (b : Block) : sameAgents b (capAbandon b) := by simp [sameAgents, capAbandon]

@[simp] theorem sameAgents_thrReset (reset : Bool) (b : Block) : sameAgents b (thrReset reset b) := by
  unfold thrReset thrClear
  dsimp only
  split <;> simp [sameAgents]

/-! The data path as a whole, and the rest of a reset. -/

@[simp] theorem sameAgents_dataStop (keep : Bool) (b : Block) : sameAgents b (dataStop keep b) := by
  simp [sameAgents, dataStop, rotStop, keysLost, commitDrop]

theorem sameAgents_regsReset (cs : List Cls) (p : Nat → Bool) (b : Block) : sameAgents b (regsReset cs p b) := ⟨rfl, rfl⟩
theorem sameAgents_withDev (d : DevSt) (b : Block) : sameAgents b { b with dev := d } := ⟨rfl, rfl⟩
theorem sameAgents_modKeys (f : Keys → Keys) (b : Block) : sameAgents b (modKeys f b) := ⟨rfl, rfl⟩
theorem sameAgents_modTime (f : TimeSt → TimeSt) (b : Block) : sameAgents b (modTime f b) := ⟨rfl, rfl⟩
theorem sameAgents_thermalEnd (b : Block) : sameAgents b (thermalEnd b) := ⟨rfl, rfl⟩

end Sys2Proof.Claim

/-! PROOF. EVR_ADV and the cursors of the event recorder (R550): its write, and what link, warm and cold resets leave. -/

namespace Sys2Proof.Claim
open Sys2Proof Sys2Proof.Machine

/-! Commands at registers. -/

/-- A command that is accepted passes its gate. -/
theorem cmdGate_of_accepts {b : Block} {ag : Agent} {p o : Nat} (f : Block → Block) (h : accepts b ag p o) :
    cmdGate ag p o f b = f b := by
  obtain ⟨hreach, hagent, hreset⟩ := h
  have hside : (ag == .side && !sbwAllows p o) = false := by
    rcases hagent with rfl | hsbw
    · rfl
    · simp [hsbw]
  simp [cmdGate, hdrGate, hreach, hside, hreset]

/-! EVR_ADV (R550). -/

/-- A change of what one agent holds leaves the other's. -/
theorem agent_modAgent_ne {ag ag' : Agent} (f : AgentSt → AgentSt) (b : Block) (h : ag' ≠ ag) :
    (modAgent ag f b).agent ag' = b.agent ag' := by
  cases ag <;> cases ag'
  · exact absurd rfl h
  · rfl
  · rfl
  · exact absurd rfl h

/-- A write of EVR_ADV past its gate. -/
theorem exec_evrAdv {s : State} {ag : Agent} (v : Word) (h : accepts s.blk ag 0x64 0x084) :
    exec (.evrAdv ag v) s = .next (put s (evrAdvance ag v s.blk)) := by
  change execEvrAdv ag v s = _
  rw [execEvrAdv, State.run, cmdGate_of_accepts _ h, put]

/-- The field of EVR_ADV. -/
theorem fld_evrAdv (v : Word) : fld v 15 0 = v.toNat % 65536 := by simp [fld, bits]

theorem agent_of_sameAgents {b c : Block} (h : sameAgents b c) (ag : Agent) : c.agent ag = b.agent ag := by
  cases ag
  · exact h.1
  · exact h.2

theorem evrAdvance_of_ne_zero {ag : Agent} {v : Word} (b : Block) (h : v.toNat % 65536 ≠ 0) :
    evrAdvance ag v b = modAgent ag (fun g => { g with evrCur := g.evrCur + w32 (v.toNat % 65536) }) b := by
  simp only [evrAdvance, fld_evrAdv, if_neg h]

theorem evrAdvance_of_zero {ag : Agent} {v : Word} (b : Block) (h : v.toNat % 65536 = 0) : evrAdvance ag v b = err 0x64 0x06 b := by
  simp only [evrAdvance, fld_evrAdv, if_pos h]

/-! The cursors across resets (R507, R550). -/

/-- The host's cursor is back at 0 and the side-band's stays. -/
def hostCursorReset (b c : Block) : Prop := c.host.evrCur = 0 ∧ c.side.evrCur = b.side.evrCur

/-- The reset of HOST that every link reset holds. -/
theorem hostCursorReset_linkCore (b : Block) : hostCursorReset b (linkCore b) := ⟨rfl, rfl⟩

theorem hostCursorReset_of_sameAgents {b c d : Block} (h : sameAgents b c) (k : hostCursorReset c d) : hostCursorReset b d :=
  ⟨k.1, k.2.trans (congrArg AgentSt.evrCur h.2)⟩

theorem hostCursorReset.trans_sameAgents {b c d : Block} (h : hostCursorReset b c) (k : sameAgents c d) : hostCursorReset b d :=
  ⟨(congrArg AgentSt.evrCur k.1).trans h.1, (congrArg AgentSt.evrCur k.2).trans h.2⟩

/-- The agents' registers of class W hold no cursor. -/
theorem hostCursorReset.trans_agentWarm {b c d : Block} (h : hostCursorReset b c) (hhost : d.host = agentWarm c.host)
    (hside : d.side = agentWarm c.side) : hostCursorReset b d :=
  ⟨(congrArg AgentSt.evrCur hhost).trans h.1, (congrArg AgentSt.evrCur hside).trans h.2⟩

/-- Of a link reset only the reset of HOST reaches a cursor. -/
theorem hostCursorReset_linkDownReset (b : Block) : hostCursorReset b (linkDownReset b) := by
  unfold linkDownReset
  refine hostCursorReset_of_sameAgents ?_ (hostCursorReset_linkCore _)
  refine (sameAgents_endSession 3 b).trans (.trans (sameAgents_modKeys ..) (.trans (sameAgents_forEach (fun p c => ?_) _ _)
    (.trans (sameAgents_updLinkReset _) (.trans (sameAgents_regsReset ..) (sameAgents_withDev ..)))))
  split <;> simp [sameAgents]

/-- In Run or Idle the part is not Off, and no cold or warm reset is held. -/
theorem of_up {b : Block} (h : b.up = true) : (b.dev.st == .off) = false ∧ b.dev.cold = false ∧ b.dev.warm = false := by
  simp only [Block.up, Bool.and_eq_true, Bool.or_eq_true, beq_iff_eq, Bool.not_eq_true'] at h
  obtain ⟨⟨hst, hcold⟩, hwarm⟩ := h
  refine ⟨?_, hcold, hwarm⟩
  rcases hst with hst | hst <;> rw [hst] <;> rfl

/-- A warm reset from Run or Idle stops the data path, takes the link reset with it and clears the agents' registers of class W; the
refreshed status registers and balls reach no cursor. -/
theorem hostCursorReset_warmStart {b : Block} (cause : Nat) (h : b.up = true) : hostCursorReset b (warmStart cause b) := by
  obtain ⟨hoff, hcold, hwarm⟩ := of_up h
  have hpowered : ¬ (b.dev.st == .off || b.dev.cold) = true := by simp [hoff, hcold]
  unfold warmStart
  rw [if_neg hpowered, if_neg (Bool.eq_false_iff.1 hwarm)]
  extract_lets dst keep c d
  have hc : hostCursorReset b c := by
    refine hostCursorReset_of_sameAgents ?_ (hostCursorReset_linkCore _)
    refine sameAgents.trans ?_ (.trans (sameAgents_modTime ..) (sameAgents_regsReset ..))
    refine sameAgents.trans (sameAgents_onlyIf _ (sameAgents_dataStop ..)) (sameAgents_onlyIf _ ?_)
    exact (sameAgents_swapsCancel ..).trans (sameAgents_thermalEnd _)
  have hd : d.host = c.host ∧ d.side = c.side := by
    simp only [d]
    clear_value c
    split <;> exact ⟨rfl, rfl⟩
  clear_value d
  refine hostCursorReset.trans_sameAgents ?_ (.trans (sameAgents_statusRegs _) (.trans (sameAgents_engRefresh _)
    (.trans (sameAgents_almPins _) (sameAgents_capPins _))))
  exact (hc.trans_sameAgents hd).trans_agentWarm rfl rfl

/-- A cold reset makes both agents' state anew. -/
theorem evrCur_coldStart (cause : Nat) (b : Block) :
    (coldStart cause b).host.evrCur = 0 ∧ (coldStart cause b).side.evrCur = 0 := ⟨rfl, rfl⟩

/-! The resets as commands (R74, R75). -/

/-- A link reset that no higher reset, no link reset and no Keep absorbs is carried out. -/
theorem exec_linkReset {s : State} (src : LinkSrc) (haon : s.blk.aon = true) (hkeep : s.blk.dev.st ≠ .keep)
    (hwarm : s.blk.dev.warm = false) (hlink : s.blk.dev.link = false) :
    exec (.linkReset src) s = .next (put s (linkDownReset
      (if src = .perstLow then { s.blk with balls := { s.blk.balls with perstN := false } } else s.blk))) := by
  change execLinkReset src s = _
  have haon' : (s.blk.dev.st != .off && !s.blk.dev.cold) = true := haon
  have hkeep' : (s.blk.dev.st == .keep) = false := by simpa using hkeep
  unfold execLinkReset State.run put
  split <;> simp only [Block.aon, haon', hkeep', hwarm, hlink] <;> rfl

/-- RST_N low for 1 µs is no glitch. -/
theorem exec_warmReset {s : State} (h : s.blk.up = true) : exec (.warmReset 1000) s = .next (put s (warmStart 3 s.blk)) := by
  change execWarmReset 1000 s = _
  unfold execWarmReset State.run
  dsimp only
  rw [if_neg (Bool.eq_false_iff.1 (of_up h).1)]
  rfl

/-- Settles O36: an accepted write is a change of its own agent's state or an error alone; a link reset and a warm reset reach the
cursors through the reset of HOST alone; a cold reset makes both agents anew. -/
theorem evrAdvMovesTheWritersCursorOnly : Obligations.EvrAdvMovesTheWritersCursorOnly := by
  unfold Obligations.EvrAdvMovesTheWritersCursorOnly
  intro s ag v
  refine ⟨fun h hv => ⟨_, exec_evrAdv v h, ?_⟩, fun h hv => ⟨_, exec_evrAdv v h, ?_⟩, fun src haon hkeep hwarm hlink => ?_,
    fun hup => ⟨_, exec_warmReset hup, hostCursorReset_warmStart 3 hup⟩, ⟨_, rfl, evrCur_coldStart 1 s.blk⟩⟩
  · rw [evrAdvance_of_ne_zero _ hv]
    refine ⟨?_, fun ag' hne => agent_modAgent_ne _ _ hne, modAgent_regs .., modAgent_evr ..⟩
    rw [modAgent_agent]
  · rw [evrAdvance_of_zero _ hv]
    exact ⟨onlyError_err _ (by decide), agent_of_sameAgents ⟨err_host .., err_side ..⟩⟩
  · refine ⟨_, exec_linkReset src haon hkeep hwarm hlink, hostCursorReset_of_sameAgents ?_ (hostCursorReset_linkDownReset _)⟩
    split <;> exact ⟨rfl, rfl⟩

end Sys2Proof.Claim
